-- ==== Sys2Proof/Word.lean ====
section
/-! DEFINITION. The word types of the Slofold GL4 (R4) and their plainest arithmetic. -/

namespace Sys2Proof

/-- A byte, 8 bits (R4). -/
abbrev Byte := BitVec 8
/-- A word, 32 bits (R4): the width of a vector register (R61). -/
abbrev Word := BitVec 32
/-- A dword, 64 bits (R4): the width of an address or of a register pair (R64). -/
abbrev DWord := BitVec 64
/-- A vector register number, v0 to v255 (R228). -/
abbrev Reg := BitVec 8

/-- The two halves of a dword, low first: the order of a register pair (R64). -/
def DWord.lo (x : DWord) : Word := x.setWidth 32
def DWord.hi (x : DWord) : Word := (x >>> 32).setWidth 32
def DWord.ofHalves (lo hi : Word) : DWord := hi ++ lo

end Sys2Proof
end

