-- ==== Sys2Proof/Syntax.lean ====
section
/-! DEFINITION. The instructions of Uaten-3 and the indivisible steps of the device's other agents:
one constructor of `Instr` for each row of spec/opcode_table.json, with its operands. -/

namespace Sys2Proof

/-- The type codes of Table 12.4 (R234). -/
inductive Ty where
  | u32 | s32 | f32 | bf16x2 | f16x2 | e4m3x4 | e5m2x4 | u16x2 | s16x2 | u8x4 | s8x4 | u64 | s64
  deriving DecidableEq, Repr, Inhabited

/-- The matrix element codes of Table 12.5 (R235). -/
inductive Elem where
  | bf16 | f16 | e4m3 | e5m2 | e2m3 | e3m2 | e2m1 | s8
  deriving DecidableEq, Repr, Inhabited

/-- The rounding codes of Table 12.6 (R45, R235). -/
inductive Rm where
  | rne | rz | ru | rd
  deriving DecidableEq, Repr, Inhabited

/-- The scopes of Table 06.1 (R106). -/
inductive Scope where
  | slice | warp | crew | device | system | domain
  deriving DecidableEq, Repr, Inhabited

/-- The access sizes of Table 15.2 (R286). -/
inductive Sz where
  | u8 | s8 | u16 | s16 | b32 | b64 | b128
  deriving DecidableEq, Repr, Inhabited

/-- The atomic element types of Table 15.5 (R292). -/
inductive ATy where
  | u32 | s32 | f32 | bf16x2 | f16x2 | u64 | s64 | u8
  deriving DecidableEq, Repr, Inhabited

/-- The atomic operations of Table 15.6 (R292). -/
inductive AOp where
  | add | min | max | and | or | xor | exch
  deriving DecidableEq, Repr, Inhabited

/-- The predicate operations of PLOP (R259). -/
inductive POp where
  | and | or | xor | andn | orn | nand | nor | xnor
  deriving DecidableEq, Repr, Inhabited

/-- The integer fold operations (R274). -/
inductive FoldOp where
  | add | min | max | and | or | xor
  deriving DecidableEq, Repr, Inhabited

/-- The lane-exchange modes (R272). -/
inductive XMode where
  | get | rot | shift | bfly
  deriving DecidableEq, Repr, Inhabited

/-- The transform-pipe functions of Table 14.3 (R277). -/
inductive XFn where
  | mxpack | mxunpack | fp8pack | crc64 | dither
  deriving DecidableEq, Repr, Inhabited

/-- The fence kinds (R296). -/
inductive FKind where
  | rel | acq | acqInv | acqRel
  deriving DecidableEq, Repr, Inhabited

/-- The image kinds of TCOPY and TCRED (Table 15.9). -/
inductive TKind where
  | scr | tile | glb
  deriving DecidableEq, Repr, Inhabited

/-- The A sources of the matrix products (Table 16.2). -/
inductive ASrc where
  | reg | scr | acc
  deriving DecidableEq, Repr, Inhabited

/-- The modes of ACCMOV (R325). -/
inductive MovMode where
  | tt | tr | rt
  deriving DecidableEq, Repr, Inhabited

/-- The modes of RTE (R358). -/
inductive RteMode where
  | retry | next | end_
  deriving DecidableEq, Repr, Inhabited

/-- The kinds of CACHEOP (R359). -/
inductive CacheKind where
  | icache | l1 | l2clean | l2flush
  deriving DecidableEq, Repr, Inhabited

/-- The kinds of TLBOP (R360). -/
inductive TlbKind where
  | va | ctx | all | resolve
  deriving DecidableEq, Repr, Inhabited

/-- The operations of CTXOP (R361). -/
inductive CtxKind where
  | create | kill | preempt | resume | abort
  deriving DecidableEq, Repr, Inhabited

/-- The name of an event operand: immediate or a register (R342). -/
inductive EvName where
  | imm (n : BitVec 16)
  | reg (r : Reg)
  deriving DecidableEq, Repr, Inhabited

/-- A guard, `?vR.b` or `?!vR.b` (R65). -/
structure Guard where
  reg : Reg
  bit : BitVec 5
  neg : Bool
  deriving DecidableEq, Repr, Inhabited

/-- What every instruction word carries beside its operands (R228): guard, lookahead, the live mask of
the 128S form (R230), the reuse bits (R68). -/
structure Hdr where
  guard : Option Guard
  la    : BitVec 4
  mask  : Option (BitVec 64)
  ruA   : Bool
  ruB   : Bool
  ruC   : Bool
  deriving DecidableEq, Repr, Inhabited

/-! Operand structures, one per shape. `m4` is MOD[4], the uniform bit U or SAT as the opcode says. -/

structure Bare where (h : Hdr) deriving DecidableEq, Repr, Inhabited
structure NopI where (h : Hdr) (imm : Word) deriving DecidableEq, Repr, Inhabited
structure NopL where (h : Hdr) (imm : DWord) deriving DecidableEq, Repr, Inhabited
/-- `op.t vD, vA, vB` in the 64 form. -/
structure Bin where (h : Hdr) (t : Ty) (m4 : Bool) (d a b : Reg) deriving DecidableEq, Repr, Inhabited
/-- `op.t vD, vA, imm32` in the 96I form. -/
structure BinI where (h : Hdr) (t : Ty) (d a : Reg) (imm : Word) deriving DecidableEq, Repr, Inhabited
/-- `op.t vD:vD+1, vA:vA+1, imm64` in the 128I form. -/
structure BinL where (h : Hdr) (t : Ty) (m4 : Bool) (d a : Reg) (imm : DWord) deriving DecidableEq, Repr, Inhabited
/-- `op.t vD, vA` in the 64 form. -/
structure Un where (h : Hdr) (t : Ty) (m4 : Bool) (d a : Reg) deriving DecidableEq, Repr, Inhabited
/-- `op.t vD, vA, vB, vC` in the 96C form; `sel` is the extension's own value (BOOL3's table, LEA's
shift, ISEL's bit, FFMA's rounding code, FSHF's LEFT, IDP's BS); `sat` is X24[2]: SAT, and PFMA2's BLO. -/
structure Tern where (h : Hdr) (t : Ty) (ub uc sat : Bool) (sel : BitVec 8) (d a b c : Reg) deriving DecidableEq, Repr, Inhabited
/-- A compare writing bits 2·k2 and 2·k2+1 of D; `m0` is MOD[0] (R258, R264). -/
structure Cmp where (h : Hdr) (k2 : BitVec 4) (m0 : Bool) (d a b : Reg) deriving DecidableEq, Repr, Inhabited
structure CmpI where (h : Hdr) (k2 : BitVec 4) (m0 : Bool) (d a : Reg) (imm : Word) deriving DecidableEq, Repr, Inhabited
structure Plop where (h : Hdr) (k : BitVec 5) (op : POp) (i : BitVec 5) (d a : Reg) deriving DecidableEq, Repr, Inhabited
structure Movi where (h : Hdr) (d : Reg) (imm : Word) deriving DecidableEq, Repr, Inhabited
structure Movl where (h : Hdr) (d : Reg) (imm : DWord) deriving DecidableEq, Repr, Inhabited
structure Frnd where (h : Hdr) (rm : Rm) (d a : Reg) deriving DecidableEq, Repr, Inhabited
structure Cvt where (h : Hdr) (td ts : Ty) (sat : Bool) (rm : Rm) (dith : Bool) (d a : Reg) deriving DecidableEq, Repr, Inhabited
structure Cvtpk where (h : Hdr) (td ts : Ty) (sat : Bool) (rm : Rm) (dith : Bool) (p : BitVec 5) (hi : Bool) (d a b c : Reg) deriving DecidableEq, Repr, Inhabited
structure Cvtupk where (h : Hdr) (ts : Ty) (j : BitVec 2) (d a : Reg) deriving DecidableEq, Repr, Inhabited
/-- Segment width 2^lw lanes (R272). -/
structure Lxch where (h : Hdr) (mode : XMode) (lw : BitVec 3) (d a b c : Reg) deriving DecidableEq, Repr, Inhabited
/-- A lane census of bit k of A (R273). -/
structure Lbit where (h : Hdr) (inv : Bool) (k : BitVec 5) (d a : Reg) deriving DecidableEq, Repr, Inhabited
structure OnlyD where (h : Hdr) (d : Reg) deriving DecidableEq, Repr, Inhabited
structure OnlyA where (h : Hdr) (a : Reg) deriving DecidableEq, Repr, Inhabited
/-- A fold or scan over segments of 2^(5 - iw) lanes (R274, R275). -/
structure Fold where (h : Hdr) (t : Ty) (op : FoldOp) (excl : Bool) (iw : BitVec 3) (d a : Reg) deriving DecidableEq, Repr, Inhabited
structure Sreg where (h : Hdr) (code : BitVec 8) (r : Reg) deriving DecidableEq, Repr, Inhabited
structure Xform where (h : Hdr) (fn : XFn) (fmt : Elem) (dith : Bool) (p : BitVec 5) (n1 : BitVec 2) (d a b : Reg) deriving DecidableEq, Repr, Inhabited
structure Bra where (h : Hdr) (off : Word) deriving DecidableEq, Repr, Inhabited
structure Dbra where (h : Hdr) (tgt join : Word) deriving DecidableEq, Repr, Inhabited
structure Call where (h : Hdr) (d : Reg) (off : Word) deriving DecidableEq, Repr, Inhabited
structure CallX where (h : Hdr) (d a : Reg) deriving DecidableEq, Repr, Inhabited
structure Code8 where (h : Hdr) (code : BitVec 8) deriving DecidableEq, Repr, Inhabited
/-- A load or store in the 64 form; `ord` is the scope of LD.ACQ or ST.REL (R286). -/
structure Mem where (h : Hdr) (sz : Sz) (ord : Option Scope) (d a : Reg) deriving DecidableEq, Repr, Inhabited
structure MemI where (h : Hdr) (sz : Sz) (d a : Reg) (off : Word) deriving DecidableEq, Repr, Inhabited
structure Clear where (h : Hdr) (off : BitVec 24) deriving DecidableEq, Repr, Inhabited
structure Atom where (h : Hdr) (ty : ATy) (op : AOp) (sc : Scope) (ub : Bool) (off : BitVec 16) (d a b : Reg) deriving DecidableEq, Repr, Inhabited
structure Atomc where (h : Hdr) (ty : ATy) (sc : Scope) (ub : Bool) (off : BitVec 16) (d a b c : Reg) deriving DecidableEq, Repr, Inhabited
structure Red where (h : Hdr) (ty : ATy) (op : AOp) (sc : Scope) (a b : Reg) deriving DecidableEq, Repr, Inhabited
structure RedI where (h : Hdr) (ty : ATy) (op : AOp) (sc : Scope) (a : Reg) (imm : Word) deriving DecidableEq, Repr, Inhabited
structure Redc where (h : Hdr) (a b : Reg) deriving DecidableEq, Repr, Inhabited
structure Fence where (h : Hdr) (kind : FKind) (sc : Scope) deriving DecidableEq, Repr, Inhabited
structure Pref where (h : Hdr) (l2 : Bool) (a : Reg) deriving DecidableEq, Repr, Inhabited
structure PrefI where (h : Hdr) (l2 : Bool) (a : Reg) (off : Word) deriving DecidableEq, Repr, Inhabited
structure Cpa where (h : Hdr) (n : BitVec 2) (ub : Bool) (d a b : Reg) deriving DecidableEq, Repr, Inhabited
structure Cpwait where (h : Hdr) (all : Bool) (a : Reg) deriving DecidableEq, Repr, Inhabited
structure Tcopy where (h : Hdr) (kind : TKind) (st : Bool) (tile spool : BitVec 5) (slot : BitVec 4) (d a b c e f g : Reg) deriving DecidableEq, Repr, Inhabited
structure Tcred where (h : Hdr) (ty : ATy) (op : AOp) (kind : TKind) (tile spool : BitVec 5) (slot : BitVec 4) (d a b c e f g : Reg) deriving DecidableEq, Repr, Inhabited
structure Spset where (h : Hdr) (k : BitVec 5) (n1 : BitVec 4) (free : Bool) (b : Reg) deriving DecidableEq, Repr, Inhabited
structure SpD where (h : Hdr) (k : BitVec 5) (d : Reg) deriving DecidableEq, Repr, Inhabited
structure SpK where (h : Hdr) (k : BitVec 5) deriving DecidableEq, Repr, Inhabited
structure Dcopy where (h : Hdr) (kv : Bool) (fmt : BitVec 2) (spool : BitVec 5) (slot : BitVec 4) (d a b : Reg) deriving DecidableEq, Repr, Inhabited
structure Pgmove where (h : Hdr) (tier : BitVec 2) (spool : BitVec 5) (slot : BitVec 4) (a b : Reg) deriving DecidableEq, Repr, Inhabited
structure Accx where (h : Hdr) (k : BitVec 5) (s : Bool) (row0 n1 : BitVec 7) (a : Reg) deriving DecidableEq, Repr, Inhabited
structure Mma where (h : Hdr) (src : ASrc) (ta tb : Elem) (e : BitVec 6) (j : BitVec 3) (acc : Bool) (tt dt : BitVec 5) (a b : Reg) deriving DecidableEq, Repr, Inhabited
structure Tile1 where (h : Hdr) (k : BitVec 5) deriving DecidableEq, Repr, Inhabited
structure Accmov where (h : Hdr) (mode : MovMode) (d a b : Reg) deriving DecidableEq, Repr, Inhabited
structure Accscl where (h : Hdr) (k j col : BitVec 8) deriving DecidableEq, Repr, Inhabited
structure Attn where (h : Hdr) (o s q : BitVec 5) (tileQ init : Bool) (nr1 : BitVec 7) (d a b c : Reg) deriving DecidableEq, Repr, Inhabited
structure Attnfin where (h : Hdr) (o s : BitVec 5) (nomass : Bool) deriving DecidableEq, Repr, Inhabited
structure Smmerge where (h : Hdr) (o1 s1 o2 s2 : BitVec 5) deriving DecidableEq, Repr, Inhabited
structure Select where (h : Hdr) (d a b c e f g : Reg) deriving DecidableEq, Repr, Inhabited
structure Kvapp where (h : Hdr) (a b c : Reg) deriving DecidableEq, Repr, Inhabited
structure KvAB where (h : Hdr) (a b : Reg) deriving DecidableEq, Repr, Inhabited
structure Kvinfo where (h : Hdr) (tmiss : Bool) (d a b : Reg) deriving DecidableEq, Repr, Inhabited
structure Cbar where (h : Hdr) (n : BitVec 3) deriving DecidableEq, Repr, Inhabited
structure Gbar where (h : Hdr) (g : BitVec 2) deriving DecidableEq, Repr, Inhabited
structure Ev where (h : Hdr) (nm : EvName) (b : Reg) deriving DecidableEq, Repr, Inhabited
structure EvI where (h : Hdr) (nm : EvName) (imm : Word) deriving DecidableEq, Repr, Inhabited
structure Evwait where (h : Hdr) (eq : Bool) (nm : EvName) deriving DecidableEq, Repr, Inhabited
structure Evtest where (h : Hdr) (eq : Bool) (nm : EvName) (d : Reg) deriving DecidableEq, Repr, Inhabited
structure Taskput where (h : Hdr) (nm : EvName) (cls : BitVec 4) (b : Reg) deriving DecidableEq, Repr, Inhabited
structure Taskpop where (h : Hdr) (cls : BitVec 4) (d : Reg) deriving DecidableEq, Repr, Inhabited
structure Sibpost where (h : Hdr) (g : BitVec 2) (d a : Reg) deriving DecidableEq, Repr, Inhabited
structure SibpostC where (h : Hdr) (g : BitVec 2) (n : BitVec 9) (d a c : Reg) deriving DecidableEq, Repr, Inhabited
structure Sibqry where (h : Hdr) (member : Bool) (g : BitVec 2) (d b : Reg) deriving DecidableEq, Repr, Inhabited
structure Sibcancel where (h : Hdr) (self : Bool) (g : BitVec 2) (b : Reg) deriving DecidableEq, Repr, Inhabited
structure DAB where (h : Hdr) (d a b : Reg) deriving DecidableEq, Repr, Inhabited
structure OnlyB where (h : Hdr) (b : Reg) deriving DecidableEq, Repr, Inhabited
structure Perf where (h : Hdr) (dev : Bool) (code : BitVec 8) (d : Reg) deriving DecidableEq, Repr, Inhabited
structure Rte where (h : Hdr) (mode : RteMode) (b : Reg) deriving DecidableEq, Repr, Inhabited
structure Cacheop where (h : Hdr) (kind : CacheKind) (a b : Reg) deriving DecidableEq, Repr, Inhabited
structure Tlbop where (h : Hdr) (kind : TlbKind) (a b : Reg) deriving DecidableEq, Repr, Inhabited
structure Ctxop where (h : Hdr) (op : CtxKind) (d a b : Reg) deriving DecidableEq, Repr, Inhabited

/-! Arguments of the event rows. -/

/-- A crew: context, launch id, crew index. -/
structure CrewKey where (ctx launch crew : Nat) deriving DecidableEq, Repr, Inhabited
/-- A warp of a crew. -/
structure WarpKey where (crew : CrewKey) (warp : Nat) deriving DecidableEq, Repr, Inhabited
/-- A gang of a warp, named by its lowest slice. -/
structure GangKey where (warp : WarpKey) (slice : Nat) deriving DecidableEq, Repr, Inhabited
/-- A quarter of a core. -/
structure Quarter where (core quarter : Nat) deriving DecidableEq, Repr, Inhabited
/-- What a peer's packet asks of this device's home slice (R91, R119, R392). -/
inductive PeerOp where
  | load  (size : Nat)
  | store (data : List Byte)
  | atom  (ty : ATy) (op : AOp) (b : DWord)
  | cas   (ty : ATy) (b c : DWord)
  deriving DecidableEq, Repr, Inhabited
/-- A packet from a peer: its port, its device id, its physical address here. -/
structure PeerPacket where (port peer pa : Nat) (op : PeerOp) deriving DecidableEq, Repr, Inhabited
/-- The fuses that the boot ROM reads (Table 22.1): the device secret, the default fabric id, the hash of the firmware key, the
stepping (R1: B0 is 0xB0). -/
structure Fuses where
  secret   : BitVec 512 := 0
  fabricId : BitVec 10 := 0
  keyHash  : BitVec 512 := 0
  stepping : Nat := 0xB0
  deriving DecidableEq, Repr, Inhabited
/-- The fuses, and a firmware image as reset stages 2 to 6 find it (R393, R395), and the stage that fails, if one does. -/
structure BootImage where
  failStage : Option Nat
  fuses     : Fuses
  /-- the id that boot firmware gives the device (R392) -/
  fabricId  : BitVec 10
  romHash   : BitVec 512
  fwHash    : BitVec 512
  /-- the key that signed the firmware, and its Falcon-1024 signature (Table 22.1) -/
  signer    : BitVec 512
  fwSig     : List Byte
  cxlFrames : Nat
  /-- bytes that firmware leaves in memory: code, tables, pool bitmaps and reference arrays -/
  bytes     : List (Nat × Byte)
  /-- stores of firmware to the system control window: offset, width in bytes, value (R195, R98) -/
  scr       : List (Nat × Nat × DWord)
  /-- the context descriptor of context 63, 64 bytes (R395, Table 17.7) -/
  descriptor : List Byte
  /-- the launch packet of the supervisor firmware, 64 bytes (R395) -/
  packet    : List Byte
  deriving DecidableEq, Repr, Inhabited

/-- One constructor per row of spec/opcode_table.json. -/
inductive Instr where
  -- group 0: integer, logic and move (Table 12.7)
  | nop (f : Bare) | nop96i (f : NopI) | nop128i (f : NopL)
  | iadd (f : Bin) | iadd96i (f : BinI) | isub (f : Bin) | isub96i (f : BinI)
  | imul (f : Bin) | imul96i (f : BinI) | imulhi (f : Bin) | imad (f : Tern) | imadw (f : Tern)
  | iadd64 (f : Bin) | iadd64128i (f : BinL) | isub64 (f : Bin) | lea (f : Tern)
  | imin (f : Bin) | imin96i (f : BinI) | imax (f : Bin) | imax96i (f : BinI) | iabs (f : Un)
  | isad (f : Tern) | iclamp (f : Tern)
  | shl (f : Bin) | shl96i (f : BinI) | shr (f : Bin) | shr96i (f : BinI)
  | sar (f : Bin) | sar96i (f : BinI) | rot (f : Bin) | rot96i (f : BinI) | fshf (f : Tern)
  | and (f : Bin) | and96i (f : BinI) | or (f : Bin) | or96i (f : BinI)
  | xor (f : Bin) | xor96i (f : BinI) | not (f : Un) | bool3 (f : Tern)
  | popc (f : Un) | clz (f : Un) | brev (f : Un) | bfe (f : Bin) | bfe96i (f : BinI)
  | bfi (f : Tern) | bysel (f : Tern)
  | icmp (f : Cmp) | icmp96i (f : CmpI) | icmp64 (f : Cmp) | plop (f : Plop) | isel (f : Tern)
  | mov (f : Un) | movi (f : Movi) | movi64 (f : Movl) | idp4 (f : Tern) | idp2 (f : Tern)
  -- group 1: floating point (Table 12.8)
  | fadd (f : Bin) | fadd96i (f : BinI) | fsub (f : Bin) | fsub96i (f : BinI)
  | fmul (f : Bin) | fmul96i (f : BinI) | ffma (f : Tern) | fmin (f : Bin) | fmax (f : Bin)
  | fcmp (f : Cmp) | fcmp96i (f : CmpI) | fclamp (f : Tern)
  | frcp (f : Un) | frsq (f : Un) | fsqrt (f : Un) | fexp2 (f : Un) | flog2 (f : Un) | ftanh (f : Un)
  | frnd (f : Frnd) | fscale (f : Bin) | fclass (f : Un) | fdot2 (f : Tern)
  | padd2 (f : Bin) | padd296i (f : BinI) | pmul2 (f : Bin) | pmul296i (f : BinI)
  | pfma2 (f : Tern) | pmin2 (f : Bin) | pmax2 (f : Bin)
  -- group 2: conversion, lane and special (Table 12.9)
  | cvt (f : Cvt) | cvtpk (f : Cvtpk) | cvtupk (f : Cvtupk) | lxch (f : Lxch)
  | lpoll (f : Lbit) | lmask (f : Lbit) | lpeer (f : Un) | lfirst (f : OnlyD)
  | ifold (f : Fold) | ffold (f : Fold) | scan (f : Fold) | fscan (f : Fold)
  | sreg (f : Sreg) | sregw (f : Sreg) | xform (f : Xform)
  /-- the transform pipe serves the oldest request of a quarter (R138) -/
  | xformReply (q : Quarter)
  -- group 3: control (Table 12.10)
  | bra (f : Bra) | dbra (f : Dbra) | join (f : Bare) | brx (f : OnlyA) | call (f : Call)
  | callx (f : CallX) | ret (f : OnlyA) | exit (f : Bare) | regang (f : OnlyA) | yield (f : Bare)
  | canpt (f : Bare) | heart (f : Bare) | trap (f : Code8) | bkpt (f : Bare)
  -- group 4: memory (Table 12.11)
  | ld (f : Mem) | ld96i (f : MemI) | st (f : Mem) | st96i (f : MemI)
  | ldby (f : Mem) | ldby96i (f : MemI) | lde (f : Mem) | lde96i (f : MemI)
  | clear (f : Clear) | cldrop (f : Bare)
  | lds (f : Mem) | lds96i (f : MemI) | sts (f : Mem) | sts96i (f : MemI)
  | ldl (f : Mem) | ldl96i (f : MemI) | stl (f : Mem) | stl96i (f : MemI)
  | ldc (f : Mem) | ldc96i (f : MemI)
  | atom (f : Atom) | atomc (f : Atomc) | red (f : Red) | red96i (f : RedI) | redc (f : Redc)
  | fence (f : Fence)
  /-- a waiting release of this gang completes (R116) -/
  | fenceCompletion (g : GangKey)
  | pref (f : Pref) | pref96i (f : PrefI)
  -- group 5: asynchronous copy and tiers (Table 12.12)
  | cpa (f : Cpa) | cpclose (f : OnlyD) | cpwait (f : Cpwait) | tcopy (f : Tcopy) | tcred (f : Tcred)
  | spset (f : Spset) | spwait (f : SpD) | sprel (f : SpK) | spqry (f : SpD)
  | dcopy (f : Dcopy) | pgin (f : Pgmove) | pgmove (f : Pgmove) | crcchk (f : CallX)
  | accld (f : Accx) | accst (f : Accx)
  -- group 6: matrix, attention and KV (Table 12.13)
  | mma (f : Mma) | mma2 (f : Mma) | mmab (f : Mma) | accz (f : Tile1) | accmov (f : Accmov)
  | accscl (f : Accscl) | attn (f : Attn) | attnfin (f : Attnfin) | smmerge (f : Smmerge)
  | select (f : Select) | kvapp (f : Kvapp) | kvcommit (f : KvAB) | kvroll (f : OnlyA)
  | kvclose (f : KvAB) | kvstep (f : KvAB) | demreq (f : KvAB) | kvpin (f : KvAB)
  | kvunpin (f : KvAB) | kvinfo (f : Kvinfo)
  -- group 7: synchronisation, sibling and system (Table 12.14)
  | cbar (f : Cbar) | gbar (f : Gbar) | evadd (f : Ev) | evadd96i (f : EvI) | evset (f : Ev)
  | evset96i (f : EvI) | evwait (f : Evwait) | evtest (f : Evtest) | taskput (f : Taskput)
  | taskpop (f : Taskpop) | sibpost (f : Sibpost) | sibpost96c (f : SibpostC) | sibqry (f : Sibqry)
  | sibcancel (f : Sibcancel) | launch (f : DAB) | sleep (f : OnlyB) | sleep96i (f : NopI)
  /-- device time reaches the deadline of this gang's SLEEP (R355) -/
  | sleepWake (g : GangKey)
  | perf (f : Perf) | svc (f : Code8) | rte (f : Rte) | cacheop (f : Cacheop) | tlbop (f : Tlbop)
  | ctxop (f : Ctxop)
  -- steps of the other agents
  /-- the Uaten-2 word at the gang's pc (R237) -/
  | uaten2 (w : DWord)
  | longLatencyResult (id : Nat) | swapIn (q : Quarter) | rotation (q : Quarter)
  | homeFill (id : Nat) | homeWrite (id : Nat) | homeAtomic (id : Nat) | homeLdby (id : Nat)
  | homeRangeLoad (id : Nat) | writeAck (id : Nat)
  /-- core and line number (physical address / 64) -/
  | l1LeaseExpiry (core line : Nat)
  | ldeValidation (id : Nat) | validationAnswer (id : Nat)
  | peerPacket (p : PeerPacket) | peerSettle (id : Nat) | peerTimeout (id : Nat)
  | eventUpdate (id : Nat) | eventWaitArrival (id : Nat) | eventReread (id : Nat)
  | tellerPost (id : Nat) | holdingRelease (g i : Nat)
  | preemptionSave (c : CrewKey) | forcedPreemption (c : CrewKey)
  | watchdogFire (ctx launch : Nat) | faultDelivery (ctx : Nat) | killDone (ctx : Nat)
  | shuttleCpa (id : Nat) | shuttleTcopy (id : Nat) | shuttleTcred (id : Nat)
  | shuttleDcopy (id : Nat) | shuttlePageMove (id : Nat) | spoolDelivery (id : Nat)
  | copyBatchComplete (w : WarpKey) (n : Nat) | poolAllocation (tier : Nat)
  /-- the sweep of a context stages at its present page -/
  | stage (ctx : Nat) | stageCold (ctx : Nat) | sweepEnd (ctx : Nat) | demreqServe (die : Nat)
  | deviceReset (img : BootImage)
  /-- module draw in W and the highest junction temperature in degrees C -/
  | powerLoopStep (draw temp : Nat)
  -- Steps of the scheduler and of the outside. The object each is about (a mailbox lane, a message in flight,
  -- bytes that arrive) is the state's `subject`, as the gang in hand is its `cur`.
  | launchAdmission | placement | preemptByPriority | crewResumption
  /-- a host write to BAR0: offset and data -/
  | mbxLaneWrite
  | mbxLaunch | mbxWrite | mbxRead | mbxEvsigAdd | mbxEvsigSet | mbxKill | mbxQueryRegister | mbxQueryContext
  | sessionOpen | sessionClose | sessionMeasure
  | completionRingPoll
  | spdmGetVersion | spdmGetCapabilities | spdmGetMeasurements
  | scrWrite | mbxStatus | wdgCtl | wdgFired | shuPoolCtl | shuPoolAdd | shuPoolStatus | prfClr | secAcctab
  /-- the junction temperature -/
  | thermalCutoff
  | linkRetrain
  /-- the number of single errors the scrubber corrected -/
  | patrolScrub
  | modulePowerRemoved
  /-- the id of the secure session that the exchange sets up -/
  | spdmKeyExchange
  | spdmGetCertificate | spdmChallenge | spdmKeyUpdate | spdmEndSession
  | ideKm
  deriving DecidableEq, Repr

end Sys2Proof
end

