-- ==== Sys2Proof/Machine/Encoding.lean ====
section
/-! DEFINITION. The bits of every Uaten-3 operand field (spec 12, and the encodings of 14 to 17): the code
of each operand, the fields of each instruction, which registers each field names, and the opcode's own
checks. Decode.lean reads them, WellFormed.lean collects the checks. -/

namespace Sys2Proof

/-- Why a pattern of bits is not an instruction (R231, R233). -/
inductive Rej where
  /-- LEN = 11 -/ | noLength
  /-- the instruction crosses a 32-byte block, or its address is not a multiple of 4 or of 8 -/ | boundary
  /-- OP is in no table -/ | unassigned
  /-- SP = 1 outside LEN 10 or on an opcode without a 64 form -/ | safePoint
  /-- live mask bits [63:60] -/ | liveMask
  /-- the opcode has no form of this length -/ | noForm
  /-- W0[31] -/ | reserved
  /-- GE = 0 with guard fields nonzero, or a guard where none is allowed -/ | guard
  /-- LA on an opcode that is not long-latency -/ | lookahead
  /-- a type, operation, mode or scope code the opcode does not define -/ | badValue
  /-- a bit of an unused field is 1 -/ | unused
  /-- RU on a position that is not read as a register -/ | reuse
  /-- an odd pair, or a span not aligned as the opcode says -/ | pair
  /-- a branch offset that is not a multiple of 4 -/ | offset
  /-- a Uaten-2 word without a counterpart (R239) -/ | noCounterpart
  /-- bytes are missing -/ | short
  deriving DecidableEq, Repr, Inhabited

/-- The forms of Table 12.3; 128S is the 64 form with a live mask (R230). -/
inductive Form where
  | f64 | f96c | f96i | f128i | f128x
  deriving DecidableEq, Repr, Inhabited

/-- Opcode, form, long-latency class, supervisor class (R236). -/
structure Row where (code : Nat) (form : Form) (ll sup : Bool) deriving DecidableEq, Repr, Inhabited

/-- How many registers the D, A, B, C, E, F and G fields name. -/
structure Use where (d a b c e f g : Nat) deriving DecidableEq, Repr, Inhabited

/-- The operand fields of an instruction: MOD, D, A, B of W1, and W2, W3 (R228, R229). -/
structure Fields where
  mod : BitVec 5 := 0
  d : BitVec 8 := 0
  a : BitVec 8 := 0
  b : BitVec 8 := 0
  w2 : Word := 0
  w3 : Word := 0
  deriving DecidableEq, Repr, Inhabited

def bits {n : Nat} (x : BitVec n) (lo len : Nat) : BitVec len := x.extractLsb' lo len
def bit {n : Nat} (x : BitVec n) (i : Nat) : Bool := x.getLsbD i

/-! Codes of the operands, in both directions (Tables 12.4 to 12.6, 15.2, 15.5, 15.6 and the chapters). -/

def tyCode : Ty → BitVec 4
  | .u32 => 0#4
  | .s32 => 1#4
  | .f32 => 2#4
  | .bf16x2 => 3#4
  | .f16x2 => 4#4
  | .e4m3x4 => 5#4
  | .e5m2x4 => 6#4
  | .u16x2 => 7#4
  | .s16x2 => 8#4
  | .u8x4 => 9#4
  | .s8x4 => 10#4
  | .u64 => 11#4
  | .s64 => 12#4
def tyE (x : BitVec 4) : Except Rej Ty :=
  match x.toNat with
  | 0 => .ok .u32
  | 1 => .ok .s32
  | 2 => .ok .f32
  | 3 => .ok .bf16x2
  | 4 => .ok .f16x2
  | 5 => .ok .e4m3x4
  | 6 => .ok .e5m2x4
  | 7 => .ok .u16x2
  | 8 => .ok .s16x2
  | 9 => .ok .u8x4
  | 10 => .ok .s8x4
  | 11 => .ok .u64
  | 12 => .ok .s64
  | _ => .error .badValue

def elemCode : Elem → BitVec 3
  | .bf16 => 0#3
  | .f16 => 1#3
  | .e4m3 => 2#3
  | .e5m2 => 3#3
  | .e2m3 => 4#3
  | .e3m2 => 5#3
  | .e2m1 => 6#3
  | .s8 => 7#3
def elemOf (x : BitVec 3) : Elem :=
  match x.toNat with
  | 0 => .bf16
  | 1 => .f16
  | 2 => .e4m3
  | 3 => .e5m2
  | 4 => .e2m3
  | 5 => .e3m2
  | 6 => .e2m1
  | _ => .s8

def rmCode : Rm → BitVec 2
  | .rne => 0#2
  | .rz => 1#2
  | .ru => 2#2
  | .rd => 3#2
def rmOf (x : BitVec 2) : Rm :=
  match x.toNat with
  | 0 => .rne
  | 1 => .rz
  | 2 => .ru
  | _ => .rd

def scopeCode : Scope → BitVec 3
  | .slice => 0#3
  | .warp => 1#3
  | .crew => 2#3
  | .device => 3#3
  | .system => 4#3
  | .domain => 5#3
def scopeE (x : BitVec 3) : Except Rej Scope :=
  match x.toNat with
  | 0 => .ok .slice
  | 1 => .ok .warp
  | 2 => .ok .crew
  | 3 => .ok .device
  | 4 => .ok .system
  | 5 => .ok .domain
  | _ => .error .badValue

def szCode : Sz → BitVec 3
  | .u8 => 0#3
  | .s8 => 1#3
  | .u16 => 2#3
  | .s16 => 3#3
  | .b32 => 4#3
  | .b64 => 5#3
  | .b128 => 6#3
def szE (x : BitVec 3) : Except Rej Sz :=
  match x.toNat with
  | 0 => .ok .u8
  | 1 => .ok .s8
  | 2 => .ok .u16
  | 3 => .ok .s16
  | 4 => .ok .b32
  | 5 => .ok .b64
  | 6 => .ok .b128
  | _ => .error .badValue

def atyCode : ATy → BitVec 5
  | .u32 => 0#5
  | .s32 => 1#5
  | .f32 => 2#5
  | .bf16x2 => 3#5
  | .f16x2 => 4#5
  | .u64 => 11#5
  | .s64 => 12#5
  | .u8 => 16#5
def atyE (x : BitVec 5) : Except Rej ATy :=
  match x.toNat with
  | 0 => .ok .u32
  | 1 => .ok .s32
  | 2 => .ok .f32
  | 3 => .ok .bf16x2
  | 4 => .ok .f16x2
  | 11 => .ok .u64
  | 12 => .ok .s64
  | 16 => .ok .u8
  | _ => .error .badValue

def aopCode : AOp → BitVec 4
  | .add => 0#4
  | .min => 1#4
  | .max => 2#4
  | .and => 3#4
  | .or => 4#4
  | .xor => 5#4
  | .exch => 6#4
def aopE (x : BitVec 4) : Except Rej AOp :=
  match x.toNat with
  | 0 => .ok .add
  | 1 => .ok .min
  | 2 => .ok .max
  | 3 => .ok .and
  | 4 => .ok .or
  | 5 => .ok .xor
  | 6 => .ok .exch
  | _ => .error .badValue

def popCode : POp → BitVec 3
  | .and => 0#3
  | .or => 1#3
  | .xor => 2#3
  | .andn => 3#3
  | .orn => 4#3
  | .nand => 5#3
  | .nor => 6#3
  | .xnor => 7#3
def popOf (x : BitVec 3) : POp :=
  match x.toNat with
  | 0 => .and
  | 1 => .or
  | 2 => .xor
  | 3 => .andn
  | 4 => .orn
  | 5 => .nand
  | 6 => .nor
  | _ => .xnor

def foldCode : FoldOp → BitVec 3
  | .add => 0#3
  | .min => 1#3
  | .max => 2#3
  | .and => 3#3
  | .or => 4#3
  | .xor => 5#3
def foldE (x : BitVec 3) : Except Rej FoldOp :=
  match x.toNat with
  | 0 => .ok .add
  | 1 => .ok .min
  | 2 => .ok .max
  | 3 => .ok .and
  | 4 => .ok .or
  | 5 => .ok .xor
  | _ => .error .badValue

def xmodeCode : XMode → BitVec 2
  | .get => 0#2
  | .rot => 1#2
  | .shift => 2#2
  | .bfly => 3#2
def xmodeOf (x : BitVec 2) : XMode :=
  match x.toNat with
  | 0 => .get
  | 1 => .rot
  | 2 => .shift
  | _ => .bfly

def xfnCode : XFn → BitVec 3
  | .mxpack => 0#3
  | .mxunpack => 1#3
  | .fp8pack => 2#3
  | .crc64 => 3#3
  | .dither => 4#3
def xfnE (x : BitVec 3) : Except Rej XFn :=
  match x.toNat with
  | 0 => .ok .mxpack
  | 1 => .ok .mxunpack
  | 2 => .ok .fp8pack
  | 3 => .ok .crc64
  | 4 => .ok .dither
  | _ => .error .badValue

def fkCode : FKind → BitVec 2
  | .rel => 0#2
  | .acq => 1#2
  | .acqInv => 2#2
  | .acqRel => 3#2
def fkOf (x : BitVec 2) : FKind :=
  match x.toNat with
  | 0 => .rel
  | 1 => .acq
  | 2 => .acqInv
  | _ => .acqRel

def tkCode : TKind → BitVec 2
  | .scr => 0#2
  | .tile => 1#2
  | .glb => 2#2
def tkE (x : BitVec 2) : Except Rej TKind :=
  match x.toNat with
  | 0 => .ok .scr
  | 1 => .ok .tile
  | 2 => .ok .glb
  | _ => .error .badValue

def asrcCode : ASrc → BitVec 2
  | .reg => 0#2
  | .scr => 1#2
  | .acc => 2#2
def asrcE (x : BitVec 2) : Except Rej ASrc :=
  match x.toNat with
  | 0 => .ok .reg
  | 1 => .ok .scr
  | 2 => .ok .acc
  | _ => .error .badValue

def amCode : MovMode → BitVec 2
  | .tt => 0#2
  | .tr => 1#2
  | .rt => 2#2
def amE (x : BitVec 2) : Except Rej MovMode :=
  match x.toNat with
  | 0 => .ok .tt
  | 1 => .ok .tr
  | 2 => .ok .rt
  | _ => .error .badValue

def rteCode : RteMode → BitVec 2
  | .retry => 0#2
  | .next => 1#2
  | .end_ => 2#2
def rteE (x : BitVec 2) : Except Rej RteMode :=
  match x.toNat with
  | 0 => .ok .retry
  | 1 => .ok .next
  | 2 => .ok .end_
  | _ => .error .badValue

def cacheCode : CacheKind → BitVec 2
  | .icache => 0#2
  | .l1 => 1#2
  | .l2clean => 2#2
  | .l2flush => 3#2
def cacheOf (x : BitVec 2) : CacheKind :=
  match x.toNat with
  | 0 => .icache
  | 1 => .l1
  | 2 => .l2clean
  | _ => .l2flush

def tlbCode : TlbKind → BitVec 2
  | .va => 0#2
  | .ctx => 1#2
  | .all => 2#2
  | .resolve => 3#2
def tlbOf (x : BitVec 2) : TlbKind :=
  match x.toNat with
  | 0 => .va
  | 1 => .ctx
  | 2 => .all
  | _ => .resolve

def ctxCode : CtxKind → BitVec 3
  | .create => 0#3
  | .kill => 1#3
  | .preempt => 2#3
  | .resume => 3#3
  | .abort => 4#3
def ctxE (x : BitVec 3) : Except Rej CtxKind :=
  match x.toNat with
  | 0 => .ok .create
  | 1 => .ok .kill
  | 2 => .ok .preempt
  | 3 => .ok .resume
  | 4 => .ok .abort
  | _ => .error .badValue

/-- The ordered forms LD.ACQ and ST.REL carry a scope in B (R286). -/
def ordCode : Option Scope → BitVec 2
  | none => 0#2
  | some _ => 1#2
def ordScope : Option Scope → BitVec 8
  | none => 0#8
  | some s => 0#5 ++ scopeCode s
def ordE (o : BitVec 2) (b : BitVec 8) : Except Rej (Option Scope) :=
  match o.toNat with
  | 0 => .ok none
  | 1 => some <$> scopeE (bits b 0 3)
  | _ => .error .badValue

/-- An event name: NI = 1 and two selector bytes, or NI = 0 and a register (R342). -/
def nameNi : EvName → BitVec 1
  | .imm _ => 1#1
  | .reg _ => 0#1
def nameLo : EvName → BitVec 8
  | .imm n => bits n 0 8
  | .reg _ => 0#8
def nameHi : EvName → BitVec 8
  | .imm n => bits n 8 8
  | .reg r => r
def nameE (ni : Bool) (lo hi : BitVec 8) : Except Rej EvName :=
  if ni then .ok (.imm (hi ++ lo)) else if lo = 0 then .ok (.reg hi) else .error .unused

/-! Sizes and type sets the opcodes allow. -/

def tyRegs : Ty → Nat
  | .u64 | .s64 => 2
  | _ => 1
def tyElems : Ty → Nat
  | .bf16x2 | .f16x2 | .u16x2 | .s16x2 => 2
  | .e4m3x4 | .e5m2x4 | .u8x4 | .s8x4 => 4
  | _ => 1
def szRegs : Sz → Nat
  | .b64 => 2
  | .b128 => 4
  | _ => 1
def atyRegs : ATy → Nat
  | .u64 | .s64 => 2
  | _ => 1
def nameRegs : EvName → Nat
  | .imm _ => 0
  | .reg _ => 1
def kindRegs : TKind → Nat
  | .scr => 1
  | .tile => 0
  | .glb => 2
def intTys : List Ty := [.u32, .s32, .u16x2, .s16x2, .u8x4, .s8x4]
def shTys : List Ty := [.u32, .u16x2, .u8x4]
def pkTys : List Ty := [.bf16x2, .f16x2, .e4m3x4, .e5m2x4, .u16x2, .s16x2, .u8x4, .s8x4]
/-- Table 15.6: which operation each element type allows. -/
def opOn : AOp → ATy → Bool
  | .add, _ | .min, _ | .max, _ => true
  | .and, t | .or, t | .xor, t => t == .u32 || t == .s32 || t == .u64 || t == .s64 || t == .u8
  | .exch, t => t != .bf16x2 && t != .f16x2
def floatFold : FoldOp → Bool
  | .add | .min | .max => true
  | _ => false
def storeSize : Sz → Bool
  | .s8 | .s16 => false
  | _ => true
/-- Table 04.1: the codes that SREG may name. -/
def sregReadable (c : BitVec 8) : Bool :=
  let n := c.toNat
  n ≤ 0x09 || (0x10 ≤ n && n ≤ 0x12) || (0x18 ≤ n && n ≤ 0x1A) || (0x20 ≤ n && n ≤ 0x23) || n == 0x28 ||
    (0x30 ≤ n && n ≤ 0x32) || (0x38 ≤ n && n ≤ 0x3A)

/-! The opcodes' own checks: none when the check passes. -/

def valIs (b : Bool) : Option Rej := if b then none else some .badValue
def tyIn (l : List Ty) (t : Ty) : Option Rej := valIs (l.contains t)
def noBit (b : Bool) : Option Rej := if b then some .unused else none
def noM4 (b : Bool) : Option Rej := if b then some .badValue else none
def selBelow (n : Nat) (x : BitVec 8) : Option Rej := if x.toNat < n then none else some .unused
def noOrd (o : Option Scope) : Option Rej := if o.isSome then some .badValue else none
def noGuard (h : Hdr) : Option Rej := if h.guard.isSome then some .guard else none
def off4 (x : Word) : Option Rej := if bits x 0 2 = 0#2 then none else some .offset
def dithRm (d : Bool) (m : Rm) : Option Rej := valIs (!d || m == .rne)
def cvtClass : Ty → Nat
  | .u32 | .s32 | .f32 | .u64 | .s64 => 0
  | .bf16x2 | .f16x2 | .u16x2 | .s16x2 => 1
  | .e4m3x4 | .e5m2x4 | .u8x4 | .s8x4 => 2
/-- R268: the permitted pairs. -/
def cvtPair (td ts : Ty) : Option Rej := valIs (cvtClass td == cvtClass ts)
/-- R269: for a two-element destination C and HI are 0. -/
def cvtpkTwo (f : Cvtpk) : Option Rej := if tyElems f.td = 2 && (f.hi || f.c != 0) then some .unused else none
/-- Table 14.3: formats and fields of each XFORM function. -/
def xformOk (f : Xform) : Option Rej :=
  let mx := f.fmt == .e2m3 || f.fmt == .e3m2 || f.fmt == .e2m1
  let fp := f.fmt == .bf16 || f.fmt == .f16 || f.fmt == .e4m3 || f.fmt == .e5m2
  valIs (match f.fn with
    | .mxpack => mx && f.n1 == 0 && f.b == 0
    | .mxunpack => mx && f.n1 == 0 && !f.dith && f.p == 0
    | .fp8pack => (f.fmt == .e4m3 || f.fmt == .e5m2) && f.n1 == 0 && f.b == 0 && !f.dith && f.p == 0
    | .crc64 => f.fmt == .bf16 && !f.dith && f.p == 0
    | .dither => fp && f.n1 == 0 && f.b == 0)
def xformUse : XFn → Use
  | .mxpack => ⟨1, 1, 0, 0, 0, 0, 0⟩
  | .mxunpack => ⟨1, 1, 1, 0, 0, 0, 0⟩
  | .fp8pack => ⟨1, 1, 0, 0, 0, 0, 0⟩
  | .crc64 => ⟨2, 2, 1, 0, 0, 0, 0⟩
  | .dither => ⟨1, 1, 0, 0, 0, 0, 0⟩
/-- R306: a tile number only for kind 1, and then D = 0. -/
def tileOnly (k : TKind) (tile : BitVec 5) (d : Reg) : Option Rej :=
  if k == .tile then (if d = 0 then none else some .unused) else if tile = 0 then none else some .unused
/-- Table 16.3: the element classes of the matrix products. -/
def elemClass : Elem → Nat
  | .bf16 | .f16 => 0
  | .e4m3 | .e5m2 => 1
  | .s8 => 2
  | .e2m3 | .e3m2 | .e2m1 => 3
def elemK (e : Elem) : Nat :=
  match elemClass e with
  | 0 => 32
  | 1 | 2 => 64
  | _ => 128
/-- R317, R319, Table 16.2. -/
def mmaOk (_ : Bool) (f : Mma) : Option Rej :=
  valIs (elemClass f.ta == elemClass f.tb && (match f.src with
    | .reg => elemClass f.ta != 3 && f.j == 0 && f.tt == 0 && f.e == 0
    | .scr => f.j == 0 && f.tt == 0 && f.e == 0
    | .acc => (f.ta == .bf16 || f.ta == .e4m3) && f.a == 0 && f.j.toNat < 256 / elemK f.ta &&
        (f.ta == .e4m3 || f.e == 0)))
/-- R325: the fields that a mode of ACCMOV leaves unused. -/
def accmovOk (f : Accmov) : Option Rej :=
  match f.mode with
  | .tt => if f.b = 0 then none else some .unused
  | .tr | .rt => none
def tlbUse : TlbKind → Use
  | .va | .resolve => ⟨0, 2, 1, 0, 0, 0, 0⟩
  | .ctx => ⟨0, 0, 1, 0, 0, 0, 0⟩
  | .all => ⟨0, 0, 0, 0, 0, 0, 0⟩
/-- R360: A is 0 for CTX and ALL, B is 0 for ALL. -/
def tlbOk (f : Tlbop) : Option Rej :=
  match f.kind with
  | .va | .resolve => none
  | .ctx => if f.a = 0 then none else some .unused
  | .all => if f.a = 0 && f.b = 0 then none else some .unused

/-! The operand fields of each shape. -/

def layBare (_ : Bare) : Fields := {}
def layNopI (f : NopI) : Fields := { w2 := f.imm }
def layNopL (f : NopL) : Fields := { w2 := f.imm.lo, w3 := f.imm.hi }
def layBin (f : Bin) : Fields := { mod := BitVec.ofBool f.m4 ++ tyCode f.t, d := f.d, a := f.a, b := f.b }
def layBinI (f : BinI) : Fields := { mod := 0#1 ++ tyCode f.t, d := f.d, a := f.a, w2 := f.imm }
def layTern (f : Tern) : Fields := { mod := 0#1 ++ tyCode f.t, d := f.d, a := f.a, b := f.b, w2 := 0#13 ++ f.sel ++ BitVec.ofBool f.sat ++ BitVec.ofBool f.uc ++ BitVec.ofBool f.ub ++ f.c }
def layBinL (f : BinL) : Fields := { mod := BitVec.ofBool f.m4 ++ tyCode f.t, d := f.d, a := f.a, w2 := f.imm.lo, w3 := f.imm.hi }
def layUn (f : Un) : Fields := { mod := BitVec.ofBool f.m4 ++ tyCode f.t, d := f.d, a := f.a }
def layCmp (f : Cmp) : Fields := { mod := f.k2 ++ BitVec.ofBool f.m0, d := f.d, a := f.a, b := f.b }
def layCmpI (f : CmpI) : Fields := { mod := f.k2 ++ BitVec.ofBool f.m0, d := f.d, a := f.a, w2 := f.imm }
def layPlop (f : Plop) : Fields := { mod := f.k, d := f.d, a := f.a, b := popCode f.op ++ f.i }
def layMovi (f : Movi) : Fields := { d := f.d, w2 := f.imm }
def layMovl (f : Movl) : Fields := { d := f.d, w2 := f.imm.lo, w3 := f.imm.hi }
def layFrnd (f : Frnd) : Fields := { mod := 0#1 ++ tyCode .f32, d := f.d, a := f.a, b := 0#6 ++ rmCode f.rm }
def layCvt (f : Cvt) : Fields := { mod := BitVec.ofBool f.sat ++ tyCode f.td, d := f.d, a := f.a, b := 0#1 ++ BitVec.ofBool f.dith ++ rmCode f.rm ++ tyCode f.ts }
def layCvtpk (f : Cvtpk) : Fields := { mod := BitVec.ofBool f.sat ++ tyCode f.td, d := f.d, a := f.a, b := f.b, w2 := 0#11 ++ BitVec.ofBool f.hi ++ f.p ++ BitVec.ofBool f.dith ++ rmCode f.rm ++ tyCode f.ts ++ f.c }
def layCvtupk (f : Cvtupk) : Fields := { mod := 0#1 ++ tyCode f.ts, d := f.d, a := f.a, b := 0#6 ++ f.j }
def layLxch (f : Lxch) : Fields := { d := f.d, a := f.a, b := f.b, w2 := 0#19 ++ f.lw ++ xmodeCode f.mode ++ f.c }
def layLbit (f : Lbit) : Fields := { mod := 0#4 ++ BitVec.ofBool f.inv, d := f.d, a := f.a, b := 0#3 ++ f.k }
def layOnlyD (f : OnlyD) : Fields := { d := f.d }
def layFold (f : Fold) : Fields := { mod := 0#1 ++ tyCode f.t, d := f.d, a := f.a, b := 0#1 ++ f.iw ++ BitVec.ofBool f.excl ++ foldCode f.op }
def laySregR (f : Sreg) : Fields := { d := f.r, a := f.code }
def laySregW (f : Sreg) : Fields := { b := f.r, a := f.code }
def layXform (f : Xform) : Fields := { d := f.d, a := f.a, b := f.b, w2 := 0#10 ++ f.n1 ++ f.p ++ BitVec.ofBool f.dith ++ elemCode f.fmt ++ xfnCode f.fn ++ 0#8 }
def layBra (f : Bra) : Fields := { w2 := f.off }
def layDbra (f : Dbra) : Fields := { w2 := f.tgt, w3 := f.join }
def layOnlyA (f : OnlyA) : Fields := { a := f.a }
def layCall (f : Call) : Fields := { d := f.d, w2 := f.off }
def layCallX (f : CallX) : Fields := { d := f.d, a := f.a }
def layCode8 (f : Code8) : Fields := { b := f.code }
def layMem (f : Mem) : Fields := { mod := ordCode f.ord ++ szCode f.sz, d := f.d, a := f.a, b := ordScope f.ord }
def layMemI (f : MemI) : Fields := { mod := 0#2 ++ szCode f.sz, d := f.d, a := f.a, w2 := f.off }
def layClear (f : Clear) : Fields := { d := bits f.off 0 8, a := bits f.off 8 8, b := bits f.off 16 8 }
def layAtom (f : Atom) : Fields := { mod := atyCode f.ty, d := f.d, a := f.a, b := f.b, w2 := f.off ++ BitVec.ofBool f.ub ++ aopCode f.op ++ scopeCode f.sc ++ 0#8 }
def layAtomc (f : Atomc) : Fields := { mod := atyCode f.ty, d := f.d, a := f.a, b := f.b, w2 := f.off ++ BitVec.ofBool f.ub ++ 0#4 ++ scopeCode f.sc ++ f.c }
def layRed (f : Red) : Fields := { mod := atyCode f.ty, d := 0#1 ++ aopCode f.op ++ scopeCode f.sc, a := f.a, b := f.b }
def layRedI (f : RedI) : Fields := { mod := atyCode f.ty, d := 0#1 ++ aopCode f.op ++ scopeCode f.sc, a := f.a, w2 := f.imm }
def layRedc (f : Redc) : Fields := { mod := 0#1 ++ tyCode .f32, a := f.a, b := f.b }
def layFence (f : Fence) : Fields := { mod := 0#3 ++ fkCode f.kind, b := 0#5 ++ scopeCode f.sc }
def layPref (f : Pref) : Fields := { mod := 0#4 ++ BitVec.ofBool f.l2, a := f.a }
def layPrefI (f : PrefI) : Fields := { mod := 0#4 ++ BitVec.ofBool f.l2, a := f.a, w2 := f.off }
def layCpa (f : Cpa) : Fields := { mod := 0#3 ++ f.n, d := f.d, a := f.a, b := f.b, w2 := 0#23 ++ BitVec.ofBool f.ub ++ 0#8 }
def layCpwait (f : Cpwait) : Fields := { mod := 0#4 ++ BitVec.ofBool f.all, a := f.a }
def layTcopy (f : Tcopy) : Fields := { d := f.d, a := f.a, b := f.b, w2 := f.g ++ f.f ++ f.e ++ f.c, w3 := 0#15 ++ f.tile ++ BitVec.ofBool f.st ++ tkCode f.kind ++ f.slot ++ f.spool }
def layTcred (f : Tcred) : Fields := { d := f.d, a := f.a, b := f.b, w2 := f.g ++ f.f ++ f.e ++ f.c, w3 := 0#7 ++ atyCode f.ty ++ bits (aopCode f.op) 0 3 ++ f.tile ++ 0#1 ++ tkCode f.kind ++ f.slot ++ f.spool }
def laySpset (f : Spset) : Fields := { b := f.b, w2 := 0#14 ++ BitVec.ofBool f.free ++ f.n1 ++ f.k ++ 0#8 }
def laySpD (f : SpD) : Fields := { d := f.d, b := 0#3 ++ f.k }
def laySpK (f : SpK) : Fields := { b := 0#3 ++ f.k }
def layDcopy (f : Dcopy) : Fields := { d := f.d, a := f.a, b := f.b, w2 := 0#12 ++ f.fmt ++ BitVec.ofBool f.kv ++ f.slot ++ f.spool ++ 0#8 }
def layPgmove (f : Pgmove) : Fields := { a := f.a, b := f.b, w2 := 0#13 ++ f.tier ++ f.slot ++ f.spool ++ 0#8 }
def layAccx (f : Accx) : Fields := { a := f.a, w2 := 0#4 ++ f.n1 ++ f.row0 ++ BitVec.ofBool f.s ++ f.k ++ 0#8 }
def layMma (f : Mma) : Fields := { mod := asrcCode f.src ++ elemCode f.ta, a := f.a, b := f.b, w2 := 0#1 ++ f.e ++ f.j ++ BitVec.ofBool f.acc ++ elemCode f.tb ++ f.tt ++ f.dt ++ 0#8 }
def layTile1 (f : Tile1) : Fields := { d := 0#3 ++ f.k }
def layAccmov (f : Accmov) : Fields := { mod := 0#3 ++ amCode f.mode, d := f.d, a := f.a, b := f.b }
def layAccscl (f : Accscl) : Fields := { d := f.k, a := f.j, b := f.col }
def layAttn (f : Attn) : Fields := { d := f.d, a := f.a, b := f.b, w2 := 0#24 ++ f.c, w3 := 0#8 ++ BitVec.ofBool f.init ++ f.nr1 ++ BitVec.ofBool f.tileQ ++ f.q ++ f.s ++ f.o }
def layAttnfin (f : Attnfin) : Fields := { w2 := 0#13 ++ BitVec.ofBool f.nomass ++ f.s ++ f.o ++ 0#8 }
def laySmmerge (f : Smmerge) : Fields := { w2 := 0#4 ++ f.s2 ++ f.o2 ++ f.s1 ++ f.o1 ++ 0#8 }
def laySelect (f : Select) : Fields := { d := f.d, a := f.a, b := f.b, w2 := f.g ++ f.f ++ f.e ++ f.c }
def layKvapp (f : Kvapp) : Fields := { a := f.a, b := f.b, w2 := 0#24 ++ f.c }
def layKvAB (f : KvAB) : Fields := { a := f.a, b := f.b }
def layKvinfo (f : Kvinfo) : Fields := { mod := 0#4 ++ BitVec.ofBool f.tmiss, d := f.d, a := f.a, b := f.b }
def layCbar (f : Cbar) : Fields := { d := 0#5 ++ f.n }
def layGbar (f : Gbar) : Fields := { d := 0#6 ++ f.g }
def layEv (f : Ev) : Fields := { mod := nameNi f.nm ++ 0#4, d := nameLo f.nm, a := nameHi f.nm, b := f.b }
def layEvI (f : EvI) : Fields := { mod := nameNi f.nm ++ 0#4, d := nameLo f.nm, a := nameHi f.nm, w2 := f.imm }
def layEvwait (f : Evwait) : Fields := { mod := nameNi f.nm ++ 0#3 ++ BitVec.ofBool f.eq, d := nameLo f.nm, a := nameHi f.nm }
def layEvtest (f : Evtest) : Fields := { mod := nameNi f.nm ++ 0#3 ++ BitVec.ofBool f.eq, d := f.d, b := nameLo f.nm, a := nameHi f.nm }
def layTaskput (f : Taskput) : Fields := { mod := nameNi f.nm ++ 0#4, d := nameLo f.nm, a := nameHi f.nm, b := f.b, w2 := 0#20 ++ f.cls ++ 0#8 }
def layTaskpop (f : Taskpop) : Fields := { d := f.d, b := 0#4 ++ f.cls }
def laySibpost (f : Sibpost) : Fields := { d := f.d, a := f.a, b := 0#6 ++ f.g }
def laySibpostC (f : SibpostC) : Fields := { d := f.d, a := f.a, b := 0#6 ++ f.g, w2 := 0#15 ++ f.n ++ f.c }
def laySibqry (f : Sibqry) : Fields := { mod := 0#4 ++ BitVec.ofBool f.member, d := f.d, a := 0#6 ++ f.g, b := f.b }
def laySibcancel (f : Sibcancel) : Fields := { mod := 0#4 ++ BitVec.ofBool f.self, d := 0#6 ++ f.g, b := f.b }
def layDAB (f : DAB) : Fields := { d := f.d, a := f.a, b := f.b }
def layOnlyB (f : OnlyB) : Fields := { b := f.b }
def layPerf (f : Perf) : Fields := { mod := 0#4 ++ BitVec.ofBool f.dev, d := f.d, b := f.code }
def layRte (f : Rte) : Fields := { mod := 0#3 ++ rteCode f.mode, b := f.b }
def layCacheop (f : Cacheop) : Fields := { mod := 0#3 ++ cacheCode f.kind, a := f.a, b := f.b }
def layTlbop (f : Tlbop) : Fields := { mod := 0#3 ++ tlbCode f.kind, a := f.a, b := f.b }
def layCtxop (f : Ctxop) : Fields := { mod := 0#2 ++ ctxCode f.op, d := f.d, a := f.a, b := f.b }

/-- The operand fields of an instruction word: every field an opcode does not use is 0 (R228). -/
def Instr.fields : Instr → Fields
  | .nop f => layBare f
  | .nop96i f => layNopI f
  | .nop128i f => layNopL f
  | .iadd f => layBin f
  | .iadd96i f => layBinI f
  | .isub f => layBin f
  | .isub96i f => layBinI f
  | .imul f => layBin f
  | .imul96i f => layBinI f
  | .imulhi f => layBin f
  | .imad f => layTern f
  | .imadw f => layTern f
  | .iadd64 f => layBin f
  | .iadd64128i f => layBinL f
  | .isub64 f => layBin f
  | .lea f => layTern f
  | .imin f => layBin f
  | .imin96i f => layBinI f
  | .imax f => layBin f
  | .imax96i f => layBinI f
  | .iabs f => layUn f
  | .isad f => layTern f
  | .iclamp f => layTern f
  | .shl f => layBin f
  | .shl96i f => layBinI f
  | .shr f => layBin f
  | .shr96i f => layBinI f
  | .sar f => layBin f
  | .sar96i f => layBinI f
  | .rot f => layBin f
  | .rot96i f => layBinI f
  | .fshf f => layTern f
  | .and f => layBin f
  | .and96i f => layBinI f
  | .or f => layBin f
  | .or96i f => layBinI f
  | .xor f => layBin f
  | .xor96i f => layBinI f
  | .not f => layUn f
  | .bool3 f => layTern f
  | .popc f => layUn f
  | .clz f => layUn f
  | .brev f => layUn f
  | .bfe f => layBin f
  | .bfe96i f => layBinI f
  | .bfi f => layTern f
  | .bysel f => layTern f
  | .icmp f => layCmp f
  | .icmp96i f => layCmpI f
  | .icmp64 f => layCmp f
  | .plop f => layPlop f
  | .isel f => layTern f
  | .mov f => layUn f
  | .movi f => layMovi f
  | .movi64 f => layMovl f
  | .idp4 f => layTern f
  | .idp2 f => layTern f
  | .fadd f => layBin f
  | .fadd96i f => layBinI f
  | .fsub f => layBin f
  | .fsub96i f => layBinI f
  | .fmul f => layBin f
  | .fmul96i f => layBinI f
  | .ffma f => layTern f
  | .fmin f => layBin f
  | .fmax f => layBin f
  | .fcmp f => layCmp f
  | .fcmp96i f => layCmpI f
  | .fclamp f => layTern f
  | .frcp f => layUn f
  | .frsq f => layUn f
  | .fsqrt f => layUn f
  | .fexp2 f => layUn f
  | .flog2 f => layUn f
  | .ftanh f => layUn f
  | .frnd f => layFrnd f
  | .fscale f => layBin f
  | .fclass f => layUn f
  | .fdot2 f => layTern f
  | .padd2 f => layBin f
  | .padd296i f => layBinI f
  | .pmul2 f => layBin f
  | .pmul296i f => layBinI f
  | .pfma2 f => layTern f
  | .pmin2 f => layBin f
  | .pmax2 f => layBin f
  | .cvt f => layCvt f
  | .cvtpk f => layCvtpk f
  | .cvtupk f => layCvtupk f
  | .lxch f => layLxch f
  | .lpoll f => layLbit f
  | .lmask f => layLbit f
  | .lpeer f => layUn f
  | .lfirst f => layOnlyD f
  | .ifold f => layFold f
  | .ffold f => layFold f
  | .scan f => layFold f
  | .fscan f => layFold f
  | .sreg f => laySregR f
  | .sregw f => laySregW f
  | .xform f => layXform f
  | .bra f => layBra f
  | .dbra f => layDbra f
  | .join f => layBare f
  | .brx f => layOnlyA f
  | .call f => layCall f
  | .callx f => layCallX f
  | .ret f => layOnlyA f
  | .exit f => layBare f
  | .regang f => layOnlyA f
  | .yield f => layBare f
  | .canpt f => layBare f
  | .heart f => layBare f
  | .trap f => layCode8 f
  | .bkpt f => layBare f
  | .ld f => layMem f
  | .ld96i f => layMemI f
  | .st f => layMem f
  | .st96i f => layMemI f
  | .ldby f => layMem f
  | .ldby96i f => layMemI f
  | .lde f => layMem f
  | .lde96i f => layMemI f
  | .clear f => layClear f
  | .cldrop f => layBare f
  | .lds f => layMem f
  | .lds96i f => layMemI f
  | .sts f => layMem f
  | .sts96i f => layMemI f
  | .ldl f => layMem f
  | .ldl96i f => layMemI f
  | .stl f => layMem f
  | .stl96i f => layMemI f
  | .ldc f => layMem f
  | .ldc96i f => layMemI f
  | .atom f => layAtom f
  | .atomc f => layAtomc f
  | .red f => layRed f
  | .red96i f => layRedI f
  | .redc f => layRedc f
  | .fence f => layFence f
  | .pref f => layPref f
  | .pref96i f => layPrefI f
  | .cpa f => layCpa f
  | .cpclose f => layOnlyD f
  | .cpwait f => layCpwait f
  | .tcopy f => layTcopy f
  | .tcred f => layTcred f
  | .spset f => laySpset f
  | .spwait f => laySpD f
  | .sprel f => laySpK f
  | .spqry f => laySpD f
  | .dcopy f => layDcopy f
  | .pgin f => layPgmove f
  | .pgmove f => layPgmove f
  | .crcchk f => layCallX f
  | .accld f => layAccx f
  | .accst f => layAccx f
  | .mma f => layMma f
  | .mma2 f => layMma f
  | .mmab f => layMma f
  | .accz f => layTile1 f
  | .accmov f => layAccmov f
  | .accscl f => layAccscl f
  | .attn f => layAttn f
  | .attnfin f => layAttnfin f
  | .smmerge f => laySmmerge f
  | .select f => laySelect f
  | .kvapp f => layKvapp f
  | .kvcommit f => layKvAB f
  | .kvroll f => layOnlyA f
  | .kvclose f => layKvAB f
  | .kvstep f => layKvAB f
  | .demreq f => layKvAB f
  | .kvpin f => layKvAB f
  | .kvunpin f => layKvAB f
  | .kvinfo f => layKvinfo f
  | .cbar f => layCbar f
  | .gbar f => layGbar f
  | .evadd f => layEv f
  | .evadd96i f => layEvI f
  | .evset f => layEv f
  | .evset96i f => layEvI f
  | .evwait f => layEvwait f
  | .evtest f => layEvtest f
  | .taskput f => layTaskput f
  | .taskpop f => layTaskpop f
  | .sibpost f => laySibpost f
  | .sibpost96c f => laySibpostC f
  | .sibqry f => laySibqry f
  | .sibcancel f => laySibcancel f
  | .launch f => layDAB f
  | .sleep f => layOnlyB f
  | .sleep96i f => layNopI f
  | .perf f => layPerf f
  | .svc f => layCode8 f
  | .rte f => layRte f
  | .cacheop f => layCacheop f
  | .tlbop f => layTlbop f
  | .ctxop f => layCtxop f
  | .xformReply _ | .fenceCompletion _ | .sleepWake _ | .uaten2 _ | .longLatencyResult _ | .swapIn _ |
    .rotation _ | .homeFill _ | .homeWrite _ | .homeAtomic _ | .homeLdby _ | .homeRangeLoad _ | .writeAck _ |
    .l1LeaseExpiry _ _ | .ldeValidation _ | .validationAnswer _ | .peerPacket _ | .peerSettle _ |
    .peerTimeout _ | .eventUpdate _ | .eventWaitArrival _ | .eventReread _ | .tellerPost _ | .holdingRelease
    _ _ | .launchAdmission | .placement | .preemptByPriority | .preemptionSave _ | .forcedPreemption _ |
    .crewResumption | .watchdogFire _ _ | .faultDelivery _ | .killDone _ | .shuttleCpa _ | .shuttleTcopy _ |
    .shuttleTcred _ | .shuttleDcopy _ | .shuttlePageMove _ | .spoolDelivery _ | .copyBatchComplete _ _ |
    .poolAllocation _ | .stage _ | .stageCold _ | .sweepEnd _ | .demreqServe _ | .mbxLaneWrite |
    .mbxLaunch | .mbxWrite | .mbxRead | .mbxEvsigAdd | .mbxEvsigSet | .mbxKill |
    .mbxQueryRegister | .mbxQueryContext | .sessionOpen | .sessionClose | .sessionMeasure |
    .completionRingPoll | .spdmGetVersion | .spdmGetCapabilities | .spdmGetMeasurements | .scrWrite |
    .mbxStatus | .wdgCtl | .wdgFired | .shuPoolCtl | .shuPoolAdd | .shuPoolStatus | .prfClr |
    .secAcctab | .deviceReset _ | .powerLoopStep _ _ | .thermalCutoff | .linkRetrain | .patrolScrub |
    .modulePowerRemoved | .spdmKeyExchange | .spdmGetCertificate | .spdmChallenge | .spdmKeyUpdate
    | .spdmEndSession | .ideKm => {}

/-- The header of an instruction word; none for a row that is a step of another agent. -/
def Instr.hdr : Instr → Option Hdr
  | .nop f => some f.h
  | .nop96i f => some f.h
  | .nop128i f => some f.h
  | .iadd f => some f.h
  | .iadd96i f => some f.h
  | .isub f => some f.h
  | .isub96i f => some f.h
  | .imul f => some f.h
  | .imul96i f => some f.h
  | .imulhi f => some f.h
  | .imad f => some f.h
  | .imadw f => some f.h
  | .iadd64 f => some f.h
  | .iadd64128i f => some f.h
  | .isub64 f => some f.h
  | .lea f => some f.h
  | .imin f => some f.h
  | .imin96i f => some f.h
  | .imax f => some f.h
  | .imax96i f => some f.h
  | .iabs f => some f.h
  | .isad f => some f.h
  | .iclamp f => some f.h
  | .shl f => some f.h
  | .shl96i f => some f.h
  | .shr f => some f.h
  | .shr96i f => some f.h
  | .sar f => some f.h
  | .sar96i f => some f.h
  | .rot f => some f.h
  | .rot96i f => some f.h
  | .fshf f => some f.h
  | .and f => some f.h
  | .and96i f => some f.h
  | .or f => some f.h
  | .or96i f => some f.h
  | .xor f => some f.h
  | .xor96i f => some f.h
  | .not f => some f.h
  | .bool3 f => some f.h
  | .popc f => some f.h
  | .clz f => some f.h
  | .brev f => some f.h
  | .bfe f => some f.h
  | .bfe96i f => some f.h
  | .bfi f => some f.h
  | .bysel f => some f.h
  | .icmp f => some f.h
  | .icmp96i f => some f.h
  | .icmp64 f => some f.h
  | .plop f => some f.h
  | .isel f => some f.h
  | .mov f => some f.h
  | .movi f => some f.h
  | .movi64 f => some f.h
  | .idp4 f => some f.h
  | .idp2 f => some f.h
  | .fadd f => some f.h
  | .fadd96i f => some f.h
  | .fsub f => some f.h
  | .fsub96i f => some f.h
  | .fmul f => some f.h
  | .fmul96i f => some f.h
  | .ffma f => some f.h
  | .fmin f => some f.h
  | .fmax f => some f.h
  | .fcmp f => some f.h
  | .fcmp96i f => some f.h
  | .fclamp f => some f.h
  | .frcp f => some f.h
  | .frsq f => some f.h
  | .fsqrt f => some f.h
  | .fexp2 f => some f.h
  | .flog2 f => some f.h
  | .ftanh f => some f.h
  | .frnd f => some f.h
  | .fscale f => some f.h
  | .fclass f => some f.h
  | .fdot2 f => some f.h
  | .padd2 f => some f.h
  | .padd296i f => some f.h
  | .pmul2 f => some f.h
  | .pmul296i f => some f.h
  | .pfma2 f => some f.h
  | .pmin2 f => some f.h
  | .pmax2 f => some f.h
  | .cvt f => some f.h
  | .cvtpk f => some f.h
  | .cvtupk f => some f.h
  | .lxch f => some f.h
  | .lpoll f => some f.h
  | .lmask f => some f.h
  | .lpeer f => some f.h
  | .lfirst f => some f.h
  | .ifold f => some f.h
  | .ffold f => some f.h
  | .scan f => some f.h
  | .fscan f => some f.h
  | .sreg f => some f.h
  | .sregw f => some f.h
  | .xform f => some f.h
  | .bra f => some f.h
  | .dbra f => some f.h
  | .join f => some f.h
  | .brx f => some f.h
  | .call f => some f.h
  | .callx f => some f.h
  | .ret f => some f.h
  | .exit f => some f.h
  | .regang f => some f.h
  | .yield f => some f.h
  | .canpt f => some f.h
  | .heart f => some f.h
  | .trap f => some f.h
  | .bkpt f => some f.h
  | .ld f => some f.h
  | .ld96i f => some f.h
  | .st f => some f.h
  | .st96i f => some f.h
  | .ldby f => some f.h
  | .ldby96i f => some f.h
  | .lde f => some f.h
  | .lde96i f => some f.h
  | .clear f => some f.h
  | .cldrop f => some f.h
  | .lds f => some f.h
  | .lds96i f => some f.h
  | .sts f => some f.h
  | .sts96i f => some f.h
  | .ldl f => some f.h
  | .ldl96i f => some f.h
  | .stl f => some f.h
  | .stl96i f => some f.h
  | .ldc f => some f.h
  | .ldc96i f => some f.h
  | .atom f => some f.h
  | .atomc f => some f.h
  | .red f => some f.h
  | .red96i f => some f.h
  | .redc f => some f.h
  | .fence f => some f.h
  | .pref f => some f.h
  | .pref96i f => some f.h
  | .cpa f => some f.h
  | .cpclose f => some f.h
  | .cpwait f => some f.h
  | .tcopy f => some f.h
  | .tcred f => some f.h
  | .spset f => some f.h
  | .spwait f => some f.h
  | .sprel f => some f.h
  | .spqry f => some f.h
  | .dcopy f => some f.h
  | .pgin f => some f.h
  | .pgmove f => some f.h
  | .crcchk f => some f.h
  | .accld f => some f.h
  | .accst f => some f.h
  | .mma f => some f.h
  | .mma2 f => some f.h
  | .mmab f => some f.h
  | .accz f => some f.h
  | .accmov f => some f.h
  | .accscl f => some f.h
  | .attn f => some f.h
  | .attnfin f => some f.h
  | .smmerge f => some f.h
  | .select f => some f.h
  | .kvapp f => some f.h
  | .kvcommit f => some f.h
  | .kvroll f => some f.h
  | .kvclose f => some f.h
  | .kvstep f => some f.h
  | .demreq f => some f.h
  | .kvpin f => some f.h
  | .kvunpin f => some f.h
  | .kvinfo f => some f.h
  | .cbar f => some f.h
  | .gbar f => some f.h
  | .evadd f => some f.h
  | .evadd96i f => some f.h
  | .evset f => some f.h
  | .evset96i f => some f.h
  | .evwait f => some f.h
  | .evtest f => some f.h
  | .taskput f => some f.h
  | .taskpop f => some f.h
  | .sibpost f => some f.h
  | .sibpost96c f => some f.h
  | .sibqry f => some f.h
  | .sibcancel f => some f.h
  | .launch f => some f.h
  | .sleep f => some f.h
  | .sleep96i f => some f.h
  | .perf f => some f.h
  | .svc f => some f.h
  | .rte f => some f.h
  | .cacheop f => some f.h
  | .tlbop f => some f.h
  | .ctxop f => some f.h
  | .xformReply _ | .fenceCompletion _ | .sleepWake _ | .uaten2 _ | .longLatencyResult _ | .swapIn _ |
    .rotation _ | .homeFill _ | .homeWrite _ | .homeAtomic _ | .homeLdby _ | .homeRangeLoad _ | .writeAck _ |
    .l1LeaseExpiry _ _ | .ldeValidation _ | .validationAnswer _ | .peerPacket _ | .peerSettle _ |
    .peerTimeout _ | .eventUpdate _ | .eventWaitArrival _ | .eventReread _ | .tellerPost _ | .holdingRelease
    _ _ | .launchAdmission | .placement | .preemptByPriority | .preemptionSave _ | .forcedPreemption _ |
    .crewResumption | .watchdogFire _ _ | .faultDelivery _ | .killDone _ | .shuttleCpa _ | .shuttleTcopy _ |
    .shuttleTcred _ | .shuttleDcopy _ | .shuttlePageMove _ | .spoolDelivery _ | .copyBatchComplete _ _ |
    .poolAllocation _ | .stage _ | .stageCold _ | .sweepEnd _ | .demreqServe _ | .mbxLaneWrite |
    .mbxLaunch | .mbxWrite | .mbxRead | .mbxEvsigAdd | .mbxEvsigSet | .mbxKill |
    .mbxQueryRegister | .mbxQueryContext | .sessionOpen | .sessionClose | .sessionMeasure |
    .completionRingPoll | .spdmGetVersion | .spdmGetCapabilities | .spdmGetMeasurements | .scrWrite |
    .mbxStatus | .wdgCtl | .wdgFired | .shuPoolCtl | .shuPoolAdd | .shuPoolStatus | .prfClr |
    .secAcctab | .deviceReset _ | .powerLoopStep _ _ | .thermalCutoff | .linkRetrain | .patrolScrub |
    .modulePowerRemoved | .spdmKeyExchange | .spdmGetCertificate | .spdmChallenge | .spdmKeyUpdate
    | .spdmEndSession | .ideKm => none

/-- Opcode, form and classes of each instruction (Tables 12.7 to 12.14). -/
def Instr.row : Instr → Option Row
  | .nop _ => some ⟨0x000, .f64, false, false⟩
  | .nop96i _ => some ⟨0x000, .f96i, false, false⟩
  | .nop128i _ => some ⟨0x000, .f128i, false, false⟩
  | .iadd _ => some ⟨0x001, .f64, false, false⟩
  | .iadd96i _ => some ⟨0x001, .f96i, false, false⟩
  | .isub _ => some ⟨0x002, .f64, false, false⟩
  | .isub96i _ => some ⟨0x002, .f96i, false, false⟩
  | .imul _ => some ⟨0x003, .f64, false, false⟩
  | .imul96i _ => some ⟨0x003, .f96i, false, false⟩
  | .imulhi _ => some ⟨0x004, .f64, false, false⟩
  | .imad _ => some ⟨0x005, .f96c, false, false⟩
  | .imadw _ => some ⟨0x006, .f96c, false, false⟩
  | .iadd64 _ => some ⟨0x007, .f64, false, false⟩
  | .iadd64128i _ => some ⟨0x007, .f128i, false, false⟩
  | .isub64 _ => some ⟨0x008, .f64, false, false⟩
  | .lea _ => some ⟨0x009, .f96c, false, false⟩
  | .imin _ => some ⟨0x00A, .f64, false, false⟩
  | .imin96i _ => some ⟨0x00A, .f96i, false, false⟩
  | .imax _ => some ⟨0x00B, .f64, false, false⟩
  | .imax96i _ => some ⟨0x00B, .f96i, false, false⟩
  | .iabs _ => some ⟨0x00C, .f64, false, false⟩
  | .isad _ => some ⟨0x00D, .f96c, false, false⟩
  | .iclamp _ => some ⟨0x00E, .f96c, false, false⟩
  | .shl _ => some ⟨0x00F, .f64, false, false⟩
  | .shl96i _ => some ⟨0x00F, .f96i, false, false⟩
  | .shr _ => some ⟨0x010, .f64, false, false⟩
  | .shr96i _ => some ⟨0x010, .f96i, false, false⟩
  | .sar _ => some ⟨0x011, .f64, false, false⟩
  | .sar96i _ => some ⟨0x011, .f96i, false, false⟩
  | .rot _ => some ⟨0x012, .f64, false, false⟩
  | .rot96i _ => some ⟨0x012, .f96i, false, false⟩
  | .fshf _ => some ⟨0x013, .f96c, false, false⟩
  | .and _ => some ⟨0x014, .f64, false, false⟩
  | .and96i _ => some ⟨0x014, .f96i, false, false⟩
  | .or _ => some ⟨0x015, .f64, false, false⟩
  | .or96i _ => some ⟨0x015, .f96i, false, false⟩
  | .xor _ => some ⟨0x016, .f64, false, false⟩
  | .xor96i _ => some ⟨0x016, .f96i, false, false⟩
  | .not _ => some ⟨0x017, .f64, false, false⟩
  | .bool3 _ => some ⟨0x018, .f96c, false, false⟩
  | .popc _ => some ⟨0x019, .f64, false, false⟩
  | .clz _ => some ⟨0x01A, .f64, false, false⟩
  | .brev _ => some ⟨0x01B, .f64, false, false⟩
  | .bfe _ => some ⟨0x01C, .f64, false, false⟩
  | .bfe96i _ => some ⟨0x01C, .f96i, false, false⟩
  | .bfi _ => some ⟨0x01D, .f96c, false, false⟩
  | .bysel _ => some ⟨0x01E, .f96c, false, false⟩
  | .icmp _ => some ⟨0x01F, .f64, false, false⟩
  | .icmp96i _ => some ⟨0x01F, .f96i, false, false⟩
  | .icmp64 _ => some ⟨0x020, .f64, false, false⟩
  | .plop _ => some ⟨0x021, .f64, false, false⟩
  | .isel _ => some ⟨0x022, .f96c, false, false⟩
  | .mov _ => some ⟨0x023, .f64, false, false⟩
  | .movi _ => some ⟨0x024, .f96i, false, false⟩
  | .movi64 _ => some ⟨0x025, .f128i, false, false⟩
  | .idp4 _ => some ⟨0x026, .f96c, false, false⟩
  | .idp2 _ => some ⟨0x027, .f96c, false, false⟩
  | .fadd _ => some ⟨0x040, .f64, false, false⟩
  | .fadd96i _ => some ⟨0x040, .f96i, false, false⟩
  | .fsub _ => some ⟨0x041, .f64, false, false⟩
  | .fsub96i _ => some ⟨0x041, .f96i, false, false⟩
  | .fmul _ => some ⟨0x042, .f64, false, false⟩
  | .fmul96i _ => some ⟨0x042, .f96i, false, false⟩
  | .ffma _ => some ⟨0x043, .f96c, false, false⟩
  | .fmin _ => some ⟨0x044, .f64, false, false⟩
  | .fmax _ => some ⟨0x045, .f64, false, false⟩
  | .fcmp _ => some ⟨0x046, .f64, false, false⟩
  | .fcmp96i _ => some ⟨0x046, .f96i, false, false⟩
  | .fclamp _ => some ⟨0x047, .f96c, false, false⟩
  | .frcp _ => some ⟨0x048, .f64, true, false⟩
  | .frsq _ => some ⟨0x049, .f64, true, false⟩
  | .fsqrt _ => some ⟨0x04A, .f64, true, false⟩
  | .fexp2 _ => some ⟨0x04B, .f64, true, false⟩
  | .flog2 _ => some ⟨0x04C, .f64, true, false⟩
  | .ftanh _ => some ⟨0x04D, .f64, true, false⟩
  | .frnd _ => some ⟨0x04E, .f64, false, false⟩
  | .fscale _ => some ⟨0x04F, .f64, false, false⟩
  | .fclass _ => some ⟨0x050, .f64, false, false⟩
  | .fdot2 _ => some ⟨0x051, .f96c, false, false⟩
  | .padd2 _ => some ⟨0x052, .f64, false, false⟩
  | .padd296i _ => some ⟨0x052, .f96i, false, false⟩
  | .pmul2 _ => some ⟨0x053, .f64, false, false⟩
  | .pmul296i _ => some ⟨0x053, .f96i, false, false⟩
  | .pfma2 _ => some ⟨0x054, .f96c, false, false⟩
  | .pmin2 _ => some ⟨0x055, .f64, false, false⟩
  | .pmax2 _ => some ⟨0x056, .f64, false, false⟩
  | .cvt _ => some ⟨0x080, .f64, false, false⟩
  | .cvtpk _ => some ⟨0x081, .f96c, false, false⟩
  | .cvtupk _ => some ⟨0x082, .f64, false, false⟩
  | .lxch _ => some ⟨0x083, .f96c, false, false⟩
  | .lpoll _ => some ⟨0x084, .f64, false, false⟩
  | .lmask _ => some ⟨0x085, .f64, false, false⟩
  | .lpeer _ => some ⟨0x086, .f64, false, false⟩
  | .lfirst _ => some ⟨0x087, .f64, false, false⟩
  | .ifold _ => some ⟨0x088, .f64, false, false⟩
  | .ffold _ => some ⟨0x089, .f64, false, false⟩
  | .scan _ => some ⟨0x08A, .f64, false, false⟩
  | .fscan _ => some ⟨0x08B, .f64, false, false⟩
  | .sreg _ => some ⟨0x08C, .f64, false, false⟩
  | .sregw _ => some ⟨0x08D, .f64, false, false⟩
  | .xform _ => some ⟨0x08E, .f96c, true, false⟩
  | .bra _ => some ⟨0x0C0, .f96i, false, false⟩
  | .dbra _ => some ⟨0x0C1, .f128i, false, false⟩
  | .join _ => some ⟨0x0C2, .f64, false, false⟩
  | .brx _ => some ⟨0x0C3, .f64, false, false⟩
  | .call _ => some ⟨0x0C4, .f96i, false, false⟩
  | .callx _ => some ⟨0x0C5, .f64, false, false⟩
  | .ret _ => some ⟨0x0C6, .f64, false, false⟩
  | .exit _ => some ⟨0x0C7, .f64, false, false⟩
  | .regang _ => some ⟨0x0C8, .f64, false, false⟩
  | .yield _ => some ⟨0x0C9, .f64, false, false⟩
  | .canpt _ => some ⟨0x0CA, .f64, false, false⟩
  | .heart _ => some ⟨0x0CB, .f64, false, false⟩
  | .trap _ => some ⟨0x0CC, .f64, false, false⟩
  | .bkpt _ => some ⟨0x0CD, .f64, false, false⟩
  | .ld _ => some ⟨0x100, .f64, true, false⟩
  | .ld96i _ => some ⟨0x100, .f96i, true, false⟩
  | .st _ => some ⟨0x101, .f64, false, false⟩
  | .st96i _ => some ⟨0x101, .f96i, false, false⟩
  | .ldby _ => some ⟨0x102, .f64, true, false⟩
  | .ldby96i _ => some ⟨0x102, .f96i, true, false⟩
  | .lde _ => some ⟨0x103, .f64, true, false⟩
  | .lde96i _ => some ⟨0x103, .f96i, true, false⟩
  | .clear _ => some ⟨0x104, .f64, false, false⟩
  | .cldrop _ => some ⟨0x105, .f64, false, false⟩
  | .lds _ => some ⟨0x106, .f64, true, false⟩
  | .lds96i _ => some ⟨0x106, .f96i, true, false⟩
  | .sts _ => some ⟨0x107, .f64, false, false⟩
  | .sts96i _ => some ⟨0x107, .f96i, false, false⟩
  | .ldl _ => some ⟨0x108, .f64, true, false⟩
  | .ldl96i _ => some ⟨0x108, .f96i, true, false⟩
  | .stl _ => some ⟨0x109, .f64, false, false⟩
  | .stl96i _ => some ⟨0x109, .f96i, false, false⟩
  | .ldc _ => some ⟨0x10A, .f64, true, false⟩
  | .ldc96i _ => some ⟨0x10A, .f96i, true, false⟩
  | .atom _ => some ⟨0x10B, .f96c, true, false⟩
  | .atomc _ => some ⟨0x10C, .f96c, true, false⟩
  | .red _ => some ⟨0x10D, .f64, false, false⟩
  | .red96i _ => some ⟨0x10D, .f96i, false, false⟩
  | .redc _ => some ⟨0x10E, .f64, false, false⟩
  | .fence _ => some ⟨0x10F, .f64, false, false⟩
  | .pref _ => some ⟨0x110, .f64, false, false⟩
  | .pref96i _ => some ⟨0x110, .f96i, false, false⟩
  | .cpa _ => some ⟨0x140, .f96c, true, false⟩
  | .cpclose _ => some ⟨0x141, .f64, true, false⟩
  | .cpwait _ => some ⟨0x142, .f64, true, false⟩
  | .tcopy _ => some ⟨0x143, .f128x, true, false⟩
  | .tcred _ => some ⟨0x144, .f128x, true, false⟩
  | .spset _ => some ⟨0x145, .f96c, true, false⟩
  | .spwait _ => some ⟨0x146, .f64, true, false⟩
  | .sprel _ => some ⟨0x147, .f64, true, false⟩
  | .spqry _ => some ⟨0x148, .f64, true, false⟩
  | .dcopy _ => some ⟨0x149, .f96c, true, false⟩
  | .pgin _ => some ⟨0x14A, .f96c, true, false⟩
  | .pgmove _ => some ⟨0x14B, .f96c, true, false⟩
  | .crcchk _ => some ⟨0x14C, .f64, true, false⟩
  | .accld _ => some ⟨0x14D, .f96c, true, false⟩
  | .accst _ => some ⟨0x14E, .f96c, true, false⟩
  | .mma _ => some ⟨0x180, .f96c, true, false⟩
  | .mma2 _ => some ⟨0x181, .f96c, true, false⟩
  | .mmab _ => some ⟨0x182, .f96c, true, false⟩
  | .accz _ => some ⟨0x183, .f64, false, false⟩
  | .accmov _ => some ⟨0x184, .f64, false, false⟩
  | .accscl _ => some ⟨0x185, .f64, false, false⟩
  | .attn _ => some ⟨0x186, .f128x, true, false⟩
  | .attnfin _ => some ⟨0x187, .f96c, true, false⟩
  | .smmerge _ => some ⟨0x188, .f96c, true, false⟩
  | .select _ => some ⟨0x189, .f128x, true, false⟩
  | .kvapp _ => some ⟨0x18A, .f96c, false, false⟩
  | .kvcommit _ => some ⟨0x18B, .f64, false, false⟩
  | .kvroll _ => some ⟨0x18C, .f64, false, false⟩
  | .kvclose _ => some ⟨0x18D, .f64, false, false⟩
  | .kvstep _ => some ⟨0x18E, .f64, false, false⟩
  | .demreq _ => some ⟨0x18F, .f64, false, false⟩
  | .kvpin _ => some ⟨0x190, .f64, false, false⟩
  | .kvunpin _ => some ⟨0x191, .f64, false, false⟩
  | .kvinfo _ => some ⟨0x192, .f64, true, false⟩
  | .cbar _ => some ⟨0x1C0, .f64, false, false⟩
  | .gbar _ => some ⟨0x1C1, .f64, false, false⟩
  | .evadd _ => some ⟨0x1C2, .f64, false, false⟩
  | .evadd96i _ => some ⟨0x1C2, .f96i, false, false⟩
  | .evset _ => some ⟨0x1C3, .f64, false, false⟩
  | .evset96i _ => some ⟨0x1C3, .f96i, false, false⟩
  | .evwait _ => some ⟨0x1C4, .f64, false, false⟩
  | .evtest _ => some ⟨0x1C5, .f64, false, false⟩
  | .taskput _ => some ⟨0x1C6, .f96c, false, false⟩
  | .taskpop _ => some ⟨0x1C7, .f64, true, false⟩
  | .sibpost _ => some ⟨0x1C8, .f64, true, false⟩
  | .sibpost96c _ => some ⟨0x1C8, .f96c, true, false⟩
  | .sibqry _ => some ⟨0x1C9, .f64, false, false⟩
  | .sibcancel _ => some ⟨0x1CA, .f64, false, false⟩
  | .launch _ => some ⟨0x1CB, .f64, false, false⟩
  | .sleep _ => some ⟨0x1CC, .f64, false, false⟩
  | .sleep96i _ => some ⟨0x1CC, .f96i, false, false⟩
  | .perf _ => some ⟨0x1CD, .f64, false, false⟩
  | .svc _ => some ⟨0x1CE, .f64, false, false⟩
  | .rte _ => some ⟨0x1CF, .f64, false, true⟩
  | .cacheop _ => some ⟨0x1D0, .f64, false, true⟩
  | .tlbop _ => some ⟨0x1D1, .f64, false, true⟩
  | .ctxop _ => some ⟨0x1D2, .f64, false, true⟩
  | .xformReply _ | .fenceCompletion _ | .sleepWake _ | .uaten2 _ | .longLatencyResult _ | .swapIn _ |
    .rotation _ | .homeFill _ | .homeWrite _ | .homeAtomic _ | .homeLdby _ | .homeRangeLoad _ | .writeAck _ |
    .l1LeaseExpiry _ _ | .ldeValidation _ | .validationAnswer _ | .peerPacket _ | .peerSettle _ |
    .peerTimeout _ | .eventUpdate _ | .eventWaitArrival _ | .eventReread _ | .tellerPost _ | .holdingRelease
    _ _ | .launchAdmission | .placement | .preemptByPriority | .preemptionSave _ | .forcedPreemption _ |
    .crewResumption | .watchdogFire _ _ | .faultDelivery _ | .killDone _ | .shuttleCpa _ | .shuttleTcopy _ |
    .shuttleTcred _ | .shuttleDcopy _ | .shuttlePageMove _ | .spoolDelivery _ | .copyBatchComplete _ _ |
    .poolAllocation _ | .stage _ | .stageCold _ | .sweepEnd _ | .demreqServe _ | .mbxLaneWrite |
    .mbxLaunch | .mbxWrite | .mbxRead | .mbxEvsigAdd | .mbxEvsigSet | .mbxKill |
    .mbxQueryRegister | .mbxQueryContext | .sessionOpen | .sessionClose | .sessionMeasure |
    .completionRingPoll | .spdmGetVersion | .spdmGetCapabilities | .spdmGetMeasurements | .scrWrite |
    .mbxStatus | .wdgCtl | .wdgFired | .shuPoolCtl | .shuPoolAdd | .shuPoolStatus | .prfClr |
    .secAcctab | .deviceReset _ | .powerLoopStep _ _ | .thermalCutoff | .linkRetrain | .patrolScrub |
    .modulePowerRemoved | .spdmKeyExchange | .spdmGetCertificate | .spdmChallenge | .spdmKeyUpdate
    | .spdmEndSession | .ideKm => none

/-- How many registers each field names (R61, R64, R287, R318). -/
def Instr.use : Instr → Use
  | .nop _ => ⟨0, 0, 0, 0, 0, 0, 0⟩
  | .nop96i _ => ⟨0, 0, 0, 0, 0, 0, 0⟩
  | .nop128i _ => ⟨0, 0, 0, 0, 0, 0, 0⟩
  | .iadd _ => ⟨1, 1, 1, 0, 0, 0, 0⟩
  | .iadd96i _ => ⟨1, 1, 0, 0, 0, 0, 0⟩
  | .isub _ => ⟨1, 1, 1, 0, 0, 0, 0⟩
  | .isub96i _ => ⟨1, 1, 0, 0, 0, 0, 0⟩
  | .imul _ => ⟨1, 1, 1, 0, 0, 0, 0⟩
  | .imul96i _ => ⟨1, 1, 0, 0, 0, 0, 0⟩
  | .imulhi _ => ⟨1, 1, 1, 0, 0, 0, 0⟩
  | .imad _ => ⟨1, 1, 1, 1, 0, 0, 0⟩
  | .imadw _ => ⟨2, 1, 1, 2, 0, 0, 0⟩
  | .iadd64 _ => ⟨2, 2, 2, 0, 0, 0, 0⟩
  | .iadd64128i _ => ⟨2, 2, 0, 0, 0, 0, 0⟩
  | .isub64 _ => ⟨2, 2, 2, 0, 0, 0, 0⟩
  | .lea _ => ⟨2, 2, 1, 0, 0, 0, 0⟩
  | .imin _ => ⟨1, 1, 1, 0, 0, 0, 0⟩
  | .imin96i _ => ⟨1, 1, 0, 0, 0, 0, 0⟩
  | .imax _ => ⟨1, 1, 1, 0, 0, 0, 0⟩
  | .imax96i _ => ⟨1, 1, 0, 0, 0, 0, 0⟩
  | .iabs _ => ⟨1, 1, 0, 0, 0, 0, 0⟩
  | .isad _ => ⟨1, 1, 1, 1, 0, 0, 0⟩
  | .iclamp _ => ⟨1, 1, 1, 1, 0, 0, 0⟩
  | .shl _ => ⟨1, 1, 1, 0, 0, 0, 0⟩
  | .shl96i _ => ⟨1, 1, 0, 0, 0, 0, 0⟩
  | .shr _ => ⟨1, 1, 1, 0, 0, 0, 0⟩
  | .shr96i _ => ⟨1, 1, 0, 0, 0, 0, 0⟩
  | .sar _ => ⟨1, 1, 1, 0, 0, 0, 0⟩
  | .sar96i _ => ⟨1, 1, 0, 0, 0, 0, 0⟩
  | .rot _ => ⟨1, 1, 1, 0, 0, 0, 0⟩
  | .rot96i _ => ⟨1, 1, 0, 0, 0, 0, 0⟩
  | .fshf _ => ⟨1, 1, 1, 1, 0, 0, 0⟩
  | .and _ => ⟨1, 1, 1, 0, 0, 0, 0⟩
  | .and96i _ => ⟨1, 1, 0, 0, 0, 0, 0⟩
  | .or _ => ⟨1, 1, 1, 0, 0, 0, 0⟩
  | .or96i _ => ⟨1, 1, 0, 0, 0, 0, 0⟩
  | .xor _ => ⟨1, 1, 1, 0, 0, 0, 0⟩
  | .xor96i _ => ⟨1, 1, 0, 0, 0, 0, 0⟩
  | .not _ => ⟨1, 1, 0, 0, 0, 0, 0⟩
  | .bool3 _ => ⟨1, 1, 1, 1, 0, 0, 0⟩
  | .popc _ => ⟨1, 1, 0, 0, 0, 0, 0⟩
  | .clz _ => ⟨1, 1, 0, 0, 0, 0, 0⟩
  | .brev _ => ⟨1, 1, 0, 0, 0, 0, 0⟩
  | .bfe _ => ⟨1, 1, 1, 0, 0, 0, 0⟩
  | .bfe96i _ => ⟨1, 1, 0, 0, 0, 0, 0⟩
  | .bfi _ => ⟨1, 1, 1, 1, 0, 0, 0⟩
  | .bysel _ => ⟨1, 1, 1, 1, 0, 0, 0⟩
  | .icmp _ => ⟨1, 1, 1, 0, 0, 0, 0⟩
  | .icmp96i _ => ⟨1, 1, 0, 0, 0, 0, 0⟩
  | .icmp64 _ => ⟨1, 2, 2, 0, 0, 0, 0⟩
  | .plop _ => ⟨1, 1, 0, 0, 0, 0, 0⟩
  | .isel _ => ⟨1, 1, 1, 1, 0, 0, 0⟩
  | .mov _ => ⟨1, 1, 0, 0, 0, 0, 0⟩
  | .movi _ => ⟨1, 0, 0, 0, 0, 0, 0⟩
  | .movi64 _ => ⟨2, 0, 0, 0, 0, 0, 0⟩
  | .idp4 _ => ⟨1, 1, 1, 1, 0, 0, 0⟩
  | .idp2 _ => ⟨1, 1, 1, 1, 0, 0, 0⟩
  | .fadd _ => ⟨1, 1, 1, 0, 0, 0, 0⟩
  | .fadd96i _ => ⟨1, 1, 0, 0, 0, 0, 0⟩
  | .fsub _ => ⟨1, 1, 1, 0, 0, 0, 0⟩
  | .fsub96i _ => ⟨1, 1, 0, 0, 0, 0, 0⟩
  | .fmul _ => ⟨1, 1, 1, 0, 0, 0, 0⟩
  | .fmul96i _ => ⟨1, 1, 0, 0, 0, 0, 0⟩
  | .ffma _ => ⟨1, 1, 1, 1, 0, 0, 0⟩
  | .fmin _ => ⟨1, 1, 1, 0, 0, 0, 0⟩
  | .fmax _ => ⟨1, 1, 1, 0, 0, 0, 0⟩
  | .fcmp _ => ⟨1, 1, 1, 0, 0, 0, 0⟩
  | .fcmp96i _ => ⟨1, 1, 0, 0, 0, 0, 0⟩
  | .fclamp _ => ⟨1, 1, 1, 1, 0, 0, 0⟩
  | .frcp _ => ⟨1, 1, 0, 0, 0, 0, 0⟩
  | .frsq _ => ⟨1, 1, 0, 0, 0, 0, 0⟩
  | .fsqrt _ => ⟨1, 1, 0, 0, 0, 0, 0⟩
  | .fexp2 _ => ⟨1, 1, 0, 0, 0, 0, 0⟩
  | .flog2 _ => ⟨1, 1, 0, 0, 0, 0, 0⟩
  | .ftanh _ => ⟨1, 1, 0, 0, 0, 0, 0⟩
  | .frnd _ => ⟨1, 1, 0, 0, 0, 0, 0⟩
  | .fscale _ => ⟨1, 1, 1, 0, 0, 0, 0⟩
  | .fclass _ => ⟨1, 1, 0, 0, 0, 0, 0⟩
  | .fdot2 _ => ⟨1, 1, 1, 1, 0, 0, 0⟩
  | .padd2 _ => ⟨1, 1, 1, 0, 0, 0, 0⟩
  | .padd296i _ => ⟨1, 1, 0, 0, 0, 0, 0⟩
  | .pmul2 _ => ⟨1, 1, 1, 0, 0, 0, 0⟩
  | .pmul296i _ => ⟨1, 1, 0, 0, 0, 0, 0⟩
  | .pfma2 _ => ⟨1, 1, 1, 1, 0, 0, 0⟩
  | .pmin2 _ => ⟨1, 1, 1, 0, 0, 0, 0⟩
  | .pmax2 _ => ⟨1, 1, 1, 0, 0, 0, 0⟩
  | .cvt f => ⟨tyRegs f.td, tyRegs f.ts, 0, 0, 0, 0, 0⟩
  | .cvtpk f => ⟨1, 1, 1, if tyElems f.td = 4 then 1 else 0, 0, 0, 0⟩
  | .cvtupk _ => ⟨1, 1, 0, 0, 0, 0, 0⟩
  | .lxch _ => ⟨1, 1, 1, 1, 0, 0, 0⟩
  | .lpoll _ => ⟨1, 1, 0, 0, 0, 0, 0⟩
  | .lmask _ => ⟨1, 1, 0, 0, 0, 0, 0⟩
  | .lpeer f => ⟨1, tyRegs f.t, 0, 0, 0, 0, 0⟩
  | .lfirst _ => ⟨1, 0, 0, 0, 0, 0, 0⟩
  | .ifold _ => ⟨1, 1, 0, 0, 0, 0, 0⟩
  | .ffold _ => ⟨1, 1, 0, 0, 0, 0, 0⟩
  | .scan _ => ⟨1, 1, 0, 0, 0, 0, 0⟩
  | .fscan _ => ⟨1, 1, 0, 0, 0, 0, 0⟩
  | .sreg _ => ⟨1, 0, 0, 0, 0, 0, 0⟩
  | .sregw _ => ⟨0, 0, 1, 0, 0, 0, 0⟩
  | .xform f => xformUse f.fn
  | .bra _ => ⟨0, 0, 0, 0, 0, 0, 0⟩
  | .dbra _ => ⟨0, 0, 0, 0, 0, 0, 0⟩
  | .join _ => ⟨0, 0, 0, 0, 0, 0, 0⟩
  | .brx _ => ⟨0, 2, 0, 0, 0, 0, 0⟩
  | .call _ => ⟨2, 0, 0, 0, 0, 0, 0⟩
  | .callx _ => ⟨2, 2, 0, 0, 0, 0, 0⟩
  | .ret _ => ⟨0, 2, 0, 0, 0, 0, 0⟩
  | .exit _ => ⟨0, 0, 0, 0, 0, 0, 0⟩
  | .regang _ => ⟨0, 1, 0, 0, 0, 0, 0⟩
  | .yield _ => ⟨0, 0, 0, 0, 0, 0, 0⟩
  | .canpt _ => ⟨0, 0, 0, 0, 0, 0, 0⟩
  | .heart _ => ⟨0, 0, 0, 0, 0, 0, 0⟩
  | .trap _ => ⟨0, 0, 0, 0, 0, 0, 0⟩
  | .bkpt _ => ⟨0, 0, 0, 0, 0, 0, 0⟩
  | .ld f => ⟨szRegs f.sz, 2, 0, 0, 0, 0, 0⟩
  | .ld96i f => ⟨szRegs f.sz, 2, 0, 0, 0, 0, 0⟩
  | .st f => ⟨szRegs f.sz, 2, 0, 0, 0, 0, 0⟩
  | .st96i f => ⟨szRegs f.sz, 2, 0, 0, 0, 0, 0⟩
  | .ldby f => ⟨szRegs f.sz, 2, 0, 0, 0, 0, 0⟩
  | .ldby96i f => ⟨szRegs f.sz, 2, 0, 0, 0, 0, 0⟩
  | .lde f => ⟨szRegs f.sz, 2, 0, 0, 0, 0, 0⟩
  | .lde96i f => ⟨szRegs f.sz, 2, 0, 0, 0, 0, 0⟩
  | .clear _ => ⟨0, 0, 0, 0, 0, 0, 0⟩
  | .cldrop _ => ⟨0, 0, 0, 0, 0, 0, 0⟩
  | .lds f => ⟨szRegs f.sz, 1, 0, 0, 0, 0, 0⟩
  | .lds96i f => ⟨szRegs f.sz, 1, 0, 0, 0, 0, 0⟩
  | .sts f => ⟨szRegs f.sz, 1, 0, 0, 0, 0, 0⟩
  | .sts96i f => ⟨szRegs f.sz, 1, 0, 0, 0, 0, 0⟩
  | .ldl f => ⟨szRegs f.sz, 1, 0, 0, 0, 0, 0⟩
  | .ldl96i f => ⟨szRegs f.sz, 1, 0, 0, 0, 0, 0⟩
  | .stl f => ⟨szRegs f.sz, 1, 0, 0, 0, 0, 0⟩
  | .stl96i f => ⟨szRegs f.sz, 1, 0, 0, 0, 0, 0⟩
  | .ldc f => ⟨szRegs f.sz, 1, 0, 0, 0, 0, 0⟩
  | .ldc96i f => ⟨szRegs f.sz, 1, 0, 0, 0, 0, 0⟩
  | .atom f => ⟨atyRegs f.ty, 2, atyRegs f.ty, 0, 0, 0, 0⟩
  | .atomc f => ⟨atyRegs f.ty, 2, atyRegs f.ty, atyRegs f.ty, 0, 0, 0⟩
  | .red f => ⟨0, 2, atyRegs f.ty, 0, 0, 0, 0⟩
  | .red96i _ => ⟨0, 2, 0, 0, 0, 0, 0⟩
  | .redc _ => ⟨0, 2, 1, 0, 0, 0, 0⟩
  | .fence _ => ⟨0, 0, 0, 0, 0, 0, 0⟩
  | .pref _ => ⟨0, 2, 0, 0, 0, 0, 0⟩
  | .pref96i _ => ⟨0, 2, 0, 0, 0, 0, 0⟩
  | .cpa _ => ⟨1, 2, 1, 0, 0, 0, 0⟩
  | .cpclose _ => ⟨1, 0, 0, 0, 0, 0, 0⟩
  | .cpwait f => ⟨0, if f.all then 0 else 1, 0, 0, 0, 0, 0⟩
  | .tcopy f => ⟨kindRegs f.kind, 2, 1, 1, 1, 1, 1⟩
  | .tcred f => ⟨kindRegs f.kind, 2, 1, 1, 1, 1, 1⟩
  | .spset f => ⟨0, 0, if f.free then 0 else 1, 0, 0, 0, 0⟩
  | .spwait _ => ⟨1, 0, 0, 0, 0, 0, 0⟩
  | .sprel _ => ⟨0, 0, 0, 0, 0, 0, 0⟩
  | .spqry _ => ⟨1, 0, 0, 0, 0, 0, 0⟩
  | .dcopy f => ⟨2, 2, if f.kv then 1 else 0, 0, 0, 0, 0⟩
  | .pgin _ => ⟨0, 2, 1, 0, 0, 0, 0⟩
  | .pgmove _ => ⟨0, 2, 1, 0, 0, 0, 0⟩
  | .crcchk _ => ⟨1, 2, 0, 0, 0, 0, 0⟩
  | .accld f => ⟨0, if f.s then 1 else 2, 0, 0, 0, 0, 0⟩
  | .accst f => ⟨0, if f.s then 1 else 2, 0, 0, 0, 0, 0⟩
  | .mma f => ⟨0, match f.src with | .reg => 64 | .scr => 1 | .acc => 0, 1, 0, 0, 0, 0⟩
  | .mma2 f => ⟨0, match f.src with | .reg => 64 | .scr => 1 | .acc => 0, 1, 0, 0, 0, 0⟩
  | .mmab f => ⟨0, match f.src with | .reg => 64 | .scr => 1 | .acc => 0, 1, 0, 0, 0, 0⟩
  | .accz _ => ⟨0, 0, 0, 0, 0, 0, 0⟩
  | .accmov f => match f.mode with | .tt => ⟨0, 0, 0, 0, 0, 0, 0⟩ | .tr => ⟨1, 1, 0, 0, 0, 0, 0⟩ | .rt => ⟨0, 1, 1, 0, 0, 0, 0⟩
  | .accscl _ => ⟨0, 0, 0, 0, 0, 0, 0⟩
  | .attn f => ⟨if f.tileQ then 0 else 1, 2, 1, 1, 0, 0, 0⟩
  | .attnfin _ => ⟨0, 0, 0, 0, 0, 0, 0⟩
  | .smmerge _ => ⟨0, 0, 0, 0, 0, 0, 0⟩
  | .select _ => ⟨1, 2, 1, 1, 1, 1, 1⟩
  | .kvapp _ => ⟨0, 2, 1, 1, 0, 0, 0⟩
  | .kvcommit _ => ⟨0, 2, 1, 0, 0, 0, 0⟩
  | .kvroll _ => ⟨0, 2, 0, 0, 0, 0, 0⟩
  | .kvclose _ => ⟨0, 2, 1, 0, 0, 0, 0⟩
  | .kvstep _ => ⟨0, 2, 1, 0, 0, 0, 0⟩
  | .demreq _ => ⟨0, 2, 1, 0, 0, 0, 0⟩
  | .kvpin _ => ⟨0, 2, 1, 0, 0, 0, 0⟩
  | .kvunpin _ => ⟨0, 2, 1, 0, 0, 0, 0⟩
  | .kvinfo f => ⟨4, if f.tmiss then 0 else 2, if f.tmiss then 0 else 1, 0, 0, 0, 0⟩
  | .cbar _ => ⟨0, 0, 0, 0, 0, 0, 0⟩
  | .gbar _ => ⟨0, 0, 0, 0, 0, 0, 0⟩
  | .evadd f => ⟨0, nameRegs f.nm, 1, 0, 0, 0, 0⟩
  | .evadd96i f => ⟨0, nameRegs f.nm, 0, 0, 0, 0, 0⟩
  | .evset f => ⟨0, nameRegs f.nm, 1, 0, 0, 0, 0⟩
  | .evset96i f => ⟨0, nameRegs f.nm, 0, 0, 0, 0, 0⟩
  | .evwait f => ⟨0, nameRegs f.nm, 0, 0, 0, 0, 0⟩
  | .evtest f => ⟨1, nameRegs f.nm, 0, 0, 0, 0, 0⟩
  | .taskput f => ⟨0, nameRegs f.nm, 2, 0, 0, 0, 0⟩
  | .taskpop _ => ⟨2, 0, 0, 0, 0, 0, 0⟩
  | .sibpost _ => ⟨1, 2, 0, 0, 0, 0, 0⟩
  | .sibpost96c _ => ⟨1, 2, 0, 1, 0, 0, 0⟩
  | .sibqry f => ⟨4, 0, if f.member then 1 else 0, 0, 0, 0, 0⟩
  | .sibcancel f => ⟨0, 0, if f.self then 0 else 1, 0, 0, 0, 0⟩
  | .launch _ => ⟨2, 2, 2, 0, 0, 0, 0⟩
  | .sleep _ => ⟨0, 0, 1, 0, 0, 0, 0⟩
  | .sleep96i _ => ⟨0, 0, 0, 0, 0, 0, 0⟩
  | .perf _ => ⟨2, 0, 0, 0, 0, 0, 0⟩
  | .svc _ => ⟨0, 0, 0, 0, 0, 0, 0⟩
  | .rte _ => ⟨0, 0, 2, 0, 0, 0, 0⟩
  | .cacheop _ => ⟨0, 2, 1, 0, 0, 0, 0⟩
  | .tlbop f => tlbUse f.kind
  | .ctxop _ => ⟨1, 2, 1, 0, 0, 0, 0⟩
  | .xformReply _ | .fenceCompletion _ | .sleepWake _ | .uaten2 _ | .longLatencyResult _ | .swapIn _ |
    .rotation _ | .homeFill _ | .homeWrite _ | .homeAtomic _ | .homeLdby _ | .homeRangeLoad _ | .writeAck _ |
    .l1LeaseExpiry _ _ | .ldeValidation _ | .validationAnswer _ | .peerPacket _ | .peerSettle _ |
    .peerTimeout _ | .eventUpdate _ | .eventWaitArrival _ | .eventReread _ | .tellerPost _ | .holdingRelease
    _ _ | .launchAdmission | .placement | .preemptByPriority | .preemptionSave _ | .forcedPreemption _ |
    .crewResumption | .watchdogFire _ _ | .faultDelivery _ | .killDone _ | .shuttleCpa _ | .shuttleTcopy _ |
    .shuttleTcred _ | .shuttleDcopy _ | .shuttlePageMove _ | .spoolDelivery _ | .copyBatchComplete _ _ |
    .poolAllocation _ | .stage _ | .stageCold _ | .sweepEnd _ | .demreqServe _ | .mbxLaneWrite |
    .mbxLaunch | .mbxWrite | .mbxRead | .mbxEvsigAdd | .mbxEvsigSet | .mbxKill |
    .mbxQueryRegister | .mbxQueryContext | .sessionOpen | .sessionClose | .sessionMeasure |
    .completionRingPoll | .spdmGetVersion | .spdmGetCapabilities | .spdmGetMeasurements | .scrWrite |
    .mbxStatus | .wdgCtl | .wdgFired | .shuPoolCtl | .shuPoolAdd | .shuPoolStatus | .prfClr |
    .secAcctab | .deviceReset _ | .powerLoopStep _ _ | .thermalCutoff | .linkRetrain | .patrolScrub |
    .modulePowerRemoved | .spdmKeyExchange | .spdmGetCertificate | .spdmChallenge | .spdmKeyUpdate
    | .spdmEndSession | .ideKm => ⟨0, 0, 0, 0, 0, 0, 0⟩

/-- The opcode's own checks on field values (R233, R236 and the instruction chapters). -/
def Instr.own : Instr → List (Option Rej)
  | .nop _ => []
  | .nop96i _ => []
  | .nop128i _ => []
  | .iadd f => [tyIn intTys f.t]
  | .iadd96i f => [tyIn intTys f.t]
  | .isub f => [tyIn intTys f.t]
  | .isub96i f => [tyIn intTys f.t]
  | .imul f => [tyIn intTys f.t]
  | .imul96i f => [tyIn intTys f.t]
  | .imulhi f => [tyIn [.u32, .s32] f.t, noM4 f.m4]
  | .imad f => [tyIn [.u32, .s32] f.t, selBelow 1 f.sel]
  | .imadw f => [tyIn [.u32, .s32] f.t, noBit f.uc, selBelow 1 f.sel]
  | .iadd64 f => [tyIn [.u64, .s64] f.t]
  | .iadd64128i f => [tyIn [.u64, .s64] f.t]
  | .isub64 f => [tyIn [.u64, .s64] f.t]
  | .lea f => [tyIn [.u32, .s32] f.t, noBit (f.c != 0), noBit f.ub, noBit f.uc, noBit f.sat, selBelow 32 f.sel]
  | .imin f => [tyIn intTys f.t]
  | .imin96i f => [tyIn intTys f.t]
  | .imax f => [tyIn intTys f.t]
  | .imax96i f => [tyIn intTys f.t]
  | .iabs f => [tyIn [.s32, .s16x2, .s8x4] f.t]
  | .isad f => [tyIn intTys f.t, noBit f.sat, selBelow 1 f.sel]
  | .iclamp f => [tyIn intTys f.t, noBit f.sat, selBelow 1 f.sel]
  | .shl f => [tyIn shTys f.t]
  | .shl96i f => [tyIn shTys f.t]
  | .shr f => [tyIn shTys f.t]
  | .shr96i f => [tyIn shTys f.t]
  | .sar f => [tyIn [.s32, .s16x2, .s8x4] f.t]
  | .sar96i f => [tyIn [.s32, .s16x2, .s8x4] f.t]
  | .rot f => [tyIn shTys f.t]
  | .rot96i f => [tyIn shTys f.t]
  | .fshf f => [tyIn [.u32] f.t, noBit f.ub, noBit f.uc, noBit f.sat, selBelow 2 f.sel]
  | .and f => [tyIn [.u32] f.t]
  | .and96i f => [tyIn [.u32] f.t]
  | .or f => [tyIn [.u32] f.t]
  | .or96i f => [tyIn [.u32] f.t]
  | .xor f => [tyIn [.u32] f.t]
  | .xor96i f => [tyIn [.u32] f.t]
  | .not f => [tyIn [.u32] f.t, noM4 f.m4]
  | .bool3 f => [tyIn [.u32] f.t, noBit f.sat]
  | .popc f => [tyIn [.u32] f.t, noM4 f.m4]
  | .clz f => [tyIn [.u32] f.t, noM4 f.m4]
  | .brev f => [tyIn [.u32] f.t, noM4 f.m4]
  | .bfe f => [tyIn [.u32, .s32] f.t, noM4 f.m4]
  | .bfe96i f => [tyIn [.u32, .s32] f.t]
  | .bfi f => [tyIn [.u32] f.t, noBit f.ub, noBit f.uc, noBit f.sat, selBelow 1 f.sel]
  | .bysel f => [tyIn [.u32] f.t, noBit f.ub, noBit f.uc, noBit f.sat, selBelow 1 f.sel]
  | .icmp _ => []
  | .icmp96i _ => []
  | .icmp64 _ => []
  | .plop _ => []
  | .isel f => [tyIn [.u32] f.t, noBit f.uc, noBit f.sat, selBelow 32 f.sel]
  | .mov f => [tyIn [.u32] f.t]
  | .movi _ => []
  | .movi64 _ => []
  | .idp4 f => [tyIn [.u8x4, .s8x4] f.t, noBit f.ub, noBit f.uc, selBelow 2 f.sel]
  | .idp2 f => [tyIn [.u16x2, .s16x2] f.t, noBit f.ub, noBit f.uc, selBelow 2 f.sel]
  | .fadd f => [tyIn [.f32] f.t]
  | .fadd96i f => [tyIn [.f32] f.t]
  | .fsub f => [tyIn [.f32] f.t]
  | .fsub96i f => [tyIn [.f32] f.t]
  | .fmul f => [tyIn [.f32] f.t]
  | .fmul96i f => [tyIn [.f32] f.t]
  | .ffma f => [tyIn [.f32] f.t, noBit f.sat, selBelow 4 f.sel]
  | .fmin f => [tyIn [.f32] f.t]
  | .fmax f => [tyIn [.f32] f.t]
  | .fcmp _ => []
  | .fcmp96i _ => []
  | .fclamp f => [tyIn [.f32] f.t, noBit f.sat, selBelow 1 f.sel]
  | .frcp f => [tyIn [.f32] f.t, noM4 f.m4]
  | .frsq f => [tyIn [.f32] f.t, noM4 f.m4]
  | .fsqrt f => [tyIn [.f32] f.t, noM4 f.m4]
  | .fexp2 f => [tyIn [.f32] f.t, noM4 f.m4]
  | .flog2 f => [tyIn [.f32] f.t, noM4 f.m4]
  | .ftanh f => [tyIn [.f32] f.t, noM4 f.m4]
  | .frnd _ => []
  | .fscale f => [tyIn [.f32] f.t, noM4 f.m4]
  | .fclass f => [tyIn [.f32] f.t, noM4 f.m4]
  | .fdot2 f => [tyIn [.bf16x2, .f16x2] f.t, noBit f.ub, noBit f.uc, noBit f.sat, selBelow 1 f.sel]
  | .padd2 f => [tyIn [.bf16x2, .f16x2] f.t]
  | .padd296i f => [tyIn [.bf16x2, .f16x2] f.t]
  | .pmul2 f => [tyIn [.bf16x2, .f16x2] f.t]
  | .pmul296i f => [tyIn [.bf16x2, .f16x2] f.t]
  | .pfma2 f => [tyIn [.bf16x2, .f16x2] f.t, selBelow 1 f.sel]
  | .pmin2 f => [tyIn [.bf16x2, .f16x2] f.t]
  | .pmax2 f => [tyIn [.bf16x2, .f16x2] f.t]
  | .cvt f => [cvtPair f.td f.ts, dithRm f.dith f.rm]
  | .cvtpk f => [tyIn pkTys f.td, tyIn [.u32, .s32, .f32] f.ts, dithRm f.dith f.rm, cvtpkTwo f]
  | .cvtupk f => [tyIn pkTys f.ts, valIs (f.j.toNat < tyElems f.ts)]
  | .lxch f => [valIs (f.lw.toNat ≤ 5)]
  | .lpoll f => [noBit f.inv]
  | .lmask _ => []
  | .lpeer f => [tyIn [.u32, .u64] f.t]
  | .lfirst _ => []
  | .ifold f => [tyIn [.u32, .s32] f.t, valIs (!f.excl && f.iw.toNat ≤ 5)]
  | .ffold f => [tyIn [.f32] f.t, valIs (!f.excl && f.iw.toNat ≤ 5 && floatFold f.op)]
  | .scan f => [tyIn [.u32, .s32] f.t, valIs (f.iw.toNat ≤ 5)]
  | .fscan f => [tyIn [.f32] f.t, valIs (f.iw.toNat ≤ 5 && floatFold f.op)]
  | .sreg f => [valIs (sregReadable f.code)]
  | .sregw f => [valIs (f.code == 0x28#8)]
  | .xform f => [xformOk f]
  | .bra f => [off4 f.off]
  | .dbra f => [off4 f.tgt, off4 f.join]
  | .join f => [noGuard f.h]
  | .brx _ => []
  | .call f => [off4 f.off]
  | .callx _ => []
  | .ret _ => []
  | .exit _ => []
  | .regang _ => []
  | .yield _ => []
  | .canpt _ => []
  | .heart _ => []
  | .trap _ => []
  | .bkpt _ => []
  | .ld _ => []
  | .ld96i _ => []
  | .st f => [valIs (storeSize f.sz)]
  | .st96i f => [valIs (storeSize f.sz)]
  | .ldby f => [noOrd f.ord]
  | .ldby96i _ => []
  | .lde f => [noOrd f.ord]
  | .lde96i _ => []
  | .clear f => [noGuard f.h]
  | .cldrop _ => []
  | .lds f => [noOrd f.ord]
  | .lds96i _ => []
  | .sts f => [noOrd f.ord, valIs (storeSize f.sz)]
  | .sts96i f => [valIs (storeSize f.sz)]
  | .ldl f => [noOrd f.ord]
  | .ldl96i _ => []
  | .stl f => [noOrd f.ord, valIs (storeSize f.sz)]
  | .stl96i f => [valIs (storeSize f.sz)]
  | .ldc f => [noOrd f.ord]
  | .ldc96i _ => []
  | .atom f => [valIs (opOn f.op f.ty)]
  | .atomc f => [valIs (f.ty == .u32 || f.ty == .u64)]
  | .red f => [valIs (opOn f.op f.ty && f.op != .exch)]
  | .red96i f => [valIs (opOn f.op f.ty && f.op != .exch && atyRegs f.ty == 1)]
  | .redc _ => []
  | .fence _ => []
  | .pref _ => []
  | .pref96i _ => []
  | .cpa _ => []
  | .cpclose _ => []
  | .cpwait f => [valIs (!f.all || f.a == 0)]
  | .tcopy f => [tileOnly f.kind f.tile f.d]
  | .tcred f => [tileOnly f.kind f.tile f.d, valIs (opOn f.op f.ty && f.op != .exch && f.kind != .glb)]
  | .spset f => [valIs (!f.free || (f.b == 0 && f.n1 == 0))]
  | .spwait _ => []
  | .sprel _ => []
  | .spqry _ => []
  | .dcopy f => [valIs (f.kv || (f.b == 0 && f.fmt == 0))]
  | .pgin f => [valIs (f.tier == 0)]
  | .pgmove f => [valIs (f.tier != 3)]
  | .crcchk _ => []
  | .accld _ => []
  | .accst _ => []
  | .mma f => [mmaOk true f]
  | .mma2 f => [mmaOk true f, valIs (f.src != .reg)]
  | .mmab f => [mmaOk true f, valIs (f.src == .scr)]
  | .accz _ => []
  | .accmov f => [accmovOk f]
  | .accscl _ => []
  | .attn f => [valIs (!f.tileQ || f.d == 0), valIs (f.tileQ || f.q == 0)]
  | .attnfin _ => []
  | .smmerge _ => []
  | .select _ => []
  | .kvapp _ => []
  | .kvcommit _ => []
  | .kvroll _ => []
  | .kvclose _ => []
  | .kvstep _ => []
  | .demreq _ => []
  | .kvpin _ => []
  | .kvunpin _ => []
  | .kvinfo f => [valIs (!f.tmiss || (f.a == 0 && f.b == 0))]
  | .cbar _ => []
  | .gbar _ => []
  | .evadd _ => []
  | .evadd96i _ => []
  | .evset _ => []
  | .evset96i _ => []
  | .evwait _ => []
  | .evtest _ => []
  | .taskput _ => []
  | .taskpop _ => []
  | .sibpost _ => []
  | .sibpost96c f => [valIs (1 ≤ f.n.toNat && f.n.toNat ≤ 256)]
  | .sibqry f => [valIs (f.member || f.b == 0)]
  | .sibcancel f => [valIs (!f.self || f.b == 0)]
  | .launch _ => []
  | .sleep _ => []
  | .sleep96i _ => []
  | .perf f => [valIs (!f.dev || f.code.toNat < 8)]
  | .svc _ => []
  | .rte _ => []
  | .cacheop _ => []
  | .tlbop f => [tlbOk f]
  | .ctxop _ => []
  | .xformReply _ | .fenceCompletion _ | .sleepWake _ | .uaten2 _ | .longLatencyResult _ | .swapIn _ |
    .rotation _ | .homeFill _ | .homeWrite _ | .homeAtomic _ | .homeLdby _ | .homeRangeLoad _ | .writeAck _ |
    .l1LeaseExpiry _ _ | .ldeValidation _ | .validationAnswer _ | .peerPacket _ | .peerSettle _ |
    .peerTimeout _ | .eventUpdate _ | .eventWaitArrival _ | .eventReread _ | .tellerPost _ | .holdingRelease
    _ _ | .launchAdmission | .placement | .preemptByPriority | .preemptionSave _ | .forcedPreemption _ |
    .crewResumption | .watchdogFire _ _ | .faultDelivery _ | .killDone _ | .shuttleCpa _ | .shuttleTcopy _ |
    .shuttleTcred _ | .shuttleDcopy _ | .shuttlePageMove _ | .spoolDelivery _ | .copyBatchComplete _ _ |
    .poolAllocation _ | .stage _ | .stageCold _ | .sweepEnd _ | .demreqServe _ | .mbxLaneWrite |
    .mbxLaunch | .mbxWrite | .mbxRead | .mbxEvsigAdd | .mbxEvsigSet | .mbxKill |
    .mbxQueryRegister | .mbxQueryContext | .sessionOpen | .sessionClose | .sessionMeasure |
    .completionRingPoll | .spdmGetVersion | .spdmGetCapabilities | .spdmGetMeasurements | .scrWrite |
    .mbxStatus | .wdgCtl | .wdgFired | .shuPoolCtl | .shuPoolAdd | .shuPoolStatus | .prfClr |
    .secAcctab | .deviceReset _ | .powerLoopStep _ _ | .thermalCutoff | .linkRetrain | .patrolScrub |
    .modulePowerRemoved | .spdmKeyExchange | .spdmGetCertificate | .spdmChallenge | .spdmKeyUpdate
    | .spdmEndSession | .ideKm => []

/-! The registers an instruction names (R61): first register and count. -/

def Fields.c (r : Fields) : Reg := bits r.w2 0 8
def Fields.e (r : Fields) : Reg := bits r.w2 8 8
def Fields.f (r : Fields) : Reg := bits r.w2 16 8
def Fields.g (r : Fields) : Reg := bits r.w2 24 8

def Instr.spans (i : Instr) : List (Nat × Nat) :=
  let r := i.fields
  let u := i.use
  let gd := match i.hdr with
    | some { guard := some g, .. } => [(g.reg.toNat, 1)]
    | _ => []
  (gd ++ [(r.d.toNat, u.d), (r.a.toNat, u.a), (r.b.toNat, u.b), (r.c.toNat, u.c), (r.e.toNat, u.e),
    (r.f.toNat, u.f), (r.g.toNat, u.g)]).filter (fun p => p.2 != 0)

/-- The number of registers a thread must own for the instruction not to fault REG_RANGE (R61). -/
def Instr.regTop (i : Instr) : Nat := i.spans.foldl (fun m p => max m (p.1 + p.2)) 0

/-- Every register number the instruction names. -/
def Instr.regs (i : Instr) : List Nat := i.spans.flatMap (fun p => (List.range p.2).map (p.1 + ·))

end Sys2Proof
end

