-- ==== Sys2Proof/Machine/Num.lean ====
section
/-! DEFINITION. Number formats and exact arithmetic (spec 03): exact values, rounding, dither, conversions,
MX blocks, chunk16 and the elementary functions. -/

namespace Sys2Proof.Machine

/-- An exact value: NaN, an infinity, or (−1)^neg · m · 2^e; m = 0 is a signed zero. -/
inductive X where
  | nan
  | inf (neg : Bool)
  | fin (neg : Bool) (m : Nat) (e : Int)
  deriving DecidableEq, Repr, Inhabited

/-- A floating format (Table 03.1): mantissa bits, bias, largest finite magnitude code, infinity code,
canonical NaN code, total width. -/
structure Fmt where
  width : Nat
  man : Nat
  bias : Int
  max : Nat
  inf : Option Nat
  nan : Option Nat
  deriving DecidableEq, Repr, Inhabited

def fF32 : Fmt := ⟨32, 23, 127, 0x7F7FFFFF, some 0x7F800000, some 0x7FC00000⟩
def fBf16 : Fmt := ⟨16, 7, 127, 0x7F7F, some 0x7F80, some 0x7FC0⟩
def fF16 : Fmt := ⟨16, 10, 15, 0x7BFF, some 0x7C00, some 0x7E00⟩
def fE4m3 : Fmt := ⟨8, 3, 7, 0x7E, none, some 0x7F⟩
def fE5m2 : Fmt := ⟨8, 2, 15, 0x7B, some 0x7C, some 0x7E⟩
def fE2m3 : Fmt := ⟨6, 3, 1, 0x1F, none, none⟩
def fE3m2 : Fmt := ⟨6, 2, 3, 0x1F, none, none⟩
def fE2m1 : Fmt := ⟨4, 1, 1, 0x7, none, none⟩

/-- Rounding: a mode of R45, or ordered dither with index and phase (R47). -/
inductive Mode where
  | rm (m : Rm)
  | dith (i p : Nat)
  deriving DecidableEq, Repr, Inhabited

def zeroX : X := .fin false 0 0
def oneX : X := .fin false 1 0
def X.neg : X → X
  | .nan => .nan
  | .inf n => .inf (!n)
  | .fin n m e => .fin (!n) m e
def X.abs : X → X
  | .nan => .nan
  | .inf _ => .inf false
  | .fin _ m e => .fin false m e
def X.isNan : X → Bool
  | .nan => true
  | _ => false
def X.isZero : X → Bool
  | .fin _ 0 _ => true
  | _ => false
def X.isNeg : X → Bool
  | .nan => false
  | .inf n | .fin n _ _ => n
def X.isFin : X → Bool
  | .fin _ _ _ => true
  | _ => false
def X.ofInt (v : Int) : X := .fin (v < 0) v.natAbs 0
/-- The value times 2^k. -/
def X.scale (k : Int) : X → X
  | .fin n m e => .fin n m (e + k)
  | x => x

/-- m · 2^e as an integer number of units 2^q, for q at most e. -/
def inUnits (n : Bool) (m : Nat) (e q : Int) : Int :=
  let v : Int := (m <<< (e - q).toNat : Nat)
  if n then -v else v

/-- The exact sum of a list of values; `rd` says that the rounding to come is RD (R45, R55). -/
def sumX (rd : Bool) (l : List X) : X :=
  let terms := l.filterMap (fun x => match x with | .fin n m e => some (n, m, e) | _ => none)
  let pInf := l.contains (.inf false)
  let nInf := l.contains (.inf true)
  if l.any X.isNan || (pInf && nInf) then .nan
  else if pInf then .inf false
  else if nInf then .inf true
  else
    let live := terms.filter (fun t => t.2.1 != 0)
    match live with
    | [] =>
      let neg := if rd then terms.any (fun t => t.1) else !terms.isEmpty && terms.all (fun t => t.1)
      .fin neg 0 0
    | t0 :: _ =>
      let q := live.foldl (fun q t => min q t.2.2) t0.2.2
      let v := live.foldl (fun s t => s + inUnits t.1 t.2.1 t.2.2 q) 0
      if v = 0 then .fin rd 0 0 else .fin (v < 0) v.natAbs q

def addX (rd : Bool) (a b : X) : X := sumX rd [a, b]
def subX (a b : X) : X := addX false a b.neg

/-- The exact product; 0 times an infinity is NaN (R55). -/
def mulX : X → X → X
  | .nan, _ | _, .nan => .nan
  | .inf a, .inf b => .inf (a != b)
  | .inf a, .fin b m _ | .fin b m _, .inf a => if m = 0 then .nan else .inf (a != b)
  | .fin a m e, .fin b n f => .fin (a != b) (m * n) (e + f)

/-- The quotient, its low bit sticky: enough bits for one rounding to any format here (R59). -/
def divX : X → X → X
  | .nan, _ | _, .nan => .nan
  | .inf _, .inf _ => .nan
  | .inf a, .fin b _ _ => .inf (a != b)
  | .fin a _ _, .inf b => .fin (a != b) 0 0
  | .fin a m e, .fin b n f =>
    if n = 0 then (if m = 0 then .nan else .inf (a != b))
    else
      let k := 80 + n.log2
      let num := m <<< k
      .fin (a != b) (2 * (num / n) + (if num % n = 0 then 0 else 1)) (e - f - k - 1)

/-- The integer square root, one bit at a time from bit k − 1 down. -/
def isqrt (n : Nat) : Nat → Nat → Nat
  | 0, r => r
  | k + 1, r => let r' := r + 2 ^ k; isqrt n k (if r' * r' ≤ n then r' else r)

/-- The square root, its low bit sticky (R59). -/
def sqrtX : X → X
  | .nan => .nan
  | .inf n => if n then .nan else .inf false
  | .fin n m e =>
    if m = 0 then .fin n 0 0
    else if n then .nan
    else
      let odd := e % 2 != 0
      let m' := (if odd then 2 * m else m) <<< 100
      let e' := (if odd then e - 1 else e) - 100
      let r := isqrt m' (m'.log2 / 2 + 1) 0
      .fin false (2 * r + (if r * r = m' then 0 else 1)) (e' / 2 - 1)

/-- 1/√x, its low bit sticky (R59). -/
def rsqrtX : X → X
  | .nan => .nan
  | .inf n => if n then .nan else .fin false 0 0
  | .fin n m e =>
    if m = 0 then .inf n
    else if n then .nan
    else
      let odd := e % 2 != 0
      let m' := if odd then 2 * m else m
      let e' := if odd then e - 1 else e
      let k := 80 + m'.log2
      let q := 2 ^ (2 * k) / m'
      let r := isqrt q (q.log2 / 2 + 1) 0
      .fin false (2 * r + (if r * r * m' = 2 ^ (2 * k) then 0 else 1)) (-(e' / 2) - k - 1)

/-- brev5 of Table 03.5. -/
def brev5 (n : Nat) : Nat :=
  (n % 2) * 16 + (n / 2 % 2) * 8 + (n / 4 % 2) * 4 + (n / 8 % 2) * 2 + n / 16 % 2

/-- Rounds m units of 2^−s to whole units under a mode, for a value of the given sign (R45, R47). -/
def roundUnits (mode : Mode) (neg : Bool) (m s : Nat) : Nat :=
  let q := m / 2 ^ s
  let r := m % 2 ^ s
  if r = 0 then q
  else match mode with
    | .rm .rne => if 2 * r > 2 ^ s || (2 * r = 2 ^ s && q % 2 = 1) then q + 1 else q
    | .rm .rz => q
    | .rm .ru => if neg then q else q + 1
    | .rm .rd => if neg then q + 1 else q
    | .dith i p => if r * 64 ≥ (2 * brev5 ((i + p) % 32) + 1) * 2 ^ s then q + 1 else q

/-- The magnitude code of m · 2^e, m > 0, on the grid of R45, unbounded above. -/
def magCode (f : Fmt) (mode : Mode) (neg : Bool) (m : Nat) (e : Int) : Nat :=
  let top : Int := m.log2 + e
  let emin : Int := 1 - f.bias
  let q := max top emin - f.man
  let units := if q ≤ e then m <<< (e - q).toNat else roundUnits mode neg m (q - e).toNat
  -- codes count units of the subnormal spacing in the lowest binade, and double their spacing above it
  units + ((q - (emin - f.man)).toNat <<< f.man)

/-- enc(F, x, mode) with the saturate bit (R45 to R47, Table 03.2). A format without NaN takes NaN to 0:
the block rule keeps it from getting here (R49). -/
def enc (f : Fmt) (mode : Mode) (sat : Bool) (x : X) : Nat :=
  let sign (n : Bool) (c : Nat) := (if n then 2 ^ (f.width - 1) else 0) + c
  let dith := match mode with | .dith _ _ => true | _ => false
  let ovf (n : Bool) (isInf : Bool) : Nat :=
    if sat || dith then sign n f.max
    else match f.inf, f.nan with
      | some i, _ =>
        if isInf then sign n i
        else match mode with
          | .rm .rne => sign n i
          | .rm .rz => sign n f.max
          | .rm .ru => if n then sign n f.max else sign n i
          | .rm .rd => if n then sign n i else sign n f.max
          | .dith _ _ => sign n f.max
      | none, some c => c
      | none, none => sign n f.max
  match x with
  | .nan => f.nan.getD 0
  | .inf n => ovf n true
  | .fin n m e =>
    if m = 0 then sign n 0
    else
      let c := magCode f mode n m e
      if c > f.max then ovf n false else sign n c

/-- The exact value of a code (R41, R50). -/
def dec (f : Fmt) (c : Nat) : X :=
  let neg := (c / 2 ^ (f.width - 1)) % 2 = 1
  let mag := c % 2 ^ (f.width - 1)
  if some mag = f.inf then .inf neg
  else if mag > f.max then .nan
  else
    let ef := mag / 2 ^ f.man
    let fr := mag % 2 ^ f.man
    if ef = 0 then .fin neg fr (1 - f.bias - f.man) else .fin neg (2 ^ f.man + fr) (ef - f.bias - f.man)

/-! FP32 and BF16 as words. -/

def f32 (w : Word) : X := dec fF32 w.toNat
/-- Rounding to FP32 under a mode, sat = 0. -/
def toF32 (m : Rm) (x : X) : Word := BitVec.ofNat 32 (enc fF32 (.rm m) false x)
/-- rne of Table 03.5, as a word and as a value. -/
def rne (x : X) : Word := toF32 .rne x
def rneX (x : X) : X := f32 (rne x)
/-- bf16 of Table 03.5, as a value. -/
def bf16X (x : X) : X := dec fBf16 (enc fBf16 (.rm .rne) false x)

def X.cmp (a b : X) : Option Ordering :=
  match a, b with
  | .nan, _ | _, .nan => none
  | .inf x, .inf y => some (if x = y then .eq else if x then .lt else .gt)
  | .inf x, .fin _ _ _ => some (if x then .lt else .gt)
  | .fin _ _ _, .inf y => some (if y then .gt else .lt)
  | .fin n m e, .fin o k f =>
    let q := min e f
    let u := inUnits n m e q
    let v := inUnits o k f q
    some (compare u v)
def X.lt (a b : X) : Bool := a.cmp b == some .lt
def X.eqv (a b : X) : Bool := a.cmp b == some .eq

/-- −0 orders below +0 (R263). -/
def X.ltz (a b : X) : Bool := a.lt b || (a.isZero && b.isZero && a.isNeg && !b.isNeg)
def fminX (a b : X) : X := if a.isNan then b else if b.isNan then a else if b.ltz a then b else a
def fmaxX (a b : X) : X := if a.isNan then b else if b.isNan then a else if a.ltz b then b else a

/-- chunk16 of R55. -/
def chunk16 : Nat → X → List X → X
  | 0, acc, _ => acc
  | k + 1, acc, l => if l.isEmpty then acc else chunk16 k (rneX (sumX false (acc :: l.take 16))) (l.drop 16)
def chunkSum (acc : X) (l : List X) : X := chunk16 (l.length / 16 + 1) acc l

/-! Elementary functions (R56 to R58). -/

def coefC : List Word := [0x3F800000, 0x3F317218, 0x3E75FDF0, 0x3D635847, 0x3C1D955B, 0x3AAEC3FF, 0x3921848A]
def coefL : List Word := [0x4038AA3B, 0x3F76384F, 0x3F13BB63, 0x3ED30BB1]
def coefT : List Word := [0x3F800000, 0xBEAAAAAB, 0x3E088889, 0xBD5D0DD1, 0x3CB327A4]

/-- Horner from the last coefficient down, one rounding a step. -/
def horner (l : List Word) (x : X) : X :=
  match l.reverse with
  | [] => zeroX
  | c :: cs => cs.foldl (fun q k => rneX (addX false (mulX q x) (f32 k))) (f32 c)

/-- floor of a finite value. -/
def floorX (n : Bool) (m : Nat) (e : Int) : Int :=
  if e ≥ 0 then inUnits n m e 0 else
    let d : Int := (2 ^ (-e).toNat : Nat)
    (inUnits n m 0 0).fdiv d

def fexp2X (x : X) : X :=
  match x with
  | .nan => .nan
  | .inf n => if n then zeroX else .inf false
  | .fin s m e =>
    let n := floorX s m e
    if n ≥ 128 then .inf false
    else if n < -150 then zeroX
    else
      let f := addX false x (X.ofInt (-n))
      rneX ((horner coefC f).scale n)

def flog2X (x : X) : X :=
  match x with
  | .nan => .nan
  | .inf n => if n then .nan else .inf false
  | .fin s m e =>
    if m = 0 then .inf true
    else if s then .nan
    else
      let k := m.log2
      -- x = m · 2^−k · 2^(e + k), 1 ≤ m · 2^−k < 2
      let big := (X.fin false 0x3504F3 (-23)).lt (.fin false (m - 2 ^ k) (-k)) -- fraction above that of 0x3FB504F3
      let mm : X := .fin false m (-k - (if big then 1 else 0))
      let ee : Int := e + k + (if big then 1 else 0)
      let u := rneX (divX (addX false mm (X.ofInt (-1))) (addX false mm oneX))
      let w := rneX (mulX u u)
      rneX (addX false (X.ofInt ee) (rneX (mulX (horner coefL w) u)))

def ftanhX (x : X) : X :=
  match x with
  | .nan => .nan
  | _ =>
    let a := x.abs
    let y : X :=
      if !a.lt (X.ofInt 9) then oneX
      else if a.lt (.fin false 1 (-2)) then
        let w := rneX (mulX a a)
        rneX (mulX (horner coefT w) a)
      else
        let e := fexp2X (rneX (mulX a (f32 0x4038AA3B)))
        rneX (divX (addX false e (X.ofInt (-1))) (addX false e oneX))
    if x.isNeg then y.abs.neg else y.abs

/-- Rounds to an integral value under a mode (R266), keeping the sign of a zero. -/
def roundIntX (mode : Mode) (x : X) : X :=
  match x with
  | .fin n m e => if e ≥ 0 then x else .fin n (roundUnits mode n m (-e).toNat) 0
  | _ => x

/-- Clamps an integer to a range. -/
def clampI (lo hi v : Int) : Int := max lo (min hi v)

/-- A floating value to an integer of a range (Table 03.4): round, then always clamp; NaN gives 0. -/
def toInt (mode : Mode) (lo hi : Int) (x : X) : Int :=
  match x with
  | .nan => 0
  | .inf n => if n then lo else hi
  | .fin _ _ _ =>
    match roundIntX mode x with
    | .fin n m e => clampI lo hi (inUnits n m e 0)
    | _ => 0

/-! The element types of registers (R43, Table 12.4). -/

inductive EKind where
  | uint | sint
  | float (f : Fmt)
  deriving DecidableEq, Repr

def tyKind : Ty → EKind
  | .u32 | .u16x2 | .u8x4 | .u64 => .uint
  | .s32 | .s16x2 | .s8x4 | .s64 => .sint
  | .f32 => .float fF32
  | .bf16x2 => .float fBf16
  | .f16x2 => .float fF16
  | .e4m3x4 => .float fE4m3
  | .e5m2x4 => .float fE5m2
/-- Width of an element in bits. -/
def tyWidth : Ty → Nat
  | .u32 | .s32 | .f32 => 32
  | .u64 | .s64 => 64
  | .bf16x2 | .f16x2 | .u16x2 | .s16x2 => 16
  | .e4m3x4 | .e5m2x4 | .u8x4 | .s8x4 => 8
def tySigned (t : Ty) : Bool := tyKind t == .sint

/-- An element as an integer, by signedness. -/
def intOf (sgn : Bool) (w c : Nat) : Int := if sgn && c ≥ 2 ^ (w - 1) then (c : Int) - (2 ^ w : Nat) else c
/-- The low w bits of an integer. -/
def lowBits (w : Nat) (v : Int) : Nat := (v % (2 ^ w : Nat)).toNat
def minI (sgn : Bool) (w : Nat) : Int := if sgn then -(2 ^ (w - 1) : Nat) else 0
def maxI (sgn : Bool) (w : Nat) : Int := if sgn then (2 ^ (w - 1) : Nat) - 1 else (2 ^ w : Nat) - 1
/-- R253: reduction of an exact integer to an element. -/
def reduce (sat sgn : Bool) (w : Nat) (v : Int) : Nat :=
  lowBits w (if sat then clampI (minI sgn w) (maxI sgn w) v else v)

/-- One element converted from one type to another (R52, Table 03.4). -/
def convElem (td ts : Ty) (mode : Mode) (sat : Bool) (c : Nat) : Nat :=
  if td = ts then c else
  match tyKind td, tyKind ts with
  | .float fd, .float fs => enc fd mode sat (dec fs c)
  | .float fd, k => enc fd mode sat (X.ofInt (intOf (k == .sint) (tyWidth ts) c))
  | k, .float fs =>
    let sgn := k == .sint
    lowBits (tyWidth td) (toInt mode (minI sgn (tyWidth td)) (maxI sgn (tyWidth td)) (dec fs c))
  | kd, ks => reduce sat (kd == .sint) (tyWidth td) (intOf (ks == .sint) (tyWidth ts) c)

/-! Matrix element formats, MX blocks (R43, R48 to R50). -/

def elemFmt : Elem → Fmt
  | .bf16 => fBf16
  | .f16 => fF16
  | .e4m3 => fE4m3
  | .e5m2 => fE5m2
  | .e2m3 => fE2m3
  | .e3m2 => fE3m2
  | .e2m1 => fE2m1
  | .s8 => ⟨8, 0, 0, 0, none, none⟩
def elemBits : Elem → Nat
  | .bf16 | .f16 => 16
  | .e4m3 | .e5m2 | .s8 => 8
  | .e2m3 | .e3m2 => 6
  | .e2m1 => 4
def isMx (e : Elem) : Bool := elemClass e == 3

/-- dec(fmt, c, sb) of R50. -/
def decElem (e : Elem) (c : Nat) (sb : Option Nat) : X :=
  match e with
  | .s8 => X.ofInt (intOf true 8 c)
  | _ =>
    let x := dec (elemFmt e) (c % 2 ^ elemBits e)
    match sb with
    | none => x
    | some s => if s = 0xFF then .nan else x.scale ((s : Int) - 127)

/-- floor(log2 |x|) of a finite nonzero value. -/
def log2X : X → Int
  | .fin _ m e => m.log2 + e
  | _ => 0

/-- The largest exponent of an MX element format (Table 03.1). -/
def mxEmax : Elem → Int
  | .e3m2 => 4
  | _ => 2

/-- Encodes an MX block (R48, R49): scale byte and element codes. `mode i` rounds element i. -/
def mxBlock (e : Elem) (mode : Nat → Mode) (xs : List X) : Nat × List Nat :=
  if xs.any (fun x => !x.isFin) then (0xFF, xs.map (fun _ => 0))
  else
    match xs.filter (fun x => !x.isZero) with
    | [] => (0, xs.map (fun _ => 0))
    | y :: ys =>
      let top := ys.foldl (fun m x => max m (log2X x)) (log2X y)
      let sc := max (-127) (top - mxEmax e)
      ((sc + 127).toNat, xs.mapIdx (fun i x => enc (elemFmt e) (mode i) true (x.scale (-sc))))

/-- One byte of the CRC-64/XZ inner loop (R101). -/
def crcBit (c : BitVec 64) : BitVec 64 :=
  if c.getLsbD 0 then (c >>> 1) ^^^ 0xC96C5795D7870F42#64 else c >>> 1
def crcByte (c : BitVec 64) (b : Byte) : BitVec 64 :=
  (List.range 8).foldl (fun c _ => crcBit c) (c ^^^ b.setWidth 64)
/-- crc64 of R101. -/
def crc64 (l : List Byte) : BitVec 64 := ~~~(l.foldl crcByte (~~~0#64))

end Sys2Proof.Machine
end

