-- ==== Sys2Proof/Config.lean ====
section
/-! DEFINITION. What one implementation fixes and the spec leaves open: constants without a body. A
statement about the model holds for every value of them. Each is named in notes/assumptions. -/

namespace Sys2Proof.Config

/-- KMAC256 (R101, R389): key, data, customisation string, as a number of which a caller takes the bits it needs; defined by
a standard outside the spec (log 10). -/
opaque kmac256 : List Byte → List Byte → String → Nat
/-- SHAKE256 with 64-byte output (R388, R391), defined outside the spec (log 10). -/
opaque shake256 : List Byte → BitVec 512
/-- AES-256-GCM (R390): key, IV, additional data, text; the answer is the other text and the tag
(log 10). -/
opaque gcmSeal : BitVec 256 → BitVec 128 → List Byte → List Byte → List Byte × BitVec 128
opaque gcmOpen : BitVec 256 → BitVec 128 → List Byte → List Byte → List Byte
/-- AES-256-XTS of a 4 KiB block (R99): key of 512 bits, tweak, plaintext (log 10). -/
opaque xtsEncrypt : BitVec 512 → BitVec 128 → List Byte → List Byte
/-- The device's internal random-number generator (R389): its n-th draw, an XTS key in the low 512 bits and a tag key above them
(logs 9, 10). -/
opaque randomKey : Nat → BitVec 1024
/-- The export master secret of the SPDM session with this id (R389; log 10). -/
opaque spdmSecret : BitVec 32 → BitVec 512
/-- The payload of an SPDM or IDE_KM answer to a request: message code and request bytes (R391; the
layouts belong to SPDM 1.3; log 10). -/
opaque spdmAnswer : Nat → List Byte → List Byte
/-- The key of a layer of the device's identity: the key of the layer before it, keyed by the measurement of this one (R391;
log 10). -/
opaque layerKey : BitVec 512 → BitVec 512 → BitVec 512
/-- The Falcon-1024 signature of a message by a key, and the public key of a key (R391, R393; log 10). -/
opaque falconSign : BitVec 512 → List Byte → List Byte
opaque falconPublic : BitVec 512 → List Byte
/-- The Slofold Link port that serves a peer device (the spec gives no route; log 11). -/
opaque peerPort : Nat → Nat
/-- The first clock count of a core's %clock (R69 gives none; log 6). -/
opaque clockBase : Nat → BitVec 32

end Sys2Proof.Config
end

