-- ==== Sys2Proof/Machine/State.lean ====
section
/-! DEFINITION. The state of the device as plain data: every piece of state the spec names, the model's own
records of what is in flight, and the state after reset. -/

namespace Sys2Proof.Machine

/-- A sparse array: keys strictly rising, no entry equal to 0, an unlisted key reads 0. Memory, registers,
scratchpad and tiles are held so. -/
abbrev Sparse (n : Nat) := List (Nat × BitVec n)

/-- The fault codes of Table 11.1. -/
inductive Code where
  | illegalInstruction | fetchBoundary | privilege | misaligned | pageFault | accessDenied | dataCrc
  | uncorrectable | scratchRange | accumRange | scaleLayout | kvFormat | divStackOverflow | regangCycle
  | pairState | spoolState | eventArea | groupSlot | sibState | watchdog | trap | bkpt | kill
  | layoutRecord | regRange | addrRange
  deriving DecidableEq, Repr, Inhabited

/-- The kinds of Table 11.1: precise, held, engine, launch. -/
inductive FKindOf where
  | p | h | e | l
  deriving DecidableEq, Repr, Inhabited

/-- The access field of a report (Table 11.2). -/
inductive Acc where
  | read | write | atomic | fetch | engine | none
  deriving DecidableEq, Repr, Inhabited

/-- A fault report (Table 11.2) before it has its sequence number. -/
structure Report where
  id : Nat
  code : Code
  kind : FKindOf
  ctx : Nat
  level : Nat := 0xFF
  core : Nat := 0xFF
  /-- the die whose fault queue takes it (R127) -/
  die : Nat := 0
  slot : Nat := 0xFF
  slices : Nat := 0
  access : Acc := .none
  lanes : Nat := 0
  launch : Nat := 0
  crew : Nat := 0xFFFFFFFF
  pc : Nat := 0
  addr : Nat := 0
  time : Nat := 0
  /-- REGANG_CYCLE: the masks and pcs of the stopped slices, by slice -/
  masks : List Nat := []
  spcs : List Nat := []
  /-- the warp that is held on it -/
  warp : Option WarpKey := none
  /-- the Shuttle request that waits for its replay -/
  req : Option Nat := none
  /-- it has entered its die's fault queue (R142, R213) -/
  entered : Bool := false
  deriving DecidableEq, Repr, Inhabited

/-! Warps (02, 04). -/

/-- An entry of a divergence stack (R28). -/
structure Entry where (pc : DWord) (mask : BitVec 4) deriving DecidableEq, Repr, Inhabited

/-- What an instruction that cannot issue yet, or that has not retired, waits for (R135); it is issued again once that is
there. -/
inductive Block where
  /-- pending results; whether the lookahead lasts, so that the warp stalls in the loom (R137) -/
  | results (ids : List Nat) (stall : Bool)
  /-- the earlier loads of the warp, in front of what an acquire orders (R116) -/
  | loads
  /-- the old core's acknowledgement of its flush (R223) -/
  | flush
  /-- the answers to the warp's validations (R290) -/
  | entries
  /-- the warp's own accesses to some lines, or its writes to a register of the window (R36, R109, R112) -/
  | lines (l : List Nat)
  | window (off : Nat)
  /-- the warp's own writes, at their homes (R111) -/
  | unapplied
  /-- the slot at the front of a spool; the requests that name a spool (R302, R303) -/
  | spool (n : Nat)
  | spoolReqs (n : Nat)
  /-- the batches that a CPWAIT names; the oldest closed batch (R299, R300) -/
  | batches (all : Bool) (n : BitVec 16)
  | oldest (n : BitVec 16)
  /-- room in the transform pipe's queue, or in an engine's (R138, R139) -/
  | pipe
  | engine (e n : Nat)
  /-- an engine's turn, behind the requests that its 16 places in flight hold (Table 07.1) -/
  | turn (e : Nat)
  /-- the device's earlier accesses to the lines of a peer's page (R109) -/
  | peer (pa : Nat)
  /-- frames of a pool (R140) -/
  | frames
  /-- a change of some bytes of memory: a page's readers or its retained frame (R150, R163) -/
  | bytes (pa n v : Nat)
  /-- an update of the warp to an event; a post of a member; accesses of a context, or of any (R346, R352, R360) -/
  | event (name : Nat)
  | post (teller member : Nat)
  | accesses (all : Bool) (ctx : Nat)
  /-- the Clipper, for the KVSTEP that arrived first; room in its queue of a die (R157, R160) -/
  | clipper
  | demands (die : Nat)
  deriving DecidableEq, Repr, Inhabited

/-- What a slice waits in (R135, R217), with the length of its instruction where it goes on after it; `whole` is set where
the instruction keeps its whole warp out of issue until it retires (R341, R314). -/
inductive Wait where
  | none
  /-- the instruction at pc is issued again -/
  | retry (b : Block) (whole : Bool)
  | cbar (n len : Nat)
  | gbar (g len : Nat)
  /-- at the event's home, or on the way there -/
  | event (eq : Bool) (name len : Nat)
  | sleep (deadline len : Nat)
  /-- stopped at a REGANG of a length, with its mask (R33) -/
  | regang (mask : BitVec 8) (len : Nat)
  /-- a release in front of an instruction, which is then issued again -/
  | release (sc : Scope) (whole : Bool)
  /-- an ST.REL of the system control window, until its block has applied the write (R73) -/
  | applied (len : Nat)
  /-- an access to a peer that does not answer, until it times out (R392): the access of the report -/
  | peer (a : Acc) (pa len : Nat) (lanes : Word) (whole : Bool)
  /-- a CTXOP that retires later: its context and launch, its D, its lanes, the crews still to stop (R361) -/
  | ctxop (kind : CtxKind) (ctx launch len d : Nat) (lanes : Word) (crews : List CrewKey)
  deriving DecidableEq, Repr, Inhabited

/-- A slice (R17). The stack lists its top first; `gang` is the lowest slice of its gang. -/
structure Slice where
  pc : DWord := 0
  mask : BitVec 4 := 0xF
  stack : List Entry := []
  gang : Nat := 0
  wait : Wait := .none
  exited : Bool := false
  /-- the release in front of the instruction at pc has completed (R116, R346) -/
  relDone : Bool := false
  /-- the instruction at pc has read its operands, which it does once (R67) -/
  tried : Bool := false
  /-- stopped for a pre-emption, with the live mask it stopped at (R217, R219) -/
  stop : Option DWord := none
  /-- sequence numbers an EVWAIT recorded before a pre-emption (R217) -/
  evSeq : Option (Nat × Nat) := none
  deriving DecidableEq, Repr, Inhabited

/-- What the writes of a request leave for the wait that acquires them (R124): the greatest write completion time,
the places written, and the settle messages of writes to peers (R117). -/
structure Landed where
  wct : Nat := 0
  puts : List (Nat × Nat) := []
  settles : List Nat := []
  deriving DecidableEq, Repr, Inhabited

/-- A fault that a request left in a slot or batch (R214): its code and the address of its report. -/
structure Failure where (code : Code) (addr : Nat) deriving DecidableEq, Repr, Inhabited

/-- A batch of per-thread copies (R199, R298 to R300). A complete batch without a failure is forgotten. -/
structure Batch where
  n : BitVec 16
  closed : Bool
  left : Nat
  failed : Option Failure := none
  /-- complete, and failed -/
  done : Bool := false
  /-- the warp is held at a CPWAIT that met the failure -/
  met : Bool := false
  deriving DecidableEq, Repr, Inhabited

/-- An ATTN capture not yet released (R150): KSR, page, KVPTE address, head_dim, state tile, and that its crew runs at
privilege 0 (R401). -/
structure Capture where (ksr page pte dim tile : Nat) (user : Bool) deriving DecidableEq, Repr, Inhabited

/-- A warp held at a fault (R210): the report, its gang's slices, the instruction's length. -/
structure Held where (report : Nat) (code : Code) (kind : FKindOf) (slices : BitVec 8) (len : Nat)
  deriving DecidableEq, Repr, Inhabited

/-- Where a resident warp stands in its quarter (R135). -/
inductive Place where
  /-- in the loom set since a stamp -/
  | loom (since : Nat)
  | creel
  deriving DecidableEq, Repr, Inhabited

/-- The reuse latch of one operand position (R68): register and its value in each lane. -/
structure Latch where (reg : Nat) (vals : List Word) deriving DecidableEq, Repr, Inhabited

structure Warp where
  /-- v0 upward: key 32 · register + lane (R61) -/
  regs : Sparse 32 := []
  slices : List Slice := List.replicate 8 {}
  whz : Nat := 0
  gtimeCap : Option DWord := none
  whzCap : Option Nat := none
  nextBatch : BitVec 16 := 0
  lastBatch : BitVec 16 := 0xFFFF
  batches : List Batch := []
  caps : List Capture := []
  pending : Bool := false
  cancelled : Bool := false
  held : Option Held := none
  place : Place := .creel
  /-- ready since a device time, where it is ready (R137) -/
  readyAt : Option Nat := none
  /-- the gang that issued last (R136) -/
  lastGang : Nat := 8
  /-- age stamp: placement time, global crew order, warp index (R135) -/
  age : Nat × Nat × Nat := (0, 0, 0)
  passedIssue : Nat := 0
  passedSwap : Nat := 0
  slot : Nat := 0
  latch : List (Option Latch) := [none, none, none]
  /-- an acquire is held until another core, the old one, has acknowledged its flush (R223) -/
  flushWait : Bool := false
  /-- settle messages of peer writes that it has acquired from its slots (R117, R124) -/
  settles : List Nat := []
  /-- an LD.ACQ's acquire waits for the warp's loads (R116) -/
  acq : Bool := false
  deriving DecidableEq, Repr, Inhabited

/-! Crews and launches (02, 07). -/

/-- A barrier: its generation and the warps that have arrived (R344). -/
structure Barrier where (gen : Nat) (arrived : List WarpKey) deriving DecidableEq, Repr, Inhabited

/-- A spool (R200, R301). -/
structure Spool where
  ns : Nat
  rp : Nat := 0
  expect : List Nat
  arrived : List Nat
  failed : List (Option Failure)
  got : List Landed
  deriving DecidableEq, Repr, Inhabited

/-- Where a crew is. -/
inductive Seat where
  | on (core : Nat)
  /-- stopped in place on a core (R222) -/
  | stopped (core : Nat)
  /-- held in the save window, at an offset, with a size (R222) -/
  | saved (off size : Nat)
  deriving DecidableEq, Repr, Inhabited

/-- A requested pre-emption (R220): when, its forced limit in ticks, whether it is forced now, whether the crew
joins the resume list, and whether R133 alone asked for it. -/
structure Preempt where (at_ limit : Nat) (force resume byPrio : Bool) deriving DecidableEq, Repr, Inhabited

structure Crew where
  seat : Seat
  /-- runs at privilege 1 (R206) -/
  priv : Bool := false
  scratch : Sparse 8 := []
  /-- key 32768 · tile + 256 · row + column (R88) -/
  tiles : Sparse 32 := []
  crewHz : Nat := 0
  bars : List Barrier := List.replicate 8 ⟨0, []⟩
  spools : List (Nat × Spool) := []
  preempt : Option Preempt := none
  /-- the core that it last left (R223) -/
  left : Option Nat := none
  /-- device time of its placement, and the crews placed on the core before it since it was last empty, mod 4 -/
  stamp : Nat := 0
  qoff : Nat := 0
  deriving DecidableEq, Repr, Inhabited

/-- The launch packet (Table 07.2). -/
structure Packet where
  entry : DWord := 0
  kernarg : DWord := 0
  crewCount : Nat := 0
  warps : Nat := 0
  vregsDiv8 : Nat := 0
  carve : Nat := 0
  tiles : Nat := 0
  groupTable : DWord := 0
  groupCount : Nat := 0
  priority : Nat := 0
  flags : BitVec 8 := 0
  waitEvent : Nat := 0
  doneEvent : Nat := 0
  heartbeatUs : Nat := 0
  dieMask : Word := 0
  cancelEntry : DWord := 0
  localBytes : Nat := 0
  rsv : Word := 0
  deriving DecidableEq, Repr, Inhabited

/-- Where a launch's status goes (R129, R354, R386). -/
inductive StatusTo where
  | mailbox (lane tag : Nat)
  /-- a u32 store to a virtual address of the context; 0 for none -/
  | store (va : Nat)
  | nowhere
  deriving DecidableEq, Repr, Inhabited

/-- One group of a launch (R168, R169): kind, members, quorum, hold list, accounting address, and its
group barrier or Teller entry. -/
structure Group where
  sibling : Bool
  members : List Nat
  quorum : Nat := 0
  /-- hold list read at admission: KVPTE address, member index -/
  holds : List (Nat × Nat) := []
  acct : DWord := 0
  bar : Barrier := ⟨0, []⟩
  teller : Option Nat := none
  deriving DecidableEq, Repr, Inhabited

/-- Stages of a launch in its queue (R131). -/
inductive Stage where
  | queued
  /-- it has passed every check, its tables being read, and waits for Teller entries or local memory -/
  | checked
  | admitted
  deriving DecidableEq, Repr, Inhabited

structure Launch where
  packet : Packet
  stage : Stage := .queued
  stamp : Nat := 0
  /-- 2 · priority from the mailbox, one more from a device-side LAUNCH (R130) -/
  queue : Nat := 0
  status : StatusTo := .nowhere
  groups : List Group := []
  /-- crews below this index have been placed, and these beyond it (R20) -/
  placed : Nat := 0
  extra : List Nat := []
  resume : List Nat := []
  retired : Nat := 0
  /-- the status it ends with -/
  code : Nat := 0
  timer : Nat := 0
  limit : Nat := 0
  /-- the watchdog fires: the device time at which the timer had reached its limit (R201) -/
  due : Option Nat := none
  fired : Bool := false
  localOff : Nat := 0
  deriving DecidableEq, Repr, Inhabited

/-! Contexts (Table 17.7, R361). -/

structure Desc where
  root : Nat := 0
  eventArea : Nat := 0
  faultRing : Nat := 0
  faultEvent : Nat := 0
  localBase : Nat := 0
  localSize : Nat := 0
  saveSize : Nat := 0
  saveBase : Nat := 0
  taskArea : Nat := 0
  deriving DecidableEq, Repr, Inhabited

/-- Who waits for a kill: mailbox lane and tag; a warp that issued CTXOP.KILL waits by itself (R386). -/
structure Kill where (code : Option Code) (lanes : List (Nat × Nat))
  deriving DecidableEq, Repr, Inhabited

/-- A running sweep of the Clipper (R75, R156 to R158): the KSRs, where it is, the sampled registers,
the value M of each page, the privilege of the KVSTEP and the crew that issued it. -/
structure Sweep where
  list : List Nat
  page : Nat := 0
  decay : Nat
  thBf16 : Nat
  thE4m3 : Nat
  thE2m3 : Nat
  cold : Nat
  /-- KSR address, page, M -/
  ms : List (Nat × Nat × Nat) := []
  user : Bool
  launch : Nat
  crew : Nat
  deriving DecidableEq, Repr, Inhabited

/-- A ready-task queue: where it begins in its area, its length, and the events whose ready tasks wait for room, in the
order they became ready (R127). -/
structure TaskQ where (head count : Nat) (late : List Nat) deriving DecidableEq, Repr, Inhabited

/-- A KVSTEP that waits for the Clipper: its warp and the list it read (R157, R338). -/
structure StepReq where (warp : WarpKey) (list : List Nat) deriving DecidableEq, Repr, Inhabited

structure Ctx where
  desc : Desc
  lease : Nat
  kvstep : Word := 0
  nextLaunch : Word := 0
  nextSeq : Nat := 0
  /-- keys drawn from the session with this id, or from the device's generator with this draw (R389) -/
  session : Option (BitVec 32) := none
  draw : Nat := 0
  sealed_ : Bool := false
  tierMiss : List (Nat × Nat) := []
  /-- the 16 ready-task queues, held in the task area -/
  tasks : List TaskQ := List.replicate 16 ⟨0, 0, []⟩
  counts : List (Nat × Nat) := []
  /-- the sweep list of the latest KVSTEP, and that it was issued at privilege 0 -/
  sweepList : List Nat := []
  sweepUser : Bool := false
  stepped : Bool := false
  sweep : Option Sweep := none
  /-- KVSTEPs that wait, in the order they arrived -/
  steps : List StepReq := []
  kill : Option Kill := none
  /-- reports delivered: report, sequence number, for RTE and TLBOP.RESOLVE (R212) -/
  delivered : List (Nat × Report) := []
  deriving DecidableEq, Repr, Inhabited

/-! Memory side (05, 06). -/

/-- What a home records of a line it tracks (R85, R185). -/
structure LineRec where (version expiry : Nat) deriving DecidableEq, Repr, Inhabited

/-- A partial of a commutative-range element (R121), with the context that made it. -/
structure Partial where (ctx : Nat) (v : BitVec 64) deriving DecidableEq, Repr, Inhabited

/-- An L1 line (R84): its 64 bytes as one number, expiry and captured version. A line that a partial pins is held in
`partials`: no load reads its bytes (R122). -/
structure L1Line where
  core : Nat
  ctx : Nat
  line : Nat
  data : BitVec 512
  expiry : Nat
  version : Nat
  /-- crews that it may be older for than what they have acquired or stored: to them it is a Stale line that LDE alone reads
  (R111, R112; log 87) -/
  behind : List CrewKey := []
  deriving DecidableEq, Repr, Inhabited

/-- A cached translation entry of a core or die TLB (R194): the level's index part of the address. -/
structure TlbEntry where
  /-- core 0 to 127, or 128 + die -/
  holder : Nat
  ctx : Nat
  level : Nat
  /-- virtual address above the level's index, the index included -/
  tag : Nat
  word : DWord
  deriving DecidableEq, Repr, Inhabited

/-- A block of the instruction cache (R231, R237): its virtual and physical number, its 32 bytes, whether its page was X2 at the
fill, and that the fill took a translation which the table held no longer (R238). -/
structure IBlock where
  core : Nat
  ctx : Nat
  block : Nat
  pa : Nat
  data : BitVec 256
  x2 : Bool
  late : Bool
  deriving DecidableEq, Repr, Inhabited

/-- A destination of a load: the pending result it belongs to, lane, first register, size in bytes, sign. -/
structure Part where (pend lane reg size : Nat) (sgn : Bool) deriving DecidableEq, Repr, Inhabited

/-- A word of a core's arrays (R93): a lane of a register, by its key in Warp.regs; an 8-byte word of a scratchpad
allotment; a tile word, by its key in Crew.tiles; a line of L1. -/
inductive Spot where
  | reg (w : WarpKey) (key : Nat)
  | scratch (k : CrewKey) (dword : Nat)
  | tile (k : CrewKey) (key : Nat)
  | l1 (core line : Nat)
  deriving DecidableEq, Repr, Inhabited

/-- How a peer takes this device's packets where it does not execute them (R196, R392; log 73). -/
inductive PeerSt where
  | silent | refusing
  deriving DecidableEq, Repr, Inhabited

/-- Which memory an access reaches (R80, R91, R121). -/
inductive Space where
  | device
  | host
  | peer (dev : Nat)
  /-- a commutative range with scale k -/
  | range (k : Nat)
  | window
  deriving DecidableEq, Repr, Inhabited

/-- What is on its way to a home, a unit, or back (R109, R114, R172, R177, R186). -/
inductive MsgKind where
  | fill (line len : Nat) (parts : List (Part × Nat))
  | write (pa : Nat) (data : List Byte) (sp : Space)
  | atom (pa : Nat) (ty : ATy) (op : AOp) (b : DWord) (dst : Option Part) (sp : Space)
  | cas (pa : Nat) (ty : ATy) (b c : DWord) (dst : Part) (sp : Space)
  | ldby (pa : Nat) (parts : List Part) (sp : Space)
  | range (pa k : Nat) (part : Part)
  | ack (wct : Nat)
  /-- a peer's write that its peer has not settled (R117) -/
  | settle (dev wct : Nat)
  /-- a validation of a Clearing entry, and its answer (R186, R188) -/
  | valid (entry line ver : Nat) (len : Nat)
  | answer (entry line : Nat) (confirm : Bool) (l : L1Line)
  | event (name : Nat) (set_ : Bool) (v : Word)
  | evwait (name : Nat) (eq : Bool) (gang : Nat) (seq : Option (Nat × Nat))
  /-- an access of a gang to a peer that does not answer (R392) -/
  | unheard (pa gang : Nat)
  | post (teller member : Nat) (hash : DWord) (holds : List Nat) (pend : Nat) (lanes : List Nat) (reg : Nat)
  | scr (off size : Nat) (v : DWord)
  deriving DecidableEq, Repr, Inhabited

structure Msg where
  id : Nat
  ctx : Nat
  core : Nat
  rank : Nat
  warp : Option WarpKey
  sent : Nat
  k : MsgKind
  deriving DecidableEq, Repr, Inhabited

/-- A pending result of a long-latency instruction (R62, R125, R137). -/
structure Pend where
  id : Nat
  warp : WarpKey
  /-- accesses that have not answered yet -/
  left : Nat := 0
  /-- register writes to land: register, lane, value -/
  writes : List (Nat × Nat × Word) := []
  /-- tile words to land: crew, tile number, words with their keys 256 · row + column -/
  tiles : List (CrewKey × Nat × List (Nat × Word)) := []
  /-- registers pending, for the scoreboard -/
  regs : List Nat := []
  /-- it is a load, which an acquire waits for (R116) -/
  load : Bool := false
  /-- instructions the warp may still issue under the lookahead (R137) -/
  look : Nat := 0
  pc : Nat := 0
  /-- slices and length of its instruction -/
  slices : BitVec 8 := 0
  len : Nat := 0
  /-- a SELECT in flight in the Assay unit (ASY_STATUS) -/
  assay : Bool := false
  deriving DecidableEq, Repr, Inhabited

/-- A request in the transform-pipe queue (R138, R277). -/
structure XReq where (core quarter : Nat) (pend : Nat) deriving DecidableEq, Repr, Inhabited

/-- The slot or batch that a Shuttle request completes into (R200, R299). -/
inductive Sink where
  | none
  | batch (n : BitVec 16)
  | slot (spool slot : Nat)
  deriving DecidableEq, Repr, Inhabited

/-- A tensor layout record (Table 15.8). -/
structure Tensor where
  base : Nat := 0
  dim : List Nat := []
  box : List Nat := []
  rank : Nat := 0
  esize : Nat := 0
  swz : Nat := 0
  tier : Nat := 0
  stride : List Nat := []
  deriving DecidableEq, Repr, Inhabited

/-- What a Shuttle request does (15, 08). -/
inductive ReqOp where
  | cpa (dst n v src : Nat)
  | tcopy (t : Tensor) (kind : TKind) (st : Bool) (dst : Nat) (x : List Int)
  | tcred (t : Tensor) (kind : TKind) (ty : ATy) (op : AOp) (dst : Nat) (x : List Int)
  /-- with the base and log2 of the directory when it was queued (R74) -/
  | dcopyPage (dst src : Nat) (dir : DWord × Nat)
  | dcopyKv (fmt ksr page src : Nat) (dir : DWord × Nat)
  | pgmove (ksr page tier : Nat)
  deriving DecidableEq, Repr, Inhabited

/-- Stages of a request (R139, R140, R193). -/
inductive ReqSt where
  | queued
  /-- waits for frames: its ticket in the pool's FIFO -/
  | allocating
  /-- held on a PAGE_FAULT until TLBOP.RESOLVE -/
  | faulted
  /-- performed; its delivery of a number of bytes is still to come, with what its writes leave -/
  | done (bytes : Nat) (out : Landed)
  deriving DecidableEq, Repr, Inhabited

structure Req where
  id : Nat
  ctx : Nat
  warp : Option WarpKey
  user : Bool
  core : Nat
  engine : Nat
  op : ReqOp
  sink : Sink
  st : ReqSt := .queued
  /-- since when an access of it to a peer has had no answer (R392) -/
  unheard : Option Nat := none
  /-- what the writes it made before it had to wait for frames leave (R124) -/
  made : Landed := {}
  deriving DecidableEq, Repr, Inhabited

/-- Who waits for frames: a Shuttle request, a stage of the Clipper, a mailbox lane's WRITE, the k-th run of a warp's
instruction. -/
inductive Asker where
  | req (id : Nat)
  | mbx (lane : Nat)
  | stage (id : Nat)
  | warp (w : WarpKey) (k : Nat)
  deriving DecidableEq, Repr, Inhabited

/-- A waiting allocation of a pool (R97, R140): who asked, tier, units, and the run once granted. -/
structure Alloc where (who : Asker) (ctx tier units : Nat) (got : Option Nat) deriving DecidableEq, Repr, Inhabited

/-- States of a Clearing-table entry (R185). -/
inductive EntrySt where
  | pending | confirmed | struck
  deriving DecidableEq, Repr, Inhabited

/-- A Clearing-table entry (R185): what its validation names it by, its warp, the line and the version captured. It
stands in the table of the core that the warp is on. -/
structure ClrEntry where (id : Nat) (warp : WarpKey) (line ver : Nat) (st : EntrySt)
  deriving DecidableEq, Repr, Inhabited

/-! Events, Teller, Clipper (08, 09). -/

/-- A waiter of an event: its gang, condition, recorded sequence numbers. -/
structure Waiter where (id : Nat) (gang : GangKey) (eq : Bool) (zseq lseq : Nat)
  deriving DecidableEq, Repr, Inhabited

/-- A hardware entry of an event unit (R173). -/
structure EvEntry where (ctx name : Nat) (count : Word) (zseq lseq : BitVec 16) (task : DWord) (waiters : List Waiter)
  deriving DecidableEq, Repr, Inhabited

/-- A waiter on the overflow path. -/
structure EvOver where (ctx name : Nat) (w : Waiter) deriving DecidableEq, Repr, Inhabited

/-- Member states of Table 09.5. -/
inductive MSt where
  | running | posted | cancelled | retired
  deriving DecidableEq, Repr, Inhabited

structure Member where
  crew : Nat
  st : MSt := .running
  hash : Option DWord := none
  /-- which warp posted -/
  warp : Option Nat := none
  /-- it has been CANCELLED at some time -/
  wasCancelled : Bool := false
  tokens : Nat := 0
  /-- KVPTE addresses it holds -/
  holds : List Nat := []
  deriving DecidableEq, Repr, Inhabited

inductive Outcome3 where
  | none | quorum | plurality
  deriving DecidableEq, Repr, Inhabited

/-- A Teller entry (Table 09.4, R183). -/
structure Teller where
  ctx : Nat
  launch : Nat
  group : Nat
  q : Nat
  slots : List (DWord × Nat) := []
  other : Nat := 0
  members : List Member
  decided : Bool := false
  outcome : Outcome3 := .none
  winner : Option Nat := none
  hash : DWord := 0
  decidedAt : Nat := 0
  instructions : Nat := 0
  clocks : Nat := 0
  pages : Nat := 0
  acct : DWord := 0
  /-- the launch runs at privilege 0 (R401) -/
  user : Bool := true
  deriving DecidableEq, Repr, Inhabited

/-- A request of the Clipper queue of a die (R160). -/
structure DemReq where (ctx die ksr page : Nat) (user : Bool) (launch crew : Nat)
  deriving DecidableEq, Repr, Inhabited

/-- A stage of a page in progress (R158): its engine (R139), the word it read, the run it waits for. -/
structure Staging where (id ctx engine ksr page : Nat) (word : DWord) (cold fromReq : Bool)
  deriving DecidableEq, Repr, Inhabited

/-! Host side (21, 22). -/

/-- A 64-byte command in a lane (Table 21.1). -/
structure Cmd where
  op : Nat
  ctx : Nat
  tag : Nat
  arg : Word
  dev : DWord
  host : DWord
  len : Nat
  rsv0 : Word
  ivc : DWord
  gtag : BitVec 128
  rsv1 : DWord
  /-- the secure session that had keyed the IDE stream it arrived over (R388) -/
  ide : Option (BitVec 32)
  /-- a kill of its context began while it waited (R386, R387) -/
  killed : Bool := false
  deriving DecidableEq, Repr, Inhabited

/-- A completion record (Table 21.3). -/
structure Compl where (tag op status code lane : Nat) (value : DWord) (gtag : BitVec 128)
  deriving DecidableEq, Repr, Inhabited

/-- The open session (R385, R388 to R390). -/
structure Session where
  spdm : BitVec 32
  ring : Nat
  size : Nat
  sealed_ : Bool
  /-- next record number -/
  next : Nat := 0
  /-- the least IV counter that each lane accepts next -/
  ivc : List Nat := List.replicate 8 0
  devIv : Nat := 0
  /-- a CLOSE is in progress in a lane; the memory that it zeroes: places and lengths (Table 21.5) -/
  closing : Option Nat := none
  held : List (Nat × Nat) := []
  /-- the record of the CLOSE has been raised: the session ends once the ring has taken it -/
  closed : Bool := false
  deriving DecidableEq, Repr, Inhabited

/-- SPDM and IDE state, the keys of the ROM layer and of the firmware layer, which signs (R391), and the measurements: index and
digest. -/
structure Spdm where
  session : Option (BitVec 32) := none
  keyUpdates : Nat := 0
  /-- the secure session that keyed the IDE stream -/
  ide : Option (BitVec 32) := none
  romKey : BitVec 512 := 0
  deviceKey : BitVec 512 := 0
  meas : List (Nat × BitVec 512) := []
  /-- the unit that failed at stage 5, in measurement 2's log (R393) -/
  failLog : Option Nat := none
  /-- messages sent over DOE -/
  out : List (List Byte) := []
  deriving DecidableEq, Repr, Inhabited

/-- The system control registers that hold state of their own (Table 04.5); the others are views. -/
structure Scr where
  mbxCtl : Word := 0xFF
  killDone : Bool := false
  forceUs : Nat := 0x14
  heartbeatUs : Nat := 0x186A0
  clpDecay : Nat := 4
  clpBf16 : Word := 0
  clpE4m3 : Word := 0
  clpE2m3 : Word := 0
  clpCold : Word := 0
  dedupBase : DWord := 0
  dedupLog2 : Nat := 0x10
  poolBmp : List DWord := [0, 0, 0]
  poolRef : List DWord := [0, 0, 0]
  poolEn : List Bool := [false, false, false]
  poolErr : Bool := false
  leaseDefault : Nat := 0x800
  wdgEnable : Bool := true
  /-- the device time at which ENABLE last became 1 (R201) -/
  wdgSince : Nat := 0
  wdgFired : DWord := 0
  limitW : Nat := 0x960
  drawW : Nat := 0
  throttle : Bool := false
  duty : Nat := 0
  prfSel : List Word := List.replicate 8 0
  /-- the selection that counts in the present clock: a write of PRF_SEL counts from the next one (R74) -/
  prfUse : List Word := List.replicate 8 0
  prfCnt : List Nat := List.replicate 8 0
  /-- what PRF_CNT has counted in the present clock (R202) -/
  prfNow : List Nat := List.replicate 8 0
  deriving DecidableEq, Repr, Inhabited

/-- Stages of the device (R393). -/
inductive Phase where
  | off
  /-- stage 1 has ended: clocks run, registers hold their reset values -/
  | stage1
  | running
  | recovery
  deriving DecidableEq, Repr, Inhabited

/-! What happens next: the model's record of inputs and of orders the spec leaves open (log 8). -/

/-- A request of one home cycle (R92): a step of another agent, or an issue slot of a quarter. -/
inductive Act where
  | event (e : Instr) (subject : Nat) (data : List Byte)
  | issue (core quarter : Nat)
  deriving DecidableEq, Repr

inductive Next where
  /-- after some ticks, an indivisible step of another agent -/
  | event (dt : Nat) (e : Instr) (subject : Nat) (data : List Byte)
  /-- after some ticks, an issue slot of a quarter (R136) -/
  | issue (dt core quarter : Nat)
  | tick (dt : Nat)
  /-- requests that arrive at their home, or block, in one cycle: they are applied in ascending rank (R73, R92) -/
  | cycle (dt : Nat) (acts : List Act)
  /-- replacement drops a line of a core's L1 (R87) -/
  | l1Drop (core line : Nat)
  /-- L2 writes a line back to its tier, and drops it or keeps it (R90) -/
  | l2Back (line : Nat) (drop : Bool)
  /-- a home stops tracking a line (R85) -/
  | untrack (line : Nat)
  /-- a TLB loads the entry of a level for an address, or drops an entry (R194) -/
  | tlbFill (holder ctx level va : Nat)
  | tlbDrop (holder ctx level tag : Nat)
  /-- the instruction cache fills the block that holds an address (R231) -/
  | icacheFill (core ctx va : Nat)
  /-- a line is found with an uncorrectable error, or is healed; the same of a word of a core's arrays (R93) -/
  | ecc (line : Nat) (bad : Bool)
  | eccSpot (x : Spot) (bad : Bool)
  /-- an old core's acknowledgement of its flush reaches the core of a resumed crew (R223) -/
  | flushed (k : CrewKey)
  /-- a peer ceases to answer, refuses this device's packets, or takes them again (R196, R392) -/
  | peer (dev : Nat) (st : Option PeerSt)
  /-- the host stores to its own memory, or a peer to its own -/
  | outside (pa : Nat) (data : List Byte)
  deriving DecidableEq, Repr

/-! Accesses of device units to peers that do not answer (R392; log 73). -/

/-- Who waits for the answer to an access of its own: a mailbox lane, a message at its home, an event's waiter, the delivery of a
context's reports, the tables of a launch, the Clipper's sweep of a context, its requests of a die, a holding, the device that
releases a capture, an event's entry to be written back, and a store of the device's own. -/
inductive Caller where
  | lane (k : Nat)
  | msg (id : Nat)
  | over (id : Nat)
  | ring (ctx : Nat)
  | tables (ctx launch : Nat)
  | sweep (ctx : Nat)
  | demand (die : Nat)
  | holding (entry member : Nat)
  | orphan (w : WarpKey) (page : Nat)
  | entry (ctx name : Nat)
  | store (id : Nat)
  deriving DecidableEq, Repr, Inhabited
/-- A store of a device unit that follows from another step, and is made again until it is answered: its bytes, the report where
it fails, and what a launch still adds to its done_event after it (R129, R183). -/
structure OwnStore where (id ctx va : Nat) (user : Bool) (data : List Byte) (report : Report) (done : Option Nat)
  deriving DecidableEq, Repr, Inhabited

/-- The gang whose instruction is being executed: slices, length of the instruction, Uaten-2 page. -/
structure Cur where (warp : WarpKey) (slices : BitVec 8) (len : Nat) (u2 : Bool)
  deriving DecidableEq, Repr, Inhabited

/-- The state of the device. -/
structure State where
  /-- device time, in ticks (R198); a Nat modulo 2^64 in every read -/
  time : Nat := 0
  phase : Phase := .stage1
  /-- one physical address space: tiers 0 to 2, host window, peer window (Table 05.2) -/
  mem : List Host.Cell := []
  cxlFrames : Nat := 0
  /-- line records at the homes; greatest expiry a slice has stopped tracking -/
  lines : List (Nat × LineRec) := []
  sliceExp : List (Nat × Nat) := []
  verCtr : Nat := 0
  /-- lines held in L2, and whether modified (R90, R359) -/
  l2 : List (Nat × Bool) := []
  /-- commutative ranges: partials of (core, element address) pinned in the core's L1, partials in the home's slots
  for the core, flags of elements (R121, R87) -/
  partials : List ((Nat × Nat) × Partial) := []
  crSlots : List ((Nat × Nat) × BitVec 64) := []
  crFlags : List Nat := []
  badLines : List Nat := []
  /-- words of a core's arrays that hold an uncorrectable error (R93) -/
  badSpots : List Spot := []
  /-- peers that do not answer, or refuse what this device sends (R196, R392) -/
  peers : List (Nat × PeerSt) := []
  l1 : List L1Line := []
  tlb : List TlbEntry := []
  icache : List IBlock := []
  clearing : List ClrEntry := []
  clockMHz : Nat := 2000
  /-- arithmetic clocks since reset, and thousandths of a clock not yet counted -/
  clocks : Nat := 0
  clockRem : Nat := 0
  scr : Scr := {}
  /-- access tables: target and index to the entry (R195); halves whose partner has not been written since -/
  acctab : List ((Nat × Nat) × BitVec 128) := []
  acchalf : List ((Nat × Nat) × (Option DWord × Option DWord)) := []
  poolQ : List Alloc := []
  /-- the device's record of the runs it allocated: tier and first unit to units and context -/
  runs : List ((Nat × Nat) × Nat × Nat) := []
  msgs : List Msg := []
  pends : List Pend := []
  xq : List XReq := []
  xnext : List (Nat × Nat) := []
  reqs : List Req := []
  evEntries : List EvEntry := []
  evOver : List EvOver := []
  teller : List (Nat × Teller) := []
  faultQ : List Report := []
  demreqs : List DemReq := []
  staging : List Staging := []
  lanes : List (List Cmd) := List.replicate 8 []
  laneWct : List Nat := List.replicate 8 0
  session : Option Session := none
  compQ : List Compl := []
  openResult : Word := 0
  spdm : Spdm := {}
  fabricId : Nat := 0
  /-- the fuses, as the boot ROM has read them (R393) -/
  fuses : Fuses := {}
  ctxs : List (Nat × Ctx) := []
  /-- the code of a context that was killed (R386) -/
  dead : List (Nat × Nat) := []
  launches : List ((Nat × Nat) × Launch) := []
  crews : List (CrewKey × Crew) := []
  /-- crews placed on a core since it was last empty (R132) -/
  coreSeq : List (Nat × Nat) := []
  warps : List (WarpKey × Warp) := []
  /-- crews that have retired while copies of their scratchpad or tiles are still queued (R280) -/
  ghosts : List (CrewKey × Crew) := []
  /-- captures of warps that exited or were cancelled, to be released by the device (R150) -/
  orphans : List (WarpKey × Capture) := []
  cur : Option Cur := none
  /-- what the writes that the step in hand has applied leave (R114, R117, R124) -/
  out : Landed := {}
  /-- since when an access of a unit to a peer has had no answer, and stores of units that wait for one (R392) -/
  unheard : List (Caller × Nat) := []
  stores : List OwnStore := []
  /-- faults that the step in hand has met in reading a run for the directory; they are reported as it ends (R103) -/
  met : List Report := []
  /-- the message, lane or number that a step of the outside is about, and its bytes -/
  subject : Nat := 0
  input : List Byte := []
  agenda : List Next := []
  freeCtr : Nat := 0
  nextId : Nat := 0
  deriving DecidableEq, Repr

/-- The stops of the model. No fault of the device is among them: a fault of the device is a next state. -/
inductive Fault where
  /-- Raised by step: the module has no power, or stays in reset (R393), and no DEVICE_RESET is next. Nothing
  happens then (R397).
  Safe: the hardware does nothing either. -/
  | noPower
  /-- Raised by a meaning of a warp instruction that is executed with no gang issuing it: step never does
  so. Safe. -/
  | noIssuer
  deriving DecidableEq, Repr

/-- Refusals. -/
inductive Refusal where
  /-- Raised by the dispatcher for an instruction that has no meaning yet. Safe. -/
  | notModelled (mnemonic : String)
  deriving DecidableEq, Repr

/-- The state right after reset: the end of stage 1 of Table 22.1, the first state in which the module is
defined; the boot image of stages 2 to 6 is an input (DEVICE_RESET). Every register of Table 04.5 holds its
reset value (R77), device time is 0 (R198), nothing is resident and nothing is in flight. -/
def State.reset : State := {}

end Sys2Proof.Machine
end

