-- ==== Sys2Proof/Machine/Base.lean ====
section
/-! DEFINITION. Sparse arrays, keyed lists, bytes, and the named reads and updates of State that every other
operation goes through. -/

namespace Sys2Proof.Machine

/-! Sparse arrays in canonical form. -/

def sget {n : Nat} : Sparse n → Nat → BitVec n
  | [], _ => 0
  | (k', v) :: l, k => if k' = k then v else sget l k

/-- Puts an entry before the first greater key. -/
def sins {n : Nat} : Sparse n → Nat → BitVec n → Sparse n
  | [], k, v => [(k, v)]
  | (k', v') :: l, k, v => if k < k' then (k, v) :: (k', v') :: l else (k', v') :: sins l k v
/-- Removes an entry. -/
def sdel {n : Nat} (m : Sparse n) (k : Nat) : Sparse n := m.filter (fun p => p.1 ≠ k)
/-- Writes one entry: keys stay strictly rising, and writing 0 removes the entry. -/
def sset {n : Nat} (m : Sparse n) (k : Nat) (v : BitVec n) : Sparse n := if v = 0 then sdel m k else sins (sdel m k) k v

/-- The canonical form: keys strictly rising, no entry 0. -/
def Sparse.wf {n : Nat} : Sparse n → Bool
  | [] => true
  | [(_, v)] => v != 0
  | (k, v) :: (k', v') :: l => v != 0 && decide (k < k') && Sparse.wf ((k', v') :: l)

/-- Writes consecutive entries from k up. -/
def ssetList {n : Nat} (m : Sparse n) (k : Nat) : List (BitVec n) → Sparse n
  | [] => m
  | v :: l => ssetList (sset m k v) (k + 1) l
def sgetList {n : Nat} (m : Sparse n) (k : Nat) : Nat → List (BitVec n)
  | 0 => []
  | c + 1 => sget m k :: sgetList m (k + 1) c

/-- The canonical form of memory. -/
def Memory.wf (m : List Host.Cell) : Bool := Sparse.wf (n := 8) m

/-! Lists of keyed values. -/

def aset {α β : Type} [DecidableEq α] : List (α × β) → α → β → List (α × β)
  | [], k, v => [(k, v)]
  | (k', v') :: l, k, v => if k' = k then (k, v) :: l else (k', v') :: aset l k v
def aget {α β : Type} [DecidableEq α] : List (α × β) → α → Option β
  | [], _ => none
  | (k', v) :: l, k => if k' = k then some v else aget l k
def adel {α β : Type} [DecidableEq α] (l : List (α × β)) (k : α) : List (α × β) := l.filter (fun p => p.1 ≠ k)

/-- Replaces element i of a list, if there is one. -/
def lset {α : Type} (l : List α) (i : Nat) (v : α) : List α := l.set i v

/-! Bytes (R3). -/

def leNat : List Byte → Nat
  | [] => 0
  | b :: l => b.toNat + 256 * leNat l
def nbytes (n v : Nat) : List Byte := natBytesM n v
where natBytesM : Nat → Nat → List Byte
  | 0, _ => []
  | n + 1, v => BitVec.ofNat 8 v :: natBytesM n (v / 256)
def le16 (l : List Byte) (o : Nat) : Nat := leNat ((l.drop o).take 2)
def le32 (l : List Byte) (o : Nat) : Nat := leNat ((l.drop o).take 4)
def le64 (l : List Byte) (o : Nat) : Nat := leNat ((l.drop o).take 8)
def le8 (l : List Byte) (o : Nat) : Nat := leNat ((l.drop o).take 1)
/-- Overwrites bytes of a list from an offset on. -/
def patch (l : List Byte) (o : Nat) (d : List Byte) : List Byte := l.take o ++ d ++ l.drop (o + d.length)
/-- The signed value of a word or a dword. -/
def sint {n : Nat} (x : BitVec n) : Int := x.toInt
def ceilDiv (a b : Nat) : Nat := (a + b - 1) / b

/-! Reads of the state. -/

def State.warp (s : State) (k : WarpKey) : Warp := (aget s.warps k).getD {}
/-- A crew, also one that has retired while copies of its scratchpad or tiles are queued (R280). -/
def State.crew (s : State) (k : CrewKey) : Crew := (aget s.crews k).getD ((aget s.ghosts k).getD { seat := .on 0 })
def State.launch (s : State) (c l : Nat) : Launch := (aget s.launches (c, l)).getD { packet := {} }
def State.ctx (s : State) (c : Nat) : Ctx := (aget s.ctxs c).getD { desc := {}, lease := 0x800 }
def State.hasCtx (s : State) (c : Nat) : Bool := (aget s.ctxs c).isSome
def CrewKey.launchOf (k : CrewKey) : Nat × Nat := (k.ctx, k.launch)
def State.packetOf (s : State) (k : CrewKey) : Packet := (s.launch k.ctx k.launch).packet
/-- The core that a crew stands on, running or stopped in place. -/
def Crew.core? (c : Crew) : Option Nat :=
  match c.seat with
  | .on n | .stopped n => some n
  | .saved _ _ => none
def State.coreOf (s : State) (k : WarpKey) : Nat := ((s.crew k.crew).core?).getD 0
def State.privOf (s : State) (k : WarpKey) : Bool := (s.crew k.crew).priv
def State.gtime (s : State) : DWord := BitVec.ofNat 64 s.time

/-! Updates of the state. -/

def State.setWarp (s : State) (k : WarpKey) (w : Warp) : State := { s with warps := aset s.warps k w }
def State.setCrew (s : State) (k : CrewKey) (c : Crew) : State := { s with crews := aset s.crews k c }
def State.setLaunch (s : State) (c l : Nat) (x : Launch) : State := { s with launches := aset s.launches (c, l) x }
def State.setCtx (s : State) (c : Nat) (x : Ctx) : State := { s with ctxs := aset s.ctxs c x }
def State.modWarp (s : State) (k : WarpKey) (f : Warp → Warp) : State := s.setWarp k (f (s.warp k))
def State.modCrew (s : State) (k : CrewKey) (f : Crew → Crew) : State := s.setCrew k (f (s.crew k))
def State.modLaunch (s : State) (c l : Nat) (f : Launch → Launch) : State := s.setLaunch c l (f (s.launch c l))
def State.modCtx (s : State) (c : Nat) (f : Ctx → Ctx) : State := s.setCtx c (f (s.ctx c))
/-- A fresh identifier. -/
def State.fresh (s : State) : Nat × State := (s.nextId, { s with nextId := s.nextId + 1 })

/-! Physical memory: byte reads and writes (R105, R109). -/

def State.rd (s : State) (pa : Nat) : Byte := sget s.mem pa
def State.rdN (s : State) (pa n : Nat) : List Byte := sgetList s.mem pa n
def State.rdNat (s : State) (pa n : Nat) : Nat := leNat (s.rdN pa n)
def State.wrN (s : State) (pa : Nat) (d : List Byte) : State := { s with mem := ssetList s.mem pa d }

/-! Counts (R202, R203). -/

/-- Adds n occurrences of an event of Table 10.2: to the device counters that select it in this clock (R74), and to the
context. -/
def State.count (s : State) (ctx : Option Nat) (code n : Nat) : State :=
  let sel := s.scr.prfUse
  let up (l : List Nat) : List Nat := l.mapIdx (fun k v =>
    let w := sel.getD k 0
    if w.getLsbD 8 && (w.toNat % 256) = code then (v + n) % 2 ^ 64 else v)
  let s := { s with scr := { s.scr with prfCnt := up s.scr.prfCnt, prfNow := up s.scr.prfNow } }
  match ctx with
  | some c =>
    if s.hasCtx c then s.modCtx c (fun x => { x with counts := aset x.counts code (((aget x.counts code).getD 0 + n) % 2 ^ 64) })
    else s
  | none => s

/-- What two groups of writes leave together. -/
def Landed.join (a b : Landed) : Landed := ⟨max a.wct b.wct, a.puts ++ b.puts, a.settles ++ b.settles⟩

/-! Messages and pending results. -/

/-- The place that a message is about, and its length. -/
def MsgKind.pa? : MsgKind → Option (Nat × Nat)
  | .fill line _ _ => some (line * 64, 64)
  | .write pa d _ => some (pa, d.length)
  | .atom pa _ _ _ _ _ => some (pa, 8)
  | .cas pa _ _ _ _ _ => some (pa, 8)
  | .ldby pa _ _ => some (pa, 8)
  | .range pa _ _ => some (pa, 8)
  | .valid _ line _ _ => some (line * 64, 64)
  | .answer _ line _ _ => some (line * 64, 64)
  | _ => none
def MsgKind.touches (m : MsgKind) (line : Nat) : Bool := match m.pa? with | some (a, _) => a / 64 = line | none => false
/-- An access on its way to some place in a page of 4 KiB. -/
def MsgKind.inPage (m : MsgKind) (pa : Nat) : Bool := match m.pa? with | some (a, _) => a / 4096 = pa / 4096 | none => false

def State.send (s : State) (ctx core rank : Nat) (w : Option WarpKey) (k : MsgKind) : State :=
  { s with msgs := s.msgs ++ [⟨s.nextId, ctx, core, rank, w, s.time, k⟩], nextId := s.nextId + 1 }
def State.msg? (s : State) (id : Nat) : Option Msg := s.msgs.find? (fun m => m.id = id)
def State.dropMsg (s : State) (id : Nat) : State := { s with msgs := s.msgs.filter (fun m => m.id ≠ id) }
/-- Replaces a message in its place by one of another kind. -/
def State.turnMsg (s : State) (id : Nat) (k : MsgKind) : State :=
  { s with msgs := s.msgs.map (fun m => if m.id = id then { m with k := k } else m) }
def State.pend? (s : State) (id : Nat) : Option Pend := s.pends.find? (fun p => p.id = id)
def State.modPend (s : State) (id : Nat) (f : Pend → Pend) : State :=
  { s with pends := s.pends.map (fun p => if p.id = id then f p else p) }
/-- The bytes of a loaded element, extended to whole registers (R287). -/
def partWrites (p : Part) (v : Nat) : List (Nat × Nat × Word) :=
  let v := if p.sgn then lowBits 32 (intOf true (8 * p.size) v) else v
  (List.range (max 1 (p.size / 4))).map (fun k => (p.reg + k, p.lane, BitVec.ofNat 32 (v / 2 ^ (32 * k))))
/-- An access of a pending result has answered. -/
def State.answer (s : State) (p : Part) (v : Nat) : State :=
  s.modPend p.pend (fun x => { x with left := x.left - 1, writes := x.writes ++ partWrites p v })

/-! Registers of a warp (R61, R62). -/

def Warp.rg (w : Warp) (r l : Nat) : Word := sget w.regs (32 * r + l)
def Warp.rg2 (w : Warp) (r l : Nat) : DWord := .ofHalves (w.rg r l) (w.rg (r + 1) l)
/-- A write of one lane-register empties a latch that holds the register (R68). -/
def Warp.wr (w : Warp) (r l : Nat) (v : Word) : Warp :=
  { w with regs := sset w.regs (32 * r + l) v,
           latch := w.latch.map (fun x => match x with | some y => if y.reg = r then none else x | none => none) }
def Warp.wrs (w : Warp) : List (Nat × Nat × Word) → Warp
  | [] => w
  | (r, l, v) :: t => (w.wr r l v).wrs t
def Warp.slice (w : Warp) (i : Nat) : Slice := w.slices.getD i { exited := true }
def Warp.setSlice (w : Warp) (i : Nat) (x : Slice) : Warp := { w with slices := lset w.slices i x }
/-- An instruction of a gang waits for something, or waits no longer. -/
def Wait.isRetry : Wait → Bool
  | .retry _ _ => true
  | _ => false
/-- The wait keeps the slice's whole warp out of issue (R341). -/
def Wait.whole : Wait → Bool
  | .retry _ w | .release _ w => w
  | .ctxop _ _ _ _ _ _ _ => true
  | .peer _ _ _ _ w => w
  | _ => false
def Warp.modSlices (w : Warp) (m : BitVec 8) (f : Slice → Slice) : Warp :=
  { w with slices := w.slices.mapIdx (fun i x => if m.getLsbD i then f x else x) }
/-- Every lane of every slice has exited (R19). -/
def Warp.exited (w : Warp) : Bool := w.slices.all (·.exited)
/-- Lanes of a slice that have not exited: its mask and those its stack keeps (R29, R35). -/
def Slice.live (x : Slice) : BitVec 4 := if x.exited then 0 else x.stack.foldl (fun m e => m ||| e.mask) x.mask
/-- The slices of the gang that a slice belongs to. -/
def Warp.gangOf (w : Warp) (g : Nat) : BitVec 8 :=
  (List.range 8).foldl (fun m i => if !(w.slice i).exited && (w.slice i).gang = g then m ||| (1#8 <<< i) else m) 0
/-- The gangs of a warp, by their lowest slices, ascending. -/
def Warp.gangs (w : Warp) : List Nat := (List.range 8).filter (fun i => !(w.slice i).exited && (w.slice i).gang = i)
/-- The lanes of some slices that are active (R28, R31). -/
def Warp.active (w : Warp) (m : BitVec 8) : List Nat :=
  (List.range 32).filter (fun l => m.getLsbD (l / 4) && !(w.slice (l / 4)).exited && (w.slice (l / 4)).mask.getLsbD (l % 4))

/-- Regroups slices of one gang that now stand at different addresses: one gang per address (R31). -/
def Warp.part (w : Warp) (m : BitVec 8) : Warp :=
  let leader (i : Nat) : Nat :=
    ((List.range 8).find? (fun j => m.getLsbD j && !(w.slice j).exited && (w.slice j).pc = (w.slice i).pc)).getD i
  let parted := (List.range 8).any (fun i => m.getLsbD i && !(w.slice i).exited &&
    (List.range 8).any (fun j => m.getLsbD j && !(w.slice j).exited && (w.slice j).pc ≠ (w.slice i).pc))
  { w with slices := w.slices.mapIdx (fun i x => if m.getLsbD i && !x.exited then { x with gang := leader i } else x),
           latch := if parted then [none, none, none] else w.latch }

/-- The failed marks that a held CPWAIT met: cleared where the handler goes on past it (R300), else left. -/
def Warp.unmark (w : Warp) (past : Bool) : Warp :=
  { w with batches := if past then w.batches.filter (fun b => !b.met) else w.batches.map (fun b => { b with met := false }) }

/-! Names of gangs and crews. -/

def Cur.gang (g : Cur) : GangKey := ⟨g.warp, ((List.range 8).find? (fun i => g.slices.getLsbD i)).getD 0⟩
def Cur.ctx (g : Cur) : Nat := g.warp.crew.ctx
def Cur.crewK (g : Cur) : CrewKey := g.warp.crew

/-- The crew paired with a crew (R24). -/
def partner (k : CrewKey) : CrewKey := { k with crew := k.crew ^^^ 1 }
/-- The warps of a crew, ascending. -/
def State.warpsOf (s : State) (k : CrewKey) : List WarpKey :=
  (List.range (s.packetOf k).warps).map (fun i => ⟨k, i⟩)
/-- The code of a crew's scratchpad size, in bytes (Table 02.3). -/
def carveBytes (i : Nat) : Nat := ([0, 64, 128, 192, 256, 384, 448].getD i 0) * 1024
def carveMax (i : Nat) : Nat := [32, 7, 3, 2, 1, 1, 1].getD i 0
def State.scratchSize (s : State) (k : CrewKey) : Nat := carveBytes (s.packetOf k).carve

end Sys2Proof.Machine
end

