-- ==== Sys2Proof/Machine/Mem.lean ====
section
/-! DEFINITION. Physical memory, homes, translation, access tables, the CRC sidecar, frame pools and
accesses by units and engines (spec 05, 06, 08.9, 09.5, 09.6). -/

namespace Sys2Proof.Machine

/-! The physical map (R80, R90, R94, R95, R100). -/

inductive Region where
  | tier (t : Nat) | window | host | peer (dev : Nat) | hole
  deriving DecidableEq, Repr

def tierBase (t : Nat) : Nat := [0, 0x10000000000, 0x100000000000, 0x10000000000000].getD t 0
def State.tierFrames (s : State) (t : Nat) : Nat := [125000000, 268435456, s.cxlFrames].getD t 0
/-- First frame of a tier's sidecar area (R100). -/
def State.sideFrame (s : State) (t : Nat) : Nat := s.tierFrames t - ceilDiv (s.tierFrames t) 256
def winBase : Nat := 0xFF00000000
def hostBase : Nat := 0x400000000000

def region (pa : Nat) : Region :=
  if pa ≤ 0x773593FFFF then .tier 0
  else if winBase ≤ pa && pa ≤ 0xFF000AFFFF then .window
  else if 0x10000000000 ≤ pa && pa ≤ 0x1FFFFFFFFFF then .tier 1
  else if 0x100000000000 ≤ pa && pa ≤ 0x1FFFFFFFFFFF then .tier 2
  else if hostBase ≤ pa && pa ≤ 0x7FFFFFFFFFFF then .host
  else if 0x10000000000000 ≤ pa && pa < 0x10000000000000 + 640 * 2 ^ 42 then .peer ((pa - 0x10000000000000) / 2 ^ 42)
  else .hole

/-- The home slice of a physical address (R90). -/
def home (pa : Nat) : Nat :=
  let a := pa / 64
  ((a % 256) ^^^ (a / 2 ^ 8 % 256) ^^^ (a / 2 ^ 16 % 256) ^^^ (a / 2 ^ 24 % 256) ^^^ (a / 2 ^ 32 % 256) ^^^ (a / 2 ^ 40 % 256))

/-- The target whose access table guards an address (R195; logs 11, 12, 13). -/
def accTarget (pa : Nat) : Nat :=
  match region pa with
  | .tier 0 => pa / 4096 % 8
  | .tier 1 => 8 + home pa / 64
  | .tier _ => 12
  | .host => 13
  | .peer d => 14 + Config.peerPort d % 24
  | .window | .hole => 38

/-- Master classes (R195): 0 cores, 1 Shuttle engines and device units, 2 mailbox engine, 3 Link ports. -/
def accField (e : BitVec 128) (lo len : Nat) : Nat := (e.extractLsb' lo len).toNat
def State.accEntry (s : State) (g i : Nat) : BitVec 128 := (aget s.acctab (g, i)).getD 0
/-- R196: the first enabled entry of a target that contains the page decides. -/
def State.tableAllows (s : State) (g pa cls : Nat) (rd wr : Bool) : Bool :=
  let pg := pa / 4096
  match (List.range 64).find? (fun i =>
      let e := s.accEntry g i
      e.getLsbD 63 && accField e 12 41 ≤ pg && pg ≤ accField e 76 41) with
  | some i =>
    let e := s.accEntry g i
    (!rd || e.getLsbD cls) && (!wr || e.getLsbD (4 + cls))
  | none => false

/-- The table of the target that guards an address. -/
def State.accAllows (s : State) (pa cls : Nat) (rd wr : Bool) : Bool := s.tableAllows (accTarget pa) pa cls rd wr

/-- The address at a peer that an address of the peer window names (R94). -/
def peerLocal (pa : Nat) : Nat := pa % 2 ^ 42
/-- A peer refuses a packet: it says so, or the packet names no HBM4E frame of it (R94, R72, R196). -/
def State.peerRefuses (s : State) (dev pa : Nat) : Bool :=
  aget s.peers dev == some .refusing || region (peerLocal pa) != .tier 0
/-- Earlier accesses of the device to the page of a peer that an address lies in are on their way: a unit's access to it goes
behind them (R109). -/
def State.peerBusy (s : State) (pa : Nat) : Bool :=
  match region pa with | .peer _ => s.msgs.any (fun m => m.k.inPage pa) | _ => false
/-- An address of a peer that does not answer (R392). -/
def State.peerSilent (s : State) (pa : Nat) : Bool :=
  match region pa with | .peer d => aget s.peers d == some .silent | _ => false
/-- Whether a physical address exists and a master may access it (R80, R100, R196). The system control
window is judged by its own rules (R72) before this is asked. -/
def State.physOk (s : State) (pa cls : Nat) (rd wr side : Bool) : Bool :=
  match region pa with
  | .tier t =>
    let f := (pa - tierBase t) / 4096
    decide (f < s.tierFrames t) && (side || decide (f < s.sideFrame t)) && s.accAllows pa cls rd wr
  | .host => s.accAllows pa cls rd wr
  | .peer d => s.accAllows pa cls rd wr && !s.peerRefuses d pa
  | .window | .hole => false

/-! Homes: leases, versions and the application of writes (R85, R109, R114, R185). -/

/-- The greatest expiry the home records for a line. -/
def State.lineExp (s : State) (line : Nat) : Nat :=
  match aget s.lines line with
  | some r => r.expiry
  | none => (aget s.sliceExp (home (line * 64))).getD 0

/-- Lines that one home slice of L2 holds: 1.5 MiB (Table 01.2). -/
def l2Lines : Nat := 24576
/-- L2 of a slice that is full writes back and drops the line it has held longest (log 65). -/
def State.l2Room (s : State) (h : Nat) : State :=
  match s.l2.filter (fun p => home (p.1 * 64) = h) with
  | [] => s
  | p :: ps => if ps.length + 1 < l2Lines then s else { s with l2 := adel s.l2 p.1 }
/-- A home slice works on a line: L2 holds it then (R90). -/
def State.l2Touch (s : State) (line : Nat) (mod : Bool) : State :=
  match aget s.l2 line with
  | some m => { (s.count none 0x0E 1) with l2 := aset s.l2 line (m || mod) }
  | none =>
    let s := (s.count none 0x0F 1).l2Room (home (line * 64))
    { s with l2 := s.l2 ++ [(line, mod)] }

/-- Every tracked line of a byte range gets its next version (R185). -/
def State.bump (s : State) (pa n : Nat) : State :=
  { s with lines := s.lines.map (fun p =>
      if pa / 64 ≤ p.1 && p.1 * 64 < pa + n then (p.1, { p.2 with version := p.2.version + 1 }) else p) }

/-- A home applies a write: the answer holds its write completion time (R114). -/
def State.homeWrite (s : State) (pa : Nat) (d : List Byte) : Nat × State :=
  let cached := match region pa with | .tier _ => true | _ => false
  let ls := (List.range ((pa + d.length - 1) / 64 - pa / 64 + 1)).map (pa / 64 + ·)
  let wct := if cached then ls.foldl (fun m l => max m (s.lineExp l)) 0 else 0
  let s := { ((s.bump pa d.length).wrN pa d) with out := { s.out with wct := max s.out.wct wct, puts := s.out.puts ++ [(pa, d.length)] } }
  (wct, if cached then ls.foldl (fun s l => s.l2Touch l true) s else s)
def State.put (s : State) (pa : Nat) (d : List Byte) : State := (s.homeWrite pa d).2
def State.putNat (s : State) (pa n v : Nat) : State := s.put pa (nbytes n v)

/-- A line has an uncorrectable error (R93). -/
def State.isBad (s : State) (pa n : Nat) : Bool := s.badLines.any (fun l => pa / 64 ≤ l && l * 64 < pa + n)

/-! Translation (R191 to R194, R401). -/

/-- A translation: physical address and leaf. -/
structure Tr where (pa : Nat) (leaf : DWord) (level : Nat) deriving DecidableEq, Repr, Inhabited
def Tr.bit (t : Tr) (i : Nat) : Bool := t.leaf.getLsbD i
def Tr.lease (t : Tr) : Nat := (t.leaf.extractLsb' 7 2).toNat
def Tr.k (t : Tr) : Nat := (t.leaf.extractLsb' 53 6).toNat
def Tr.cr (t : Tr) : Bool := t.bit 11
def Tr.dd (t : Tr) : Bool := t.bit 10
def Tr.sc (t : Tr) : Bool := t.bit 9
def Tr.x2 (t : Tr) : Bool := t.bit 5

/-- A fault met by an access: code, translation level (0xFF for none) and the report's address (R212); that a store to a record
met it; that an access table refused it to a device unit or engine (R196); that it is none, the access having to go behind
earlier ones of the device to a peer's page (R109). -/
structure Bad where
  code : Code
  level : Nat
  addr : Nat
  store : Bool := false
  refused : Bool := false
  busy : Bool := false
  deriving DecidableEq, Repr, Inhabited
def badV (c : Code) (level addr : Nat) : Bad := { code := c, level := level, addr := addr }
def bad (c : Code) : Bad := badV c 0xFF 0
def blockOf (pa : Nat) : Nat := pa / 4096 * 4096
/-- The place of a fault of an access in R211's order. -/
def Code.order : Code → Nat
  | .privilege => 0 | .addrRange => 1 | .misaligned => 2 | .pageFault => 3 | .accessDenied => 4 | _ => 5
/-- The fault that is reported of several that one access meets: the first in R211's order, of equal ones the first met. -/
def firstBad : List Bad → Option Bad
  | [] => none
  | b :: l => match firstBad l with
    | some c => some (if c.code.order < b.code.order then c else b)
    | none => some b
/-- UNCORRECTABLE and DATA_CRC name the physical block (R212). -/
def badAt (c : Code) (pa : Nat) : Bad := badV c 0xFF (blockOf pa)
/-- An access table refuses an access of a master class (R196). -/
def State.denial (s : State) (pa cls : Nat) (rd wr : Bool) : Bad :=
  { bad .accessDenied with refused := cls = 1 && !s.accAllows pa cls rd wr }
/-- What an access of a unit or engine to arrays of its own meets: pool bitmaps and references, the directory, sidecar entries,
leaf entries, save records (R195, R196, R215). -/
def State.rawBad (s : State) (pa n : Nat) (rd wr : Bool) : Option Bad :=
  if !s.physOk pa 1 rd wr true then some (s.denial pa 1 rd wr)
  else if rd && s.isBad pa n then some (badAt .uncorrectable pa) else none

/-- Canonical addresses (R79). -/
def canonical (va : Nat) : Bool := decide (va < 2 ^ 64) && (va / 2 ^ 56 = 0 || va / 2 ^ 56 = 255)

def lvlShift (l : Nat) : Nat := [39, 30, 21, 12].getD l 12
def lvlIndex (l va : Nat) : Nat := if l = 0 then va / 2 ^ 39 % 2 ^ 18 else va / 2 ^ lvlShift l % 512
def lvlTag (l va : Nat) : Nat := va % 2 ^ 57 / 2 ^ lvlShift l

/-- The master class of a walk: a core's own, or a unit's (R195; log 69). -/
def walkCls (holder : Nat) : Nat := if holder < 128 then 0 else 1
/-- A table entry as a walk reads it from memory: the access is checked as any other (R80, R195, R215). -/
def State.tableEntry (s : State) (holder a : Nat) : Except Bad DWord :=
  if !s.physOk a (walkCls holder) true false false then .error (bad .accessDenied)
  else if s.isBad a 8 || s.peerSilent a then .error (badAt .uncorrectable a)
  else .ok (BitVec.ofNat 64 (s.rdNat a 8))
/-- The entry of a level: from the TLB of the core, then of the die, else from memory. -/
def State.xlEntry (s : State) (holder ctx level va table : Nat) : Except Bad DWord :=
  let tag := lvlTag level va
  let pick (h : Nat) := s.tlb.find? (fun e => e.holder = h && e.ctx = ctx && e.level = level && e.tag = tag)
  match (if holder < 128 then pick holder else none), pick (if holder < 128 then 128 + holder / 32 else holder) with
  | some e, _ | none, some e => .ok e.word
  | none, none => s.tableEntry holder (table + 8 * lvlIndex level va)

def State.walkFrom (s : State) (holder ctx va : Nat) : List Nat → Nat → Except Bad Tr
  | [], _ => .error (badV .pageFault 3 va)
  | l :: ls, table => do
    let e ← s.xlEntry holder ctx l va table
    let leafBit := e.getLsbD 1
    if !e.getLsbD 0 then .error (badV .pageFault l va)
    else if (e.extractLsb' 59 5).toNat != 0 || (e.extractLsb' 7 2).toNat = 3 || (l = 0 && leafBit) ||
        (l != 3 && e.getLsbD 6) then .error (badV .pageFault l va)
    else
      let pa := (e.extractLsb' 12 41).toNat * 4096
      if l = 3 || leafBit then
        let sz := if l = 3 then (if e.getLsbD 6 then 2 ^ 16 else 2 ^ 12) else 2 ^ lvlShift l
        .ok ⟨pa / sz * sz + va % sz, e, l⟩
      else s.walkFrom holder ctx va ls pa

/-- A walk by a holder of a TLB for a context. -/
def State.walk (s : State) (holder ctx va : Nat) : Except Bad Tr :=
  if !canonical va then .error (bad .addrRange) else s.walkFrom holder ctx va [0, 1, 2, 3] (s.ctx ctx).desc.root

/-- The page is protected by the sidecar: of a tier, with its attribute set; host and peer pages never are (R100, R310). -/
def Tr.prot (t : Tr) : Bool := t.sc && (match region t.pa with | .tier _ => true | _ => false)
/-- A walk with the attribute checks of Table 09.9. -/
def State.xlate (s : State) (holder ctx va : Nat) (user : Bool) (a : Acc) : Except Bad Tr := do
  let t ← s.walk holder ctx va
  let wr := a == .write || a == .atomic
  if (wr && !t.bit 2) || (user && !t.bit 3) || (a == .fetch && !t.bit 4) then .error (badV .accessDenied t.level va)
  pure t

/-! The CRC sidecar (R100 to R103). -/

def sideAddr (s : State) (pa : Nat) : Nat :=
  match region pa with
  | .tier t => tierBase t + 4096 * s.sideFrame t + 16 * ((pa - tierBase t) / 4096)
  | _ => 0

/-- The keys of a context, as one number: the low 512 bits are the XTS key, the rest the tag key (R389). -/
def State.ctxKeys (s : State) (c : Nat) : Nat :=
  match (s.ctx c).session with
  | some sid => Config.kmac256 (nbytes 64 (Config.spdmSecret sid).toNat) [BitVec.ofNat 8 c] "SLOFOLD-CTX"
  | none => (Config.randomKey (s.ctx c).draw).toNat
/-- The 16 bytes that protect a block: CRC-64, and on tiers 1 and 2 the KMAC tag (R101). -/
def State.sideBytes (s : State) (ctx pa : Nat) (blk : List Byte) : List Byte :=
  let crc := nbytes 8 (crc64 blk).toNat
  match region pa with
  | .tier t =>
    if t = 0 then crc ++ nbytes 8 0
    else
      let k := s.ctxKeys ctx
      let loc := (pa - tierBase t) / 4096 * 4096
      let ct := Config.xtsEncrypt (BitVec.ofNat 512 k) (BitVec.ofNat 128 (loc / 4096)) blk
      crc ++ nbytes 8 (Config.kmac256 (nbytes 64 (k / 2 ^ 512)) (nbytes 8 loc ++ ct) "SLOFOLD-SIDECAR")
  | _ => crc ++ nbytes 8 0

/-- What an engine's read, or write, of a block's sidecar entry meets (R195, R100). -/
def State.sideBad (s : State) (pa : Nat) (rd wr : Bool) : Option Bad := s.rawBad (sideAddr s pa) 16 rd wr
/-- R103: reads a whole protected block and checks it. -/
def State.checkBlock (s : State) (ctx pa : Nat) : Option Bad :=
  let b := blockOf pa
  match s.sideBad b true false with
  | some x => some (if x.code = .uncorrectable then badAt .uncorrectable b else x)
  | none =>
    if s.isBad b 4096 then some (badAt .uncorrectable b)
    else if s.rdN (sideAddr s b) 16 = s.sideBytes ctx b (s.rdN b 4096) then none else some (badAt .dataCrc b)
/-- Stores a block's entry for the bytes it holds. -/
def State.sealBlock (s : State) (ctx pa : Nat) : State :=
  let b := blockOf pa
  s.put (sideAddr s b) (s.sideBytes ctx b (s.rdN b 4096))
/-! Frame pools and references (R97, R98, R140, R165). -/

def State.bmpAddr (s : State) (t : Nat) : Nat := (s.scr.poolBmp.getD t 0).toNat
def State.refAddr (s : State) (t u : Nat) : Nat := (s.scr.poolRef.getD t 0).toNat + 4 * u
def State.refOf (s : State) (t u : Nat) : Nat := s.rdNat (s.refAddr t u) 4
def State.unitFree (s : State) (t u : Nat) : Bool := (s.rd (s.bmpAddr t + u / 8)).getLsbD (u % 8)
def State.setFree (s : State) (t u : Nat) (f : Bool) : State :=
  let a := s.bmpAddr t + u / 8
  let m : Byte := 1#8 <<< (u % 8)
  s.put a [if f then s.rd a ||| m else s.rd a &&& ~~~m]
/-- The free units of a tier, ascending: those whose bit is 1 in the bitmap. The sidecar area is never in a pool (R100). -/
def State.freeUnits (s : State) (t : Nat) : List Nat :=
  let b := s.bmpAddr t
  (s.mem.filter (fun c => decide (b ≤ c.1) && decide (c.1 < b + ceilDiv (s.tierFrames t) 8))).flatMap (fun c =>
    ((List.range 8).map (fun i => (i, 8 * (c.1 - b) + i))).filterMap (fun x => if c.2.getLsbD x.1 && decide (x.2 < s.sideFrame t) then some x.2 else none))
/-- The lowest run of n consecutive units of an ascending list. -/
def lowestRun (n : Nat) : List Nat → Nat → Nat → Option Nat
  | [], st, len => if len ≥ n && n > 0 then some st else none
  | u :: us, st, len =>
    if len ≥ n && n > 0 then some st
    else if len > 0 && u = st + len then lowestRun n us st (len + 1)
    else lowestRun n us u 1
/-- What the engine that serves an allocation meets in a tier's bitmap: the table refuses it, or a line of it is bad (R98, R195,
R215). -/
def State.bmpBad (s : State) (t : Nat) : Option Bad := s.rawBad (s.bmpAddr t) (ceilDiv (s.tierFrames t) 8) true true
/-- What an access to the reference of a run meets. -/
def State.refBad (s : State) (t u : Nat) : Option Bad := s.rawBad (s.refAddr t u) 4 true true
/-- What the engine meets as it writes a run of n units and their sidecar entries (R97, R102). -/
def State.runWriteBad (s : State) (t u n : Nat) : Option Bad :=
  (List.range n).findSome? (fun i =>
    let pa := tierBase t + 4096 * (u + i)
    if s.physOk pa 1 false true false then s.sideBad pa false true else some (s.denial pa 1 false true))
/-- What an allocation of a run meets in the arrays that it writes. -/
def State.takeBad (s : State) (t u n : Nat) : Option Bad :=
  match s.refBad t u with
  | some b => some b
  | none => s.runWriteBad t u n
/-- Takes the run out of the pool, zeroed, sealed and with one reference (R97, R165). -/
def State.takeRun (s : State) (ctx t u n : Nat) : State :=
  let pa := tierBase t + u * 4096
  let s := (List.range n).foldl (fun s i => s.setFree t (u + i) false) s
  let s := s.putNat (s.refAddr t u) 4 1
  let s := { (s.bump pa (4096 * n)) with mem := s.mem.filter (fun c => !(decide (pa ≤ c.1) && decide (c.1 < pa + 4096 * n))) }
  let s := { s with runs := aset s.runs (t, u) (n, ctx) }
  (List.range n).foldl (fun s i => s.sealBlock ctx (pa + 4096 * i)) s
def State.poolRun (s : State) (t n : Nat) : Option Nat :=
  if s.scr.poolEn.getD t false then lowestRun n (s.freeUnits t) 0 0 else none
/-- An allocation: granted at once when a run is free and no earlier request waits, else it waits in the
pool's FIFO (R140); a later call takes the run that POOL_ALLOCATION granted. A fault met in the pool's arrays is the asker's
(R196, R215). -/
def State.alloc (s : State) (who : Asker) (ctx t n : Nat) : Except Bad (Option Nat × State) :=
  match s.poolQ.find? (fun a => a.who = who) with
  | some a =>
    match a.got with
    | some u => .ok (some u, { s with poolQ := s.poolQ.filter (fun a => a.who ≠ who) })
    | none => .ok (none, s)
  | none =>
    let waits : State := { (s.count (some ctx) 0x1D 1) with poolQ := s.poolQ ++ [⟨who, ctx, t, n, none⟩] }
    if !s.scr.poolEn.getD t false then .ok (none, waits)
    else match s.bmpBad t with
      | some b => .error b
      | none =>
        match (if s.poolQ.any (fun a => a.tier = t && a.got.isNone) then none else s.poolRun t n) with
        | some u => match s.takeBad t u n with
          | some b => .error b
          | none => .ok (some u, s.takeRun ctx t u n)
        | none => .ok (none, waits)

/-! The dedup directory (R165, R166). -/

/-- The directory: its address and log2, as the registers hold them, or held them when a request was queued (R74). -/
abbrev Dir := DWord × Nat
def State.dir (s : State) : Dir := (s.scr.dedupBase, s.scr.dedupLog2)
def Dir.on (d : Dir) : Bool := d.1 != 0
def Dir.slot (d : Dir) (x k : Nat) : Nat := d.1.toNat + 16 * ((x + k) % 2 ^ d.2)
/-- What a lookup from a CRC, or a change of an entry, meets in the directory (R195, R215). -/
def State.dirBad (s : State) (d : Dir) (x : Nat) (wr : Bool) : Option Bad :=
  (List.range 16).findSome? (fun k => s.rawBad (d.slot x k) 16 true wr)
def dirValid (e : Nat) : Bool := e.testBit 127
def dirTomb (e : Nat) : Bool := e.testBit 126
def dirUnits (e : Nat) : Nat := e / 2 ^ 107 % 16
def dirTier (e : Nat) : Nat := e / 2 ^ 104 % 8
def dirFrame (e : Nat) : Nat := e / 2 ^ 64 % 2 ^ 40
def dirCrc (e : Nat) : Nat := e % 2 ^ 64
/-- The units of a run: as allocated, else as its holder's word says. -/
def State.runUnits (s : State) (t u n : Nat) : Nat := ((aget s.runs (t, u)).map (·.1)).getD n
/-- The first unit of a run whose entry does not match its content (R103). -/
def State.runBad (s : State) (ctx t u n : Nat) : Option Bad :=
  (List.range n).findSome? (fun i => let pa := tierBase t + 4096 * (u + i)
    s.checkBlock ctx pa)
/-- The context that a run was allocated for. -/
def State.runOwner (s : State) (t u : Nat) : Nat := ((aget s.runs (t, u)).map (·.2)).getD 63
/-- A fault that an engine meets on behalf of a run is its owner's (R93, R196). -/
def State.meet (s : State) (ctx : Nat) (b : Bad) : State :=
  { s with met := s.met ++ [{ id := 0, code := b.code, kind := .e, ctx := ctx, access := .engine, addr := b.addr }] }
/-- Marks as a tombstone the directory entry of a tier-0 run of n units, found by its present content (R165). Content
that does not match its entry is delivered nowhere, and is the owner's fault (R103), as is one met in the directory. -/
def State.dedupForget (s : State) (u n : Nat) : State :=
  if !s.dir.on then s
  else
    let m := s.runUnits 0 u n
    let ctx := s.runOwner 0 u
    let x := (crc64 (s.rdN (u * 4096) (4096 * m))).toNat
    match (s.runBad ctx 0 u m).or (s.dirBad s.dir x true) with
    | some b => s.meet ctx b
    | none =>
      match (List.range 16).find? (fun k => let e := s.rdNat (s.dir.slot x k) 16
          dirValid e && dirTier e = 0 && dirFrame e = u) with
      | some k => s.putNat (s.dir.slot x k) 16 (2 ^ 126)
      | none => s
/-- R165: one reference less; at 0 the run returns to its pool. n is its units where the device has not
recorded them. A fault met in the pool's arrays is the owner's, and the release changes nothing (R196, R215). -/
def State.releaseRun (s : State) (t u n : Nat) : State :=
  let r := s.refOf t u
  if t > 2 then s
  else if let some b := (s.refBad t u).or (if r = 1 then s.bmpBad t else none) then s.meet (s.runOwner t u) b
  else if r = 0 then s
  else if r > 1 then s.putNat (s.refAddr t u) 4 (r - 1)
  else
    let m := s.runUnits t u n
    let s := if t = 0 then s.dedupForget u n else s
    let s := s.putNat (s.refAddr t u) 4 0
    { ((List.range m).foldl (fun s i => s.setFree t (u + i) true) s) with runs := adel s.runs (t, u) }
/-- Drops allocations that wait or have been granted and not been used; granted runs go back. -/
def State.dropAllocs (s : State) (p : Alloc → Bool) : State :=
  let gone := s.poolQ.filter p
  let s := { s with poolQ := s.poolQ.filter (fun a => !p a) }
  gone.foldl (fun s a => match a.got with | some u => s.releaseRun a.tier u a.units | none => s) s
def Asker.ofWarp (a : Asker) (w : WarpKey) : Bool := match a with | .warp x _ => x = w | _ => false
/-- One reference more; none when the count is full. -/
def State.addRef (s : State) (t u : Nat) : Option State :=
  let r := s.refOf t u
  if r ≥ 0xFFFFFFFF then none else some (s.putNat (s.refAddr t u) 4 (r + 1))

/-! Copies in L1 (R84, R86), and what a commutative range holds (R121, R122). -/

/-- The copy that a core's L1 holds of a line, whichever context filled it: a physical line is the same to every context (log 93). -/
def State.l1Line (s : State) (core line : Nat) : Option L1Line := s.l1.find? (fun x => x.core = core && x.line = line)
def State.modL1 (s : State) (core line : Nat) (f : L1Line → L1Line) : State :=
  { s with l1 := s.l1.map (fun x => if x.core = core && x.line = line then f x else x) }
/-- Bytes of a line. -/
def L1Line.bytes (l : L1Line) (o n : Nat) : List Byte := ((nbytes 64 l.data.toNat).drop o).take n
def L1Line.put (l : L1Line) (o : Nat) (d : List Byte) : L1Line :=
  { l with data := BitVec.ofNat 512 (leNat ((patch (nbytes 64 l.data.toNat) o d).take 64)) }
/-- The part of a write that lies in a line, written into a copy of it. -/
def L1Line.cover (l : L1Line) (pa : Nat) (d : List Byte) : L1Line :=
  let b := 64 * l.line
  if pa + d.length ≤ b || b + 64 ≤ pa then l else if b ≤ pa then l.put (pa - b) d else l.put 0 (d.drop (b - pa))
/-- Partials that leave L1 are added, modulo 2^64, into the home's slots for their cores (R87). -/
def State.spill (s : State) (p : (Nat × Nat) → Partial → Bool) : State :=
  let gone := s.partials.filter (fun x => p x.1 x.2)
  { s with partials := s.partials.filter (fun x => !p x.1 x.2),
           crSlots := gone.foldl (fun l x => aset l x.1 ((aget l x.1).getD 0 + x.2.v)) s.crSlots }
/-- Lines of L1 that the array leaves when the crews of a core hold their scratchpads (Table 02.3). -/
def State.l1Lines (s : State) (core : Nat) : Nat :=
  (524288 - ((s.crews.filter (fun p => p.2.core? = some core)).map (fun p => s.scratchSize p.1)).sum) / 64
/-- Lines of a core's L1 that partials pin. -/
def State.pinned (s : State) (core : Nat) : Nat :=
  ((s.partials.filter (fun p => p.1.1 = core)).map (fun p => p.1.2 / 64)).dedup.length
/-- The first n lines of a core are dropped. -/
def dropOldest (core : Nat) : Nat → List L1Line → List L1Line
  | 0, l => l
  | _, [] => []
  | n + 1, x :: l => if x.core = core then dropOldest core n l else x :: dropOldest core (n + 1) l
/-- Room for n lines more in a core's L1: the lines held longest are replaced, never a pinned one (R87; log 65). -/
def State.makeRoom (s : State) (core n : Nat) : State :=
  let held := (s.l1.filter (fun x => x.core = core)).length
  { s with l1 := dropOldest core (held + s.pinned core + n - s.l1Lines core) s.l1 }
/-- Installs a line in L1 in place of any copy, where L1 has a line that is not pinned. -/
def State.install (s : State) (l : L1Line) : State :=
  let s := { s with l1 := s.l1.filter (fun x => !(x.core = l.core && x.line = l.line)),
                    badSpots := s.badSpots.filter (· != .l1 l.core l.line) }
  if s.l1Lines l.core ≤ s.pinned l.core then s
  else
    let s := s.makeRoom l.core 1
    { s with l1 := s.l1 ++ [l] }
/-- Array space of a core has been handed to a new scratchpad allotment: the lines in it are dropped, and partials go to
their slots, all of the core's where fewer lines are left than they pin (R26, R87; log 93). -/
def State.handOver (s : State) (core : Nat) : State :=
  let s := if s.l1Lines core < s.pinned core then s.spill (fun k _ => k.1 = core) else s
  s.makeRoom core 0
/-- A store or an atomic's result updates the core's own copies, and leaves their expiry (R86); a line that an answer is
bringing to the core takes it too, so that no copy is older than a store of its core (R109, R188). -/
def State.ownCopy (s : State) (core pa : Nat) (d : List Byte) : State :=
  { s with l1 := s.l1.map (fun x => if x.core = core then x.cover pa d else x),
           msgs := s.msgs.map (fun m => match m.k with
             | .answer e line ok l => if m.core = core then { m with k := .answer e line ok (l.cover pa d) } else m
             | _ => m) }

/-- Partials of an element: in the cores' L1s, and in the home's slots. -/
def State.partsOf (s : State) (e : Nat) : List (BitVec 64) :=
  (s.partials.filter (fun p => p.1.2 = e)).map (·.2.v) ++ (s.crSlots.filter (fun p => p.1.2 = e)).map (·.2)
/-- An element has no partials any more. -/
def State.dropParts (s : State) (e : Nat) : State :=
  { s with partials := s.partials.filter (fun p => p.1.2 ≠ e), crSlots := s.crSlots.filter (fun p => p.1.2 ≠ e) }
/-- What an 8-byte store to an element does before it sets it: the fold's value is lost, and the flag cleared (R122). -/
def State.clearElem (s : State) (e : Nat) : State := { s.dropParts e with crFlags := s.crFlags.filter (· ≠ e) }
/-- Folds an element: every core's partial, modulo 2^64 (R122). -/
def State.foldElem (s : State) (e : Nat) : State :=
  let ps := s.partsOf e
  if ps.isEmpty then s
  else (s.put e (nbytes 8 (ps.foldl (· + ·) (BitVec.ofNat 64 (s.rdNat e 8))).toNat)).dropParts e
/-- What a load of n bytes at a returns of a folded element (R122). -/
def State.rangeValue (s : State) (a n k : Nat) : Nat :=
  let e := a / 8 * 8
  let v : DWord := BitVec.ofNat 64 (s.rdNat e 8)
  if n = 8 then v.toNat
  else if a % 8 = 0 then (rne ((X.ofInt v.toInt).scale (-(k : Int)))).toNat
  else (s.crFlags.contains e).toNat

/-! Accesses of units and engines to a context's memory (R102, R103, R122, R196, R401). -/

/-- Who makes an access: TLB holder, context, user access, master class. -/
structure Master where (holder ctx : Nat) (user : Bool) (cls : Nat) deriving DecidableEq, Repr, Inhabited

/-- Splits n bytes at va at 4 KiB borders: pieces of address and length. -/
def pieces : Nat → Nat → Nat → List (Nat × Nat)
  | 0, _, _ => []
  | k + 1, va, n =>
    if n = 0 then [] else
      let c := min n (4096 - va % 4096)
      (va % 2 ^ 64, c) :: pieces k (va + c) (n - c)
/-- The physical place of one piece, checked for the master. -/
def State.unitAt (s : State) (u : Master) (va : Nat) (a : Acc) : Except Bad Tr := do
  let t ← s.xlate u.holder u.ctx (va % 2 ^ 64) u.user a
  let wr := a == .write || a == .atomic
  let rd := !wr || a == .atomic
  if !s.physOk t.pa u.cls rd wr false then .error (s.denial t.pa u.cls rd wr)
  if s.peerSilent t.pa then .error (badAt .uncorrectable t.pa)
  if s.peerBusy t.pa then .error { badAt .uncorrectable t.pa with busy := true }
  pure t
/-- A unit's or engine's write is applied at its home; of a write to a peer the settle message is still to come (R114,
R117). -/
def State.unitWrite (s : State) (u : Master) (pa : Nat) (d : List Byte) : Nat × State :=
  let (w, s) := s.homeWrite pa d
  match region pa with
  | .peer dev => (w, { s.send u.ctx 0 u.holder none (.settle dev 0) with out := { s.out with settles := s.nextId :: s.out.settles } })
  | _ => (w, s)
/-- The page is a commutative range: of a tier, with its attribute set (R121). -/
def Tr.isRange (t : Tr) : Bool := t.cr && (match region t.pa with | .tier _ => true | _ => false)
/-- The place of one page's part of a read: of a range a load takes 8 or 4 bytes (R122). -/
def State.readAt (s : State) (u : Master) (va n : Nat) : Except Bad Tr := do
  let t ← s.unitAt u va .read
  if t.isRange && !((n = 8 && t.pa % 8 = 0) || (n = 4 && t.pa % 4 = 0)) then .error (bad .misaligned)
  pure t
/-- One page's part of a read: as a load reads it (R122), and checked where it is protected (R103). -/
def State.readPiece (s : State) (u : Master) (check : Bool) (va n : Nat) : Except Bad (List Byte) := do
  let t ← s.readAt u va n
  if s.isBad t.pa n then .error (badAt .uncorrectable t.pa)
  if t.isRange then pure (nbytes n ((s.foldElem (t.pa / 8 * 8)).rangeValue t.pa n t.k))
  else
    if check && t.prot then
      if let some b := s.checkBlock u.ctx t.pa then .error b
    pure (s.rdN t.pa n)
def State.unitReadP (s : State) (u : Master) (check : Bool) : List (Nat × Nat) → Except Bad (List Byte)
  | [] => .ok []
  | (va, n) :: ps => do
    let d ← s.readPiece u check va n
    let r ← s.unitReadP u check ps
    pure (d ++ r)
/-- What some checks met. -/
def badsOf {α β : Type} (f : α → Except Bad β) (l : List α) : List Bad :=
  l.filterMap (fun x => match f x with | .error b => some b | .ok _ => none)
/-- Reads bytes: every page is translated and checked before the data of any (R211); `check` asks for the CRC of protected
blocks. -/
def State.unitRead (s : State) (u : Master) (va n : Nat) (check : Bool) : Except Bad (List Byte) :=
  let ps := pieces (n / 4096 + 2) va n
  match firstBad (badsOf (fun p => s.readAt u p.1 p.2) ps) with
  | some b => .error b
  | none => s.unitReadP u check ps
/-- L2 holds the lines of some bytes that are read at their homes (R90). -/
def State.touchLines (s : State) (pa n : Nat) : State :=
  match region pa with
  | .tier _ => (List.range ((pa + n - 1) / 64 + 1 - pa / 64)).foldl (fun s i => s.l2Touch (pa / 64 + i) false) s
  | _ => s
/-- What a read leaves at the homes: its lines are in L2, and the element of a commutative range is folded (R90, R122). -/
def State.sawPiece (s : State) (u : Master) (va n : Nat) : State :=
  match s.unitAt u va .read with
  | .ok t => (if t.isRange then s.foldElem (t.pa / 8 * 8) else s).touchLines t.pa n
  | .error _ => s
def State.sawRead (s : State) (u : Master) (va n : Nat) : State :=
  (pieces (n / 4096 + 2) va n).foldl (fun s p => s.sawPiece u p.1 p.2) s
/-- A read with what it leaves. -/
def State.takeRead (s : State) (u : Master) (va n : Nat) (check : Bool) : Except Bad (List Byte × State) := do
  let d ← s.unitRead u va n check
  pure (d, s.sawRead u va n)
def State.unitNat (s : State) (u : Master) (va n : Nat) : Except Bad Nat := leNat <$> s.unitRead u va n false

/-- A device unit's access to a record of a context, on some die's TLB. -/
def unitOf (ctx : Nat) (user : Bool) (va : Nat) : Master := ⟨128 + va / 64 % 4, ctx, user, 1⟩

/-- A device-scope store of a device unit, or of a core's operation at a home: a protected page or a range denies
it (R102, R122). It updates the copy of the core it is made for (R86). The answer holds the greatest WCT. -/
def State.storePiece (s : State) (u : Master) (core : Option Nat) (va : Nat) (d : List Byte) : Except Bad (Nat × State) := do
  let t ← s.unitAt u va .write
  if t.prot || (t.isRange && d.length != 8) then .error (badV .accessDenied t.level va)
  if s.isBad t.pa d.length then .error (badAt .uncorrectable t.pa)
  let s := match core with | some c => s.ownCopy c t.pa d | none => s
  if t.isRange then
    let e := t.pa / 8 * 8
    pure ((s.clearElem e).homeWrite t.pa d)
  else pure (s.unitWrite u t.pa d)
/-- The parts of a run of bytes, one page each. -/
def cutPages : Nat → Nat → List Byte → List (Nat × List Byte)
  | 0, _, _ => []
  | k + 1, va, d =>
    if d.isEmpty then [] else
      let c := min d.length (4096 - va % 4096)
      (va % 2 ^ 64, d.take c) :: cutPages k (va + c) (d.drop c)
def State.unitStoreP (s : State) (u : Master) (core : Option Nat) (w : Nat) : List (Nat × List Byte) → Except Bad (Nat × State)
  | [] => .ok (w, s)
  | (va, d) :: ps => do
    let (x, s) ← s.storePiece u core va d
    s.unitStoreP u core (max w x) ps
/-- A fault that a store met. -/
def asStore {α : Type} (r : Except Bad α) : Except Bad α :=
  match r with | .error b => .error { b with store := true } | .ok x => .ok x
def State.unitStore (s : State) (u : Master) (core : Option Nat) (va : Nat) (d : List Byte) : Except Bad (Nat × State) :=
  let ps := cutPages (d.length / 4096 + 2) va d
  asStore (match firstBad (badsOf (fun p => s.unitAt u p.1 .write) ps) with
    | some b => .error b
    | none => s.unitStoreP u core 0 ps)
/-- The copies of some bytes that a core's L1 holds, or that an answer is bringing it, are older than what a crew of the core has
acquired: the crew's loads find a Stale line there (R111, R112; log 87). -/
def L1Line.mark (l : L1Line) (k : CrewKey) (p : L1Line → Bool) : L1Line :=
  if p l && !l.behind.contains k then { l with behind := k :: l.behind } else l
def State.markL1 (s : State) (core : Nat) (k : CrewKey) (p : L1Line → Bool) : State :=
  { s with l1 := s.l1.map (fun l => if l.core = core then l.mark k p else l),
           msgs := s.msgs.map (fun m => match m.k with
             | .answer e line ok l => if m.core = core then { m with k := .answer e line ok (l.mark k p) } else m
             | _ => m) }
/-- Bytes lie in a line. -/
def L1Line.meets (l : L1Line) (puts : List (Nat × Nat)) : Bool := puts.any (fun p => p.1 < 64 * l.line + 64 && 64 * l.line < p.1 + p.2)

/-! Writes of the Shuttle engines (R102, R124, R166). -/

/-- An entry translates an address: a leaf of a 64 KiB page all of that page (R192, R360). -/
def TlbEntry.covers (e : TlbEntry) (va : Nat) : Bool :=
  e.tag = lvlTag e.level va || (e.level = 3 && e.word.getLsbD 6 && e.tag / 16 = lvlTag 3 va / 16)
def State.dropPage (s : State) (ctx va : Nat) : State :=
  { s with tlb := s.tlb.filter (fun e => !(e.ctx = ctx && e.covers va)) }
/-- The table of a level on the way to an address. -/
def State.tableAt (s : State) (ctx va level : Nat) : Nat :=
  (List.range level).foldl (fun t l => s.rdNat (t + 8 * lvlIndex l va) 8 / 4096 % 2 ^ 41 * 4096) (s.ctx ctx).desc.root
/-- The physical addresses of the entries that a leaf at a level has for an address: sixteen alike of a 64 KiB page
(R192). -/
def State.leafAddrs (s : State) (ctx va level : Nat) (ps64 : Bool) : List Nat :=
  let table := s.tableAt ctx va level
  let i := lvlIndex level va
  if ps64 then (List.range 16).map (fun j => table + 8 * (i / 16 * 16 + j)) else [table + 8 * i]
/-- What an engine meets as it finds and rewrites those entries (R195, R215). -/
def State.leafBad (s : State) (ctx va level : Nat) (ps64 : Bool) : Option Bad :=
  ((List.range level).findSome? (fun l => s.rawBad (s.tableAt ctx va l + 8 * lvlIndex l va) 8 true false)).or
    ((s.leafAddrs ctx va level ps64).findSome? (fun a => s.rawBad a 8 true true))
/-- A leaf entry with another physical address. -/
def setLeafPa (e frame : Nat) : Nat := e / 2 ^ 53 * 2 ^ 53 + frame * 4096 + e % 4096
/-- Units that a leaf maps. -/
def Tr.units (t : Tr) : Nat := if t.level = 3 then (if t.bit 6 then 16 else 1) else 2 ^ lvlShift t.level / 4096
/-- The run of an enabled pool that a leaf maps: tier and first unit. -/
def State.runOf (s : State) (t : Tr) : Option (Nat × Nat) :=
  match region t.pa with
  | .tier i => if s.scr.poolEn.getD i false then some (i, (t.pa - tierBase i) / 4096 / t.units * t.units) else none
  | _ => none
/-- The run that a leaf maps where it has other references: an engine's write copies it first (R166; log 30). -/
def State.sharedRun (s : State) (t : Tr) : Option (Nat × Nat) := (s.runOf t).filter (fun r => 1 < s.refOf r.1 r.2)
/-- What the read of a whole run through a leaf meets: a protected one is checked (R103, R215). -/
def State.runReadBad (s : State) (ctx : Nat) (t : Tr) (i u : Nat) : Option Bad :=
  if t.prot then s.runBad ctx i u t.units
  else if s.isBad (tierBase i + 4096 * u) (4096 * t.units) then some (badAt .uncorrectable (tierBase i + 4096 * u)) else none
/-- Copy-on-write of the page of an address, where it is shared (R166). The answer is false while frames are
awaited (R140). -/
def State.unshare (s : State) (u : Master) (who : Asker) (va : Nat) : Except Bad (Bool × State) := do
  let t ← s.unitAt u va .write
  if t.isRange then .error (badV .accessDenied t.level va)
  if let some b := (s.runOf t).bind (fun r => s.refBad r.1 r.2) then .error b
  match s.sharedRun t with
  | none => pure (true, s)
  | some (i, f) =>
    let n := t.units
    let wide := t.level = 3 && t.bit 6
    if let some b := (s.runReadBad u.ctx t i f).or (s.leafBad u.ctx va t.level wide) then .error b
    match ← s.alloc who u.ctx i n with
    | (none, s) => pure (false, s)
    | (some nf, s) =>
      let s := (s.count (some u.ctx) 0x18 1).put (tierBase i + nf * 4096) (s.rdN (tierBase i + f * 4096) (4096 * n))
      let s := (List.range n).foldl (fun s j => s.sealBlock u.ctx (tierBase i + 4096 * (nf + j))) s
      let s := (s.leafAddrs u.ctx va t.level wide).foldl
        (fun s la => s.putNat la 8 (setLeafPa (s.rdNat la 8) (tierBase i / 4096 + nf))) s
      pure (true, (s.dropPage u.ctx va).releaseRun i f n)
def State.unshareP (s : State) (u : Master) (who : Asker) : List Nat → Except Bad (Bool × State)
  | [] => .ok (true, s)
  | va :: vs => do
    match ← s.unshare u who va with
    | (false, s) => pure (false, s)
    | (true, s) => s.unshareP u who vs
/-- The parts of a transfer that lie in one page, together, each at its address; pages in the order they are met. -/
def byPage (ps : List (Nat × List Byte)) : List (Nat × List (Nat × List Byte)) :=
  ps.foldl (fun l p => aset l (p.1 / 4096) (((aget l (p.1 / 4096)).getD []) ++ [p])) []
/-- The parts write n bytes of their block from byte i up. -/
def coversFrom (ps : List (Nat × List Byte)) (i : Nat) : Nat → Bool
  | 0 => true
  | n + 1 => ps.any (fun p => p.1 % 4096 ≤ i && i < p.1 % 4096 + p.2.length) && coversFrom ps (i + 1) n
/-- The parts write every byte of their block. -/
def wholeBlock (ps : List (Nat × List Byte)) : Bool := coversFrom ps 0 4096
/-- R102: a Shuttle write of some parts of one protected block: check unless they are the whole, merge, entry. -/
def State.protWrite (s : State) (ctx pa : Nat) (ps : List (Nat × List Byte)) : Except Bad (Nat × State) :=
  match (if wholeBlock ps then none else s.checkBlock ctx pa).or (s.sideBad pa false true) with
  | some b => .error b
  | none =>
    let (w, s) := ps.foldl (fun (a : Nat × State) p =>
      let (x, s) := a.2.homeWrite (blockOf pa + p.1 % 4096) p.2
      (max a.1 x, s)) (0, s)
    .ok (w, s.sealBlock ctx pa)
/-- The parts of an engine's write that lie in one page: a run of one reference loses its directory entry (R166); protected blocks
are checked, merged and sealed. -/
def State.enginePut (s : State) (u : Master) (va : Nat) (ps : List (Nat × List Byte)) : Except Bad (Nat × State) := do
  let t ← s.unitAt u va .write
  if t.isRange then .error (badV .accessDenied t.level va)
  if ps.any (fun p => s.isBad (blockOf t.pa + p.1 % 4096) p.2.length) then .error (badAt .uncorrectable t.pa)
  if let some b := (s.runOf t).bind (fun r => s.refBad r.1 r.2) then .error b
  let s := match s.runOf t with
    | some (0, f) => if s.refOf 0 f = 1 then s.dedupForget f t.units else s
    | _ => s
  if t.prot then s.protWrite u.ctx t.pa ps
  else
    pure (ps.foldl (fun (a : Nat × State) p =>
      let (x, s) := a.2.unitWrite u (blockOf t.pa + p.1 % 4096) p.2
      (max a.1 x, s)) (0, s))
def State.enginePutP (s : State) (u : Master) (w : Nat) : List (Nat × List (Nat × List Byte)) → Except Bad (Nat × State)
  | [] => .ok (w, s)
  | (_, ps) :: l => do
    let (x, s) ← s.enginePut u ((ps.headD (0, [])).1) ps
    s.enginePutP u (max w x) l
/-- Writes parts by a Shuttle engine: every shared page is made private, then every part lands, or none does. The
answer holds the greatest WCT, none while frames are awaited. -/
def State.engineWriteP (s : State) (u : Master) (who : Asker) (ps : List (Nat × List Byte)) : Except Bad (Option Nat × State) := do
  let ps := ps.flatMap (fun p => cutPages (p.2.length / 4096 + 2) p.1 p.2)
  match ← s.unshareP u who (ps.map (·.1)) with
  | (false, s) => pure (none, s)
  | (true, s) =>
    let (w, s) ← s.enginePutP u 0 (byPage ps)
    pure (some w, s)
def State.engineWrite (s : State) (u : Master) (who : Asker) (va : Nat) (d : List Byte) : Except Bad (Option Nat × State) :=
  s.engineWriteP u who [(va, d)]

end Sys2Proof.Machine
end

