-- ==== Sys2Proof/Machine/Ops.lean ====
section
/-! DEFINITION. The named operations that instructions and events share: issue and retirement, taking an
exception and returning from one, kills, events in flight, barriers, REGANG, the sibling ballot, exits,
launches' ends and the completion ring. -/

namespace Sys2Proof.Machine

abbrev Out := Host.Outcome State Fault Refusal

def Code.num : Code → Nat
  | .illegalInstruction => 0x01 | .fetchBoundary => 0x02 | .privilege => 0x03 | .misaligned => 0x04
  | .pageFault => 0x05 | .accessDenied => 0x06 | .dataCrc => 0x07 | .uncorrectable => 0x08
  | .scratchRange => 0x09 | .accumRange => 0x0A | .scaleLayout => 0x0B | .kvFormat => 0x0C
  | .divStackOverflow => 0x0D | .regangCycle => 0x0E | .pairState => 0x0F | .spoolState => 0x10
  | .eventArea => 0x11 | .groupSlot => 0x12 | .sibState => 0x13 | .watchdog => 0x14 | .trap => 0x15
  | .bkpt => 0x16 | .kill => 0x17 | .layoutRecord => 0x18 | .regRange => 0x19 | .addrRange => 0x1A
def FKindOf.num : FKindOf → Nat
  | .p => 0 | .h => 1 | .e => 2 | .l => 3
def Acc.num : Acc → Nat
  | .read => 0 | .write => 1 | .atomic => 2 | .fetch => 3 | .engine => 4 | .none => 5
/-- Table 11.1: PAGE_FAULT is held and replayable, every other fault of a core is precise. -/
def Code.kind (c : Code) : FKindOf := if c = .pageFault then .h else .p

/-- The lanes of a list as a mask. -/
def maskOf (l : List Nat) : Nat := l.foldl (fun m i => m ||| 2 ^ i) 0

/-! The completion ring (R385, R386). -/

def complBytes (n size : Nat) (c : Compl) : List Byte :=
  nbytes 2 c.tag ++ nbytes 1 c.op ++ nbytes 1 c.status ++ nbytes 1 c.code ++ nbytes 1 c.lane ++
    nbytes 1 ((n / size + 1) % 2) ++ nbytes 1 0 ++ nbytes 8 c.value.toNat ++ nbytes 16 c.gtag.toNat

/-- A range of host memory that the mailbox engine may read, or write (R195). -/
def State.hostAllows (s : State) (h n : Nat) (rd wr : Bool) : Bool :=
  decide (h + n ≤ 2 ^ 46) && (List.range ((h % 4096 + n + 4095) / 4096)).all (fun i => s.accAllows (hostBase + h + 4096 * i) 2 rd wr)
/-- Writes the waiting records that the ring has room for, in the order they were raised. A record whose write the access
table refuses is lost, and a count that may not be read leaves no room (log 58). -/
def State.pumpList (s : State) : List Compl → State
  | [] => { s with compQ := [] }
  | c :: cs =>
    match s.session with
    | none => { s with compQ := [] }
    | some x =>
      let cnt := s.rdNat (hostBase + x.ring + 32 * x.size) 8
      let room := x.next < x.size || (s.hostAllows (x.ring + 32 * x.size) 8 true false && x.next - cnt < x.size)
      let at_ := x.ring + 32 * (x.next % x.size)
      if !room then { s with compQ := c :: cs }
      else
        let s := if s.hostAllows at_ 32 false true then s.put (hostBase + at_) (complBytes x.next x.size c) else s
        { s with session := some { x with next := x.next + 1 } }.pumpList cs
def State.pump (s : State) : State := s.pumpList s.compQ
def State.complete (s : State) (c : Compl) : State := { s with compQ := s.compQ ++ [c] }.pump
/-- A notice with no command (Table 21.4). -/
def State.notice (s : State) (code value : Nat) : State :=
  s.complete ⟨0xFFFF, 0, 0x08, code, 0, BitVec.ofNat 64 value, 0⟩

/-! Events in flight (R172). -/

/-- An update of an event sets out for the event's home. -/
def State.sendEvent (s : State) (ctx name : Nat) (set_ : Bool) (v : Word) : State :=
  s.send ctx 0 (181 + name % 4) none (.event name set_ v)

/-! Clearing entries (R187 to R189). -/

def State.strikeWarp (s : State) (k : WarpKey) : State :=
  let n := (s.clearing.filter (fun e => e.warp = k && e.st != .struck)).length
  let s := if n = 0 then s else s.count (some k.crew.ctx) 0x0C n
  { s with clearing := s.clearing.map (fun e => if e.warp = k then { e with st := .struck } else e) }
def State.dropEntries (s : State) (k : WarpKey) : State :=
  { s with clearing := s.clearing.filter (fun e => e.warp ≠ k) }

/-! Kills (R225, R226). -/

/-- The first part of a kill: issue stops (every issue asks the context), saved crews and queued requests are
discarded, L1 lines of the context are dropped. -/
def State.startKill (s : State) (c : Nat) (code : Option Code) (lanes : List (Nat × Nat)) : State :=
  match (s.ctx c).kill with
  | some k => s.modCtx c (fun x => { x with kill := some { k with lanes := k.lanes ++ lanes } })
  | none =>
    let s := s.modCtx c (fun x => { x with kill := some ⟨code, lanes⟩, sweep := none })
    let caps (p : WarpKey × Warp) : List (WarpKey × Capture) := if p.1.crew.ctx = c then p.2.caps.map (fun x => (p.1, x)) else []
    let bare (p : WarpKey × Warp) : WarpKey × Warp := if p.1.crew.ctx = c then (p.1, { p.2 with caps := [] }) else p
    let s := { s with orphans := s.orphans ++ s.warps.flatMap caps, warps := s.warps.map bare }
    let s := (s.dropAllocs (fun a => a.ctx = c)).spill (fun _ p => p.ctx = c)
    let saved (p : CrewKey × Crew) : Bool := p.1.ctx = c && (match p.2.seat with | .saved _ _ => true | _ => false)
    let gone := (s.crews.filter saved).map (·.1)
    { s with
      crews := s.crews.filter (fun p => !saved p),
      warps := s.warps.filter (fun p => !gone.contains p.1.crew),
      reqs := s.reqs.filter (fun r => !(r.ctx = c && (match r.st with | .done _ _ => false | _ => true))),
      l1 := s.l1.filter (fun l => l.ctx ≠ c),
      unheard := s.unheard.filter (fun x => match x.1 with
        | .demand d => !((s.demreqs.find? (fun r => r.die = d)).any (fun r => r.ctx = c))
        | _ => true),
      demreqs := s.demreqs.filter (fun d => d.ctx ≠ c),
      staging := s.staging.filter (fun d => d.ctx ≠ c),
      faultQ := s.faultQ.filter (fun r => r.ctx ≠ c),
      lanes := s.lanes.map (fun l => l.map (fun x => if x.ctx = c then { x with killed := true } else x)) }

/-- A kill that a fault causes; of the supervisor context it is the recovery state (R208, R393). -/
def State.killFor (s : State) (c : Nat) (code : Code) : State :=
  if c = 63 then { s with phase := .recovery } else s.startKill c (some code) []
def State.killing (s : State) (c : Nat) : Bool := (s.ctx c).kill.isSome

/-! Reports and taking an exception (R207 to R213). -/

def State.queueReport (s : State) (r : Report) : State :=
  { s with faultQ := s.faultQ ++ [{ r with id := s.nextId, time := s.time }], nextId := s.nextId + 1 }
/-- An uncorrectable error that a request of a context meets is counted (R93, Table 10.2). -/
def State.eccCount (s : State) (c : Nat) (code : Code) : State := if code = .uncorrectable then s.count (some c) 0x1A 1 else s
/-- Whether a fault of a context cannot be delivered (R208). -/
def State.undelivered (s : State) (c : Nat) (priv : Bool) : Bool := priv || (s.ctx c).desc.faultRing = 0
/-- A report that is no warp's: it is queued, or kills the context (R208, R214). The die is that of the unit (log 74). -/
def State.reportFor (s : State) (r : Report) : State :=
  let s := s.eccCount r.ctx r.code
  if s.undelivered r.ctx false then s.killFor r.ctx r.code else s.queueReport r

/-- What a faulting instruction met (R209 to R211): `met` where a request of its met it, and counted it, before; `refused` and
`busy` as in Bad. -/
structure Fx where
  code : Code
  acc : Acc := .none
  addr : Nat := 0
  level : Nat := 0xFF
  lanes : List Nat := []
  met : Bool := false
  refused : Bool := false
  busy : Bool := false
  deriving DecidableEq, Repr, Inhabited

/-- A fault of an access, as its instruction met it: an access of the kind given, or a store to a record (R212). -/
def Bad.fx (b : Bad) (a : Acc) (lanes : List Nat) : Fx :=
  { code := b.code, acc := if b.store then .write else a, addr := b.addr, level := b.level, lanes := lanes, refused := b.refused, busy := b.busy }

/-! Accesses of units to peers that do not answer, or that go behind earlier ones (R109, R392; log 73). -/

/-- An access of a unit is made again: it goes behind earlier ones of the device, or its peer has not answered for less than
10,000,000 ticks. None where it has met a fault. -/
def State.later (s : State) (who : Caller) (b : Bad) : Option State :=
  if b.busy then some s
  else if b.code = .uncorrectable && s.peerSilent b.addr then
    let t := (aget s.unheard who).getD s.time
    if s.time < t + 10000000 then some { s with unheard := aset s.unheard who t } else none
  else none
/-- An access of a unit has come to its end. -/
def State.answered (s : State) (who : Caller) : State := { s with unheard := adel s.unheard who }

/-- The report of a warp's fault (Table 11.2). -/
def State.warpReport (s : State) (g : Cur) (f : Fx) : Report :=
  let w := s.warp g.warp
  { id := 0, code := f.code, kind := f.code.kind, ctx := g.ctx, level := f.level, core := s.coreOf g.warp,
    die := s.coreOf g.warp / 32, slot := w.slot, slices := g.slices.toNat, access := f.acc, lanes := maskOf f.lanes, launch := g.crewK.launch,
    crew := g.crewK.crew, pc := (w.slice g.gang.slice).pc.toNat, addr := f.addr, warp := some g.warp }

/-- An instruction of a slice waits no longer for what held it up; the next issue reads operands anew. -/
def Slice.unblock (x : Slice) : Slice := { x with wait := if x.wait.isRetry then .none else x.wait, tried := false }
/-- Taking an exception: the warp is held at the faulting instruction, whole, until its report is resolved
(R210); its Clearing entries are struck (R187) and its reuse latch emptied (R68); the report is queued with
the pc of the instruction, the gang and the lanes (R212), or, where it cannot be delivered, the context is
killed (R208). The pc does not move: the handler is another warp. -/
def State.takeFault (s : State) (g : Cur) (f : Fx) : State :=
  let s := if f.met then s else s.eccCount g.ctx f.code
  let r := s.warpReport g f
  let held : Held := ⟨s.nextId, f.code, f.code.kind, g.slices, g.len⟩
  let s' := (s.modWarp g.warp (fun w => { (w.modSlices g.slices Slice.unblock) with
    held := some held, latch := [none, none, none], place := .creel })).strikeWarp g.warp |>.dropAllocs (fun a => a.who.ofWarp g.warp)
  if s.undelivered g.ctx (s.privOf g.warp) then s'.killFor g.ctx f.code else s'.queueReport r

/-- The gang waits for what is named, its turn over (R135, R136, R217); of a warp that its own instruction has ended nothing
waits. -/
def State.waitIn (s : State) (g : Cur) (x : Wait) : State :=
  if (aget s.warps g.warp).isNone then s
  else s.modWarp g.warp (fun w => { (w.modSlices g.slices (fun y => { y with wait := x })) with lastGang := g.gang.slice, passedIssue := 0 })

/-! Lanes and guards (R65, R251). -/

def guardAt (w : Warp) (h : Hdr) (l : Nat) : Bool :=
  match h.guard with
  | none => true
  | some g => (w.rg g.reg.toNat l).getLsbD g.bit.toNat != g.neg
/-- The lanes of the gang that take part. -/
def State.taking (s : State) (g : Cur) (h : Hdr) : List Nat :=
  let w := s.warp g.warp
  (w.active g.slices).filter (guardAt w h)
def State.activeOf (s : State) (g : Cur) : List Nat := (s.warp g.warp).active g.slices

/-! Retirement (R201, R203, R183, R184). -/

/-- The Teller entry that counts a crew's work after the decision: the crew belongs to a member other than
the representative. -/
def tellerCounts (t : Teller) (k : CrewKey) : Bool :=
  t.decided && t.ctx = k.ctx && t.launch = k.launch &&
    t.members.any (fun m => m.crew = k.crew) &&
    (match t.winner with | some w => (t.members.getD w { crew := 0 }).crew ≠ k.crew | none => true)
/-- Progress of a launch that is not PERSISTENT sets its watchdog timer to 0 (R201). -/
def State.progress (s : State) (c l : Nat) : State :=
  match aget s.launches (c, l) with
  | some x => s.setLaunch c l (if x.packet.flags.getLsbD 1 then x else { x with timer := 0 })
  | none => s
/-- What the retirement of an instruction of a crew counts (R201, R203, R184). -/
def State.retireCount (s : State) (k : CrewKey) : State :=
  let s1 := (s.count (some k.ctx) 0x02 1).progress k.ctx k.launch
  let tell (p : Nat × Teller) : Nat × Teller :=
    if tellerCounts p.2 k then (p.1, { p.2 with instructions := (p.2.instructions + 1) % 2 ^ 64 }) else p
  { s1 with teller := s1.teller.map tell }
/-- The gang has had its turn (R136). -/
def Warp.issued (w : Warp) (g : Cur) : Warp := { w with lastGang := g.gang.slice, passedIssue := 0 }
/-- An instruction of a warp has issued: one of those that its pending results let by (R137). -/
def State.looked (s : State) (k : WarpKey) : State :=
  { s with pends := s.pends.map (fun p => if p.warp = k then { p with look := p.look - 1 } else p) }
/-- An instruction of the gang issues (R136). -/
def State.issued (s : State) (g : Cur) : State := (s.modWarp g.warp (fun w => w.issued g)).looked g.warp
/-- An instruction of the gang issues and retires. -/
def State.retire (s : State) (g : Cur) : State := (s.retireCount g.crewK).issued g

/-- The slices of the gang move past the instruction, or to their own next addresses; slices that part form
gangs of their own (R31). -/
def State.moveTo (s : State) (g : Cur) (f : Nat → Slice → Slice) : State :=
  s.modWarp g.warp (fun w =>
    ({ w with slices := w.slices.mapIdx (fun i x => if g.slices.getLsbD i then { f i (Slice.unblock x) with relDone := false } else x) }).part g.slices)
def State.advance (s : State) (g : Cur) : State :=
  s.moveTo g (fun _ x => { x with pc := x.pc + BitVec.ofNat 64 g.len })
/-- The instruction completes: it retires and the gang goes on after it. -/
def finish (s : State) (g : Cur) : Out := .next ((s.retire g).advance g)
/-- The instruction cannot issue yet, or not retire: nothing more of it takes effect until what it waits for is there;
`whole` of an instruction that keeps its warp out of issue (R135, R341). -/
def hold (s : State) (g : Cur) (b : Block) (whole : Bool := false) : Out := .next (s.waitIn g (.retry b whole))
/-- A table refuses the access that a device unit makes for an instruction: the context has a report of kind E, the unit's operation
changes nothing, and the instruction retires (R196; log 89). -/
def refuse (s : State) (g : Cur) (f : Fx) : Out :=
  finish (s.reportFor { id := 0, code := f.code, kind := .e, ctx := g.ctx, die := s.coreOf g.warp / 32, level := f.level, access := .engine,
                        launch := g.crewK.launch, crew := g.crewK.crew, addr := f.addr }) g
/-- A fault of the instruction in hand, as an outcome. An access that goes behind earlier ones of the device to a peer waits for
them (R109); one to a peer that does not answer faults only once 10,000,000 ticks have passed (R392). -/
def raise (s : State) (g : Cur) (f : Fx) (whole : Bool := false) : Out :=
  if f.busy then hold s g (.peer f.addr) whole
  else if f.refused then refuse s g f
  else if f.code = .uncorrectable && s.peerSilent f.addr then
    .next ((s.send g.ctx (s.coreOf g.warp) (s.coreOf g.warp) (some g.warp) (.unheard f.addr g.gang.slice)).waitIn g
      (.peer f.acc f.addr g.len (BitVec.ofNat 32 (maskOf f.lanes)) whole))
  else .next (s.takeFault g f)
/-- The gang's instruction is held by a full queue already. -/
def State.queueHeld (s : State) (g : Cur) : Bool :=
  match ((s.warp g.warp).slice g.gang.slice).wait with
  | .retry .pipe _ | .retry (.engine _ _) _ => true
  | _ => false
/-- The same for a full queue, counted once for the instruction (R138, R139, Table 10.2). -/
def holdQueue (s : State) (g : Cur) (b : Block) (whole : Bool := false) : Out :=
  hold (if s.queueHeld g then s else s.count (some g.ctx) 0x1E 1) g b whole
/-- A gang's wait ends: its instruction retires, and it goes on after it. -/
def State.endWait (s : State) (k : WarpKey) (i len : Nat) : State :=
  ((s.retireCount k.crew).looked k).modWarp k (fun w => w.modSlices (w.gangOf i) (fun x =>
    { x with wait := .none, stop := none, evSeq := none, relDone := false, tried := false, pc := x.pc + BitVec.ofNat 64 len }))

/-- The reuse latch after an instruction's reads: the operands whose RU bit is set (R68). -/
def latchOf (w : Warp) (i : Instr) : List (Option Latch) :=
  let f := i.fields
  let one (on : Bool) (r : Reg) : Option Latch :=
    if on then some ⟨r.toNat, (List.range 32).map (fun l => w.rg r.toNat l)⟩ else none
  match i.hdr with
  | some h => [one h.ruA f.a, one h.ruB f.b, one h.ruC f.c]
  | none => [none, none, none]

/-- The instructions that read register D as an operand. -/
def readsD : Instr → Bool
  | .st _ | .st96i _ | .stl _ | .stl96i _ | .sts _ | .sts96i _ | .cpa _ | .tcopy _ | .tcred _ | .dcopy _ | .attn _ | .plop _ => true
  | _ => false
/-- The register operands that an instruction reads, one for each position: first register and count (R64, R67). -/
def sourcesOf (i : Instr) : List (Nat × Nat) :=
  let r := i.fields
  let u := i.use
  ((if readsD i then [(r.d.toNat, u.d)] else []) ++ [(r.a.toNat, u.a), (r.b.toNat, u.b), (r.c.toNat, u.c), (r.e.toNat, u.e),
    (r.f.toNat, u.f), (r.g.toNat, u.g)]).filter (fun p => p.2 != 0)
/-- The taking-part lanes in which an operand of an instruction holds an uncorrectable error (R93; log 71). -/
def State.badLanes (s : State) (g : Cur) (i : Instr) : List Nat :=
  let bad (l : Nat) : Bool := s.badSpots.any (fun x => match x with
    | .reg w k => w = g.warp && k % 32 = l && (sourcesOf i).any (fun p => p.1 ≤ k / 32 && k / 32 < p.1 + p.2)
    | _ => false)
  match i.hdr with | some h => (s.taking g h).filter bad | none => []

/-- Supervisor-only instructions: those the map marks S, and SREGW to %lease, the one register it can name (R206, R69). -/
def privileged (i : Instr) : Bool :=
  (match i.row with | some r => r.sup | none => false) || (match i with | .sregw _ => true | _ => false)

/-- The gang's instruction has met a fault of its own checks, has been cancelled, or is to be issued again. -/
def State.stopped (t s : State) (g : Cur) : Bool :=
  (t.warp g.warp).held.isSome || ((s.warp g.warp).pending && !(t.warp g.warp).pending) ||
    (match ((t.warp g.warp).slice g.gang.slice).wait with | .retry _ _ | .release _ _ | .peer _ _ _ _ _ => true | _ => false)
/-- Issue of a decoded instruction by the gang in hand: PRIVILEGE, then REG_RANGE (R206, R61, R211), then the instruction's own
meaning; where an operand is in error, which gives no value, UNCORRECTABLE comes behind the meaning's own checks and its
cancellation, and nothing else of it takes effect (R93, R211, R215; log 71). -/
def issue (i : Instr) (s : State) (k : Cur → State → Out) : Out :=
  match s.cur with
  | none => .fault .noIssuer
  | some g =>
    let lanes := match i.hdr with | some h => s.taking g h | none => []
    if privileged i && !s.privOf g.warp then raise s g { code := .privilege, lanes := lanes }
    else if i.regTop > 8 * (s.packetOf g.crewK).vregsDiv8 then raise s g { code := .regRange, lanes := lanes }
    else match s.badLanes g i with
      | [] => k g (s.modWarp g.warp (fun w => { w with latch := latchOf w i }))
      | l :: ls =>
        match k g s with
        | .next t => if t.stopped s g then .next t else raise s g { code := .uncorrectable, lanes := l :: ls }
        | o => o

/-- Errors of some words end as the words are written anew (R93). -/
def State.heal (s : State) (p : Spot → Bool) : State := { s with badSpots := s.badSpots.filter (fun x => !p x) }
/-- Writes registers of some lanes. -/
def State.wrLanes (s : State) (k : WarpKey) (l : List (Nat × Nat × Word)) : State :=
  (s.modWarp k (fun w => w.wrs l)).heal (fun x => match x with | .reg w n => w = k && l.any (fun p => 32 * p.1 + p.2.1 = n) | _ => false)

/-! Accesses of a warp that are still under way (R116). -/

def MsgKind.isWrite : MsgKind → Bool
  | .write _ _ _ | .atom _ _ _ _ _ _ | .cas _ _ _ _ _ _ | .ack _ | .scr _ _ _ => true
  | _ => false
/-- A write of the warp has not been acknowledged. -/
def State.writesOut (s : State) (k : WarpKey) : Bool := s.msgs.any (fun m => m.warp = some k && m.k.isWrite)
/-- An earlier load of the warp has not returned its value. -/
def State.loadsOut (s : State) (k : WarpKey) : Bool := s.pends.any (fun p => p.warp = k && p.load && p.left != 0)
/-- A peer write of the warp, or one that it has acquired from a slot, is not settled (R117, R116). -/
def State.unsettled (s : State) (k : WarpKey) : Bool :=
  s.msgs.any (fun m => match m.k with
    | .settle _ _ => m.warp = some k || (s.warp k).settles.contains m.id
    | .write _ _ (.peer _) => m.warp = some k
    | _ => false)
/-- A validation of the warp has not been answered, its entry being pending (R189). -/
def State.entriesPending (s : State) (k : WarpKey) : Bool := s.clearing.any (fun e => e.warp = k && e.st == .pending)
def State.crewHz (s : State) (k : WarpKey) : Nat := (s.crew k.crew).crewHz
/-- Table 06.3: a release of a scope by the warp would complete now. What precedes it has been performed, the warp's loads with
it, so that none returns what is written after it (R110, R111; log 88). -/
def State.relReady (s : State) (k : WarpKey) (sc : Scope) : Bool :=
  match sc with
  | .slice => true
  | .warp | .crew => !s.writesOut k && !s.loadsOut k
  | .device | .system =>
    !s.writesOut k && !s.loadsOut k && decide (max (s.warp k).whz (s.crewHz k) ≤ s.time) && !s.entriesPending k
  | .domain =>
    !s.writesOut k && !s.loadsOut k && decide (max (s.warp k).whz (s.crewHz k) ≤ s.time) && !s.entriesPending k && !s.unsettled k
/-- What the completion of a release changes (R115). -/
def State.relDo (s : State) (k : WarpKey) (sc : Scope) : State :=
  match sc with
  | .slice => s
  | .warp | .crew => s.modCrew k.crew (fun c => { c with crewHz := max c.crewHz (s.warp k).whz })
  | .device | .system | .domain => s.modWarp k (fun w => { w with whz := 0 })
/-- An instruction with a release in front of it: the release completes at once, has completed in a wait, or
the gang waits for it and issues the instruction again (R116, R346). -/
def withRelease (s : State) (g : Cur) (sc : Scope) (k : State → Out) (whole : Bool := false) : Out :=
  if ((s.warp g.warp).slice g.gang.slice).relDone then k s
  else if s.relReady g.warp sc then k (s.relDo g.warp sc)
  else .next (s.waitIn g (.release sc whole))

/-! REGANG (R33, R34). -/

/-- The slices that an evaluation releases: every slice their mask names has exited or is stopped at the same
pc with a mask that names them. -/
def Warp.regangFree (w : Warp) : List Nat :=
  (List.range 8).filter (fun i =>
    let x := w.slice i
    !x.exited && (match x.wait with
      | .regang m _ => (List.range 8).all (fun t => t = i || !m.getLsbD t || (w.slice t).exited ||
          (match (w.slice t).wait with
            | .regang n _ => (w.slice t).pc = x.pc && n.getLsbD i
            | _ => false))
      | _ => false))
def Slice.atRegang (x : Slice) : Bool := match x.wait with | .regang _ _ => true | _ => false
def Slice.regangMask (x : Slice) : Nat := match x.wait with | .regang m _ => m.toNat | _ => 0
def Slice.regangLen (x : Slice) : Nat := match x.wait with | .regang _ n => n | _ => 0
/-- Ends the stops of some slices: those at one pc form one gang and go on after the REGANG. -/
def Warp.regangGo (w : Warp) (free : List Nat) : Warp :=
  { w with
    slices := w.slices.mapIdx (fun i x =>
      if free.contains i then
        { x with wait := .none, stop := none, tried := false, gang := (free.find? (fun j => (w.slice j).pc = x.pc)).getD i,
                 pc := x.pc + BitVec.ofNat 64 x.regangLen }
      else x),
    latch := [none, none, none] }
/-- The report of a REGANG cycle (R34, R212). -/
def State.cycleReport (s : State) (k : WarpKey) : Report :=
  let w := s.warp k
  let st := (List.range 8).filter (fun i => !(w.slice i).exited)
  { id := 0, code := .regangCycle, kind := .p, ctx := k.crew.ctx, core := s.coreOf k, die := s.coreOf k / 32, slot := w.slot,
    slices := maskOf st, lanes := maskOf (w.active (BitVec.ofNat 8 (maskOf st))), launch := k.crew.launch,
    crew := k.crew.crew, pc := (w.slice (st.headD 0)).pc.toNat, warp := some k,
    masks := (List.range 8).map (fun i => if (w.slice i).exited then 0 else (w.slice i).regangMask),
    spcs := (List.range 8).map (fun i => if (w.slice i).exited then 0 else (w.slice i).pc.toNat) }
/-- Of the slices that an evaluation releases, those that go on now: where one of them has stopped for a pre-emption, all
at its pc wait for its return, so that the release comes out as without the pre-emption (R35, R217). -/
def Warp.regangNow (w : Warp) (free : List Nat) : List Nat :=
  free.filter (fun i => free.all (fun j => (w.slice j).pc ≠ (w.slice i).pc || (w.slice j).stop.isNone))
/-- Evaluates the REGANG stops of a warp: a crew-scope release and acquire joins the slices it gangs (R37), so
it waits for the warp's writes and loads; a warp whose live slices are all stopped and none free faults. -/
def State.regangEval (s : State) (k : WarpKey) : State :=
  let w := s.warp k
  if w.held.isSome || !(w.slices.any (fun x => !x.exited && x.atRegang)) || s.writesOut k || s.loadsOut k then s
  else
    let free := w.regangFree
    if free.isEmpty then
      if w.slices.all (fun x => x.exited || x.atRegang) then
        let held : Held := ⟨s.nextId, .regangCycle, .p, BitVec.ofNat 8 (s.cycleReport k).slices, 8⟩
        let s' := (s.modWarp k (fun w => { w with held := some held, latch := [none, none, none] })).strikeWarp k
        if s.undelivered k.crew.ctx (s.privOf k) then s'.killFor k.crew.ctx .regangCycle else s'.queueReport (s.cycleReport k)
      else s
    else
      match w.regangNow free with
      | [] => s
      | go => (s.modWarp k (fun w => w.regangGo go)).relDo k .crew

/-! Barriers (R343 to R345). -/

/-- Ends a barrier wait of every waiting gang of a warp: it goes on after the barrier instruction; `len` is the
length of the instruction of a wait at that barrier. -/
def State.barGo (s : State) (k : WarpKey) (len : Wait → Option Nat) : State :=
  (s.warp k).gangs.foldl (fun s i => match len ((s.warp k).slice i).wait with | some n => s.endWait k i n | none => s) s
def Wait.atCbar (n : Nat) : Wait → Option Nat
  | .cbar m len => if m = n then some len else .none
  | _ => .none
def Wait.atGbar (n : Nat) : Wait → Option Nat
  | .gbar m len => if m = n then some len else .none
  | _ => .none
def State.crewBarReady (s : State) (k : CrewKey) (b : Barrier) : Bool :=
  !b.arrived.isEmpty && (s.warpsOf k).all (fun w => (s.warp w).exited || b.arrived.contains w) &&
    b.arrived.all (fun w => !s.writesOut w && !s.loadsOut w)
def State.crewBarGo (s : State) (k : CrewKey) (n : Nat) (b : Barrier) : State :=
  let s := s.modCrew k (fun c => { c with bars := lset c.bars n ⟨b.gen + 1, []⟩ })
  b.arrived.foldl (fun s w => (s.relDo w .crew).barGo w (Wait.atCbar n)) s
def State.crewBars (s : State) (k : CrewKey) : State :=
  (List.range 8).foldl (fun s n =>
    let b := (s.crew k).bars.getD n ⟨0, []⟩
    if s.crewBarReady k b then s.crewBarGo k n b else s) s
/-- The warps of the member crews of a group that have not exited: its crews are placed together (R23), and those of a crew that has
retired have exited. -/
def State.groupWarps (s : State) (c l : Nat) (g : Group) : List WarpKey :=
  g.members.flatMap (fun m => (s.warpsOf ⟨c, l, m⟩).filter (fun w => (aget s.warps w).isSome && !(s.warp w).exited))
def State.groupBars (s : State) (c l : Nat) : State :=
  (List.range (s.launch c l).groups.length).foldl (fun s n =>
    let g := (s.launch c l).groups.getD n { sibling := false, members := [] }
    let b := g.bar
    if !g.sibling && !b.arrived.isEmpty && (s.groupWarps c l g).all b.arrived.contains &&
        b.arrived.all (fun w => s.relReady w .device && !s.loadsOut w) then
      let s := s.modLaunch c l (fun x => { x with groups := lset x.groups n { g with bar := ⟨b.gen + 1, []⟩ } })
      b.arrived.foldl (fun s w => (s.relDo w .device).barGo w (Wait.atGbar n)) s
    else s) s
/-- A slice of a warp outside a mask waits in a wait of a kind. -/
def Warp.waitsIn (w : Warp) (m : BitVec 8) (p : Wait → Bool) : Bool :=
  (List.range 8).any (fun i => !m.getLsbD i && !(w.slice i).exited && p (w.slice i).wait)
/-- Some slices of a warp leave the barriers they wait at: the warp's arrival is withdrawn where no other gang of it
waits there too (R217, R181, R344). -/
def State.withdraw (s : State) (k : WarpKey) (m : BitVec 8) : State :=
  let w := s.warp k
  let out (stays : Bool) (b : Barrier) : Barrier := if stays then b else { b with arrived := b.arrived.filter (· ≠ k) }
  let s := s.modCrew k.crew (fun c => { c with bars := c.bars.mapIdx (fun n b => out (w.waitsIn m (fun x => (Wait.atCbar n x).isSome)) b) })
  s.modLaunch k.crew.ctx k.crew.launch (fun x => { x with groups := x.groups.mapIdx (fun n g =>
    { g with bar := out (w.waitsIn m (fun x => (Wait.atGbar n x).isSome)) g.bar }) })

/-! The sibling ballot (R178, R181 to R183). -/

def State.modTeller (s : State) (i : Nat) (f : Teller → Teller) : State :=
  match aget s.teller i with
  | some t => { s with teller := aset s.teller i (f t) }
  | none => s
/-- The Teller entry and member index of a crew. -/
def State.memberOf (s : State) (k : CrewKey) : Option (Nat × Nat) :=
  match s.teller.find? (fun p => p.2.ctx = k.ctx && p.2.launch = k.launch && p.2.members.any (fun m => m.crew = k.crew)) with
  | some p => some (p.1, p.2.members.findIdx (fun m => m.crew = k.crew))
  | none => none
def Teller.modMember (t : Teller) (m : Nat) (f : Member → Member) : Teller :=
  { t with members := t.members.mapIdx (fun i x => if i = m then f x else x) }
def Member.over (m : Member) : Bool := m.st == .retired || m.st == .cancelled
/-- Sets PENDING for every warp of a member's crew; a member that is not resident becomes CANCELLED at once. -/
def State.setPending (s : State) (k : CrewKey) : State :=
  match aget s.crews k with
  | some _ => (s.warpsOf k).foldl (fun s w => if (s.warp w).exited then s else s.modWarp w (fun x => { x with pending := true })) s
  | none =>
    match s.memberOf k with
    | some (t, m) => s.modTeller t (fun x => x.modMember m (fun y => { y with st := .cancelled, wasCancelled := true }))
    | none => s
/-- Decides a vote (R178). -/
def State.decideVote (s : State) (i : Nat) (o : Outcome3) (h : DWord) : State :=
  match aget s.teller i with
  | none => s
  | some t =>
    let win := if o == .none then none else some (t.members.findIdx (fun m => m.hash = some h))
    let s := { s with teller := aset s.teller i { t with decided := true, outcome := o, winner := win, hash := if o == .none then 0 else h, decidedAt := s.time } }
    t.members.foldl (fun s m =>
      if m.over || (o != .none && m.hash = some h) then s else s.setPending ⟨t.ctx, t.launch, m.crew⟩) s
/-- The finish of a vote: every member is RETIRED or CANCELLED. Slots that tie go to the hash of the lowest
member that posted one of them. -/
def State.finishVote (s : State) (i : Nat) : State :=
  match aget s.teller i with
  | none => s
  | some t =>
    if t.decided || !t.members.all Member.over then s
    else
      let best := t.slots.foldl (fun m x => max m x.2) 0
      if best = 0 then s.decideVote i .none 0
      else
        let tied := (t.slots.filter (fun x => x.2 = best)).map (·.1)
        match t.members.find? (fun m => match m.hash with | some h => tied.contains h | none => false) with
        | some m => s.decideVote i .plurality (m.hash.getD 0)
        | none => s.decideVote i .none 0
/-- SIBPOST's status (Table 17.6). -/
def postStatus (count : Nat) (win : Bool) (status : Nat) : Word := BitVec.ofNat 32 (count * 65536 + win.toNat * 8 + status)
/-- A post in a Teller entry: the entry, its count, and whether the vote is decided by it (R177). -/
def Teller.post (t : Teller) (m : Nat) (h : DWord) : Teller × Nat × Bool × Bool :=
  let t := t.modMember m (fun x => { x with st := .posted, hash := some h })
  if t.decided then (t, 0, false, false)
  else
    let i := t.slots.findIdx (fun x => x.1 = h)
    if i < t.slots.length then
      let n := (t.slots.getD i (0, 0)).2 + 1
      ({ t with slots := lset t.slots i (h, n) }, n, n = t.q, true)
    else if t.slots.length < 8 then ({ t with slots := t.slots ++ [(h, 1)] }, 1, t.q = 1, true)
    else ({ t with other := t.other + 1 }, 0, false, false)
/-- The status of a post: late, other, or counted. -/
def postWord (late counted : Bool) (n : Nat) (t : Teller) (h : DWord) (quorum : Bool) : Word :=
  let win := t.decided && t.outcome != .none && t.hash = h
  if late then postStatus 0 win 2 else if !counted then postStatus 0 win 3 else postStatus n win (if quorum then 1 else 0)
/-- A warp of a member has PENDING set. -/
def State.memberPending (s : State) (t : Teller) (m : Nat) : Bool :=
  let k : CrewKey := ⟨t.ctx, t.launch, (t.members.getD m { crew := 0 }).crew⟩
  s.warps.any (fun p => p.1.crew = k && p.2.pending)
/-- A post is applied at the Teller; a member that was cancelled meanwhile, or is being cancelled, posts nothing that
counts (R182). -/
def State.applyPost (s : State) (i m : Nat) (h : DWord) (holds : List Nat) : State × Word :=
  match aget s.teller i with
  | none => (s, postStatus 0 false 2)
  | some t =>
    let t := t.modMember m (fun x => { x with holds := x.holds ++ holds })
    if (t.members.getD m { crew := 0 }).st != .running || (!t.decided && s.memberPending t m) then
      ({ s with teller := aset s.teller i t }, postWord true false 0 t h false)
    else
      let late := t.decided
      let (t1, n, q, counted) := t.post m h
      let s := { s with teller := aset s.teller i t1 }
      let s := if q then s.decideVote i .quorum h else s
      (s, postWord late counted n ((aget s.teller i).getD t1) h q)
/-- TELLER_POST's effect: a SIBPOST reaches the Teller, and its status its gang's lanes (R177, R351). -/
def State.postLands (s : State) (id : Nat) : MsgKind → State
  | .post t mem h holds pend lanes reg =>
    let (s, v) := (s.dropMsg id).applyPost t mem h holds
    s.modPend pend (fun p => { p with left := p.left - 1, writes := p.writes ++ lanes.map (fun l => (reg, l, v)) })
  | _ => s
/-- A post of a member that retires while the post is on its way reaches the Teller before the retirement does
(R177, R280). -/
def State.lastPost (s : State) (k : CrewKey) : State :=
  match s.memberOf k with
  | none => s
  | some (t, m) => s.msgs.foldl (fun s x => match x.k with
      | .post a b _ _ _ _ _ => if a = t && b = m then s.postLands x.id x.k else s
      | _ => s) s
/-- The accounting record (Table 09.6). -/
def acctBytes (t : Teller) : List Byte :=
  let o := match t.outcome with | .none => 0 | .quorum => 1 | .plurality => 2
  let losers := (List.range t.members.length).filter (fun i => t.winner ≠ some i)
  nbytes 4 o ++ nbytes 2 (t.winner.getD 0xFFFF) ++ nbytes 2 (t.members.filter (·.wasCancelled)).length ++
    nbytes 8 t.hash.toNat ++ nbytes 8 t.decidedAt ++ nbytes 8 t.instructions ++ nbytes 8 t.clocks ++
    nbytes 8 (losers.foldl (fun n i => n + (t.members.getD i { crew := 0 }).tokens) 0) ++ nbytes 4 t.pages ++
    nbytes 4 t.other ++ nbytes 8 0
/-- A holding that R180 releases has not been released yet. -/
def Teller.due (t : Teller) : Bool :=
  t.decided && t.outcome != .none &&
    (List.range t.members.length).any (fun j => t.winner != some j && !(t.members.getD j { crew := 0 }).holds.isEmpty)
/-- A store that a unit makes of its own: made, reported where it fails, or to be made again; with it goes the update of the
done_event that follows it. The answer says whether it has ended. -/
def State.makeStore (s : State) (x : OwnStore) : State × Bool :=
  let fin (s : State) : State :=
    let s := s.answered (.store x.id)
    match x.done with | some d => s.sendEvent x.ctx d false 1 | none => s
  match s.unitStore (unitOf x.ctx x.user x.va) none x.va x.data with
  | .ok (_, s) => (fin s, true)
  | .error b => match s.later (.store x.id) b with
    | some s => (s, false)
    | none => (fin (s.reportFor { x.report with code := b.code, level := b.level, addr := if x.report.addr = 0 then b.addr else x.report.addr }), true)
/-- The same for a new store, kept while it waits. -/
def State.ownStore (s : State) (x : OwnStore) : State :=
  let x := { x with id := s.nextId }
  match { s with nextId := s.nextId + 1 }.makeStore x with
  | (s, true) => s
  | (s, false) => { s with stores := s.stores ++ [x] }
/-- The stores that wait are made again, in their order; those of a context that is gone are not. -/
def State.retryStores (s : State) : State :=
  s.stores.foldl (fun s x =>
    if !s.hasCtx x.ctx then { s with stores := s.stores.filter (fun y => y.id ≠ x.id) }
    else match s.makeStore x with
      | (s, true) => { s with stores := s.stores.filter (fun y => y.id ≠ x.id) }
      | (s, false) => s) s
/-- The end of a group: its record is written, and its entry freed (R183). -/
def State.closeGroup (s : State) (i crew : Nat) (t : Teller) : State :=
  let s := { s with teller := adel s.teller i }
  if t.acct = 0 then s
  else s.ownStore ⟨0, t.ctx, t.acct.toNat, t.user, acctBytes t,
    { id := 0, code := .kill, kind := .e, ctx := t.ctx, die := i % 4, access := .engine, launch := t.launch, crew := crew }, none⟩
/-- Every long-latency instruction of a group's members has retired, and is in its counts (R184). -/
def State.memberQuiet (s : State) (t : Teller) : Bool :=
  !s.pends.any (fun p => p.warp.crew.ctx = t.ctx && p.warp.crew.launch = t.launch && t.members.any (fun m => m.crew = p.warp.crew.crew))
/-- A group ends when its last member has retired, once every holding of R180 is released and every result has landed, so that
the record's counts are those of the whole run (R183, R184). -/
def State.tryClose (s : State) (i crew : Nat) : State :=
  match aget s.teller i with
  | some t => if t.members.all (·.st == .retired) && !t.due && s.memberQuiet t then s.closeGroup i crew t else s
  | none => s
/-- A crew's member becomes RETIRED (R181, R183). -/
def State.retireMember (s : State) (k : CrewKey) : State :=
  match s.memberOf k with
  | none => s
  | some (i, m) => ((s.modTeller i (fun t => t.modMember m (fun x => { x with st := .retired }))).finishVote i).tryClose i k.crew

/-! Exits, retirement of crews, ends of launches (R19, R129, R280, R354). -/

/-- The status of a launch is stored or posted, and its done_event is then updated (R129, R354, R386). -/
def State.launchStatus (s : State) (c l code : Nat) (done : Option Nat) : State :=
  let signal (s : State) : State := match done with | some d => s.sendEvent c d false 1 | none => s
  match (s.launch c l).status with
  | .nowhere => signal s
  | .mailbox lane tag => signal (s.complete ⟨tag, 1, 0x06, code, lane, BitVec.ofNat 64 l, 0⟩)
  | .store va =>
    if va = 0 then signal s
    else s.ownStore ⟨0, c, va, false, nbytes 4 code,
      { id := 0, code := .kill, kind := .e, ctx := c, access := .write, launch := l, addr := va }, done⟩
/-- A launch ends: status, then done_event, then it is gone and its reservation free. -/
def State.endLaunch (s : State) (c l code : Nat) : State :=
  let d := (s.launch c l).packet.doneEvent
  let s := s.launchStatus c l code (if d != 0 && code != 0x0A then some d else none)
  { s with launches := adel s.launches (c, l),
           crews := s.crews.filter (fun p => !(p.1.ctx = c && p.1.launch = l)),
           warps := s.warps.filter (fun p => !(p.1.crew.ctx = c && p.1.crew.launch = l)) }
/-- A launch ends when its last crew has retired and the records of its groups are written (R129, R183). -/
def State.launchOver (s : State) (c l : Nat) : State :=
  if (s.launch c l).retired = (s.launch c l).packet.crewCount && !s.teller.any (fun p => p.2.ctx = c && p.2.launch = l)
  then s.endLaunch c l (s.launch c l).code else s
/-- A copy of a crew's scratchpad or tiles has been issued and is still to be made (R280). -/
def State.copying (s : State) (k : CrewKey) : Bool :=
  s.reqs.any (fun r => (match r.warp with | some w => w.crew = k | none => false) && (match r.st with | .done _ _ => false | _ => true))
/-- A crew's last warp has exited: its allotments return to the core; the last crew ends the launch. What its issued copies still
read of it is kept for them (R280). -/
def State.retireCrew (s : State) (k : CrewKey) : State :=
  let s := (s.lastPost k).retireMember k
  let s := { s with ghosts := if s.copying k then aset s.ghosts k (s.crew k) else s.ghosts }
  let s := { s with crews := adel s.crews k, warps := s.warps.filter (fun p => p.1.crew ≠ k) }
  (s.modLaunch k.ctx k.launch (fun x => { x with retired := x.retired + 1, resume := x.resume.filter (· ≠ k.crew) })).launchOver k.ctx k.launch
/-- After a warp's slices have all exited: its entries go, its captures are the device's to release, and the
crew may retire. Issued writes, copies and results complete on their own. -/
def State.warpGone (s : State) (k : WarpKey) : State :=
  if !(s.warp k).exited then s
  else
    let s := (s.dropEntries k)
    let s := { s with orphans := s.orphans ++ (s.warp k).caps.map (fun c => (k, c)) }
    let s := s.modWarp k (fun w => { w with caps := [] })
    if (s.warpsOf k.crew).all (fun w => (s.warp w).exited) then s.retireCrew k.crew else s
/-- The length of the JOIN at an address: 8, or 16 in the 128S form (R230); 8 where nothing can be read, an error among it
(R215). -/
def State.joinLen (s : State) (k : WarpKey) (pc : Nat) : Nat :=
  match s.walk (s.coreOf k) k.crew.ctx pc with
  | .ok t => if t.x2 || s.isBad t.pa 4 || s.rdNat t.pa 4 % 4 != 2 then 8 else 16
  | .error _ => 8
/-- exit_lanes of R29 for one slice, from its mask and stack after the lanes have left them; `len` is the length
of the JOIN at an address. -/
def exitLanes (len : Nat → Nat) : Nat → Slice → Slice
  | 0, x => { x with exited := true }
  | n + 1, x =>
    if x.mask != 0 then x
    else match x.stack with
      | [] => { x with exited := true }
      | e :: st =>
        if x.stack.length % 2 = 0 then exitLanes len n { x with pc := e.pc, mask := e.mask, stack := st }
        else exitLanes len n { x with pc := e.pc + BitVec.ofNat 64 (len e.pc.toNat), mask := e.mask, stack := st }
/-- Lanes of a slice exit: they leave its mask and every entry of its stack. -/
def Slice.exitMask (x : Slice) (len : Nat → Nat) (m : BitVec 4) : Slice :=
  exitLanes len (x.stack.length + 1) { x with mask := x.mask &&& ~~~m, stack := x.stack.map (fun e => { e with mask := e.mask &&& ~~~m }) }

/-! The value of an event (R171 to R174). -/

structure EvVal where (count : Word) (zseq lseq : BitVec 16) (task : DWord) deriving DecidableEq, Repr, Inhabited

/-- The event unit of an event's home makes accesses that no crew makes (R172, R401). -/
def evUnit (ctx name : Nat) : Master := ⟨128 + name % 4, ctx, false, 1⟩
def State.evVa (s : State) (ctx name : Nat) : Nat := ((s.ctx ctx).desc.eventArea + 16 * name) % 2 ^ 64
/-- The context has no event area. -/
def State.noEvents (s : State) (ctx : Nat) : Bool := (s.ctx ctx).desc.eventArea = 0
def State.evEntry (s : State) (ctx name : Nat) : Option EvEntry := s.evEntries.find? (fun e => e.ctx = ctx && e.name = name)
def evOf (b : List Byte) : EvVal :=
  ⟨BitVec.ofNat 32 (le32 b 0), BitVec.ofNat 16 (le16 b 4), BitVec.ofNat 16 (le16 b 6), BitVec.ofNat 64 (le64 b 8)⟩
def EvVal.bytes (v : EvVal) : List Byte :=
  nbytes 4 v.count.toNat ++ nbytes 2 v.zseq.toNat ++ nbytes 2 v.lseq.toNat ++ nbytes 8 v.task.toNat
/-- An event at its current place: its hardware entry, or its area word (R172). -/
def State.evRead (s : State) (ctx name : Nat) : Except Bad EvVal :=
  match s.evEntry ctx name with
  | some e => .ok ⟨e.count, e.zseq, e.lseq, e.task⟩
  | none => evOf <$> s.unitRead (evUnit ctx name) (s.evVa ctx name) 16 false
/-- L2 has seen the read of an event in its area (R90, Table 10.2). -/
def State.evSeen (s : State) (ctx name : Nat) : State :=
  if (s.evEntry ctx name).isSome then s else s.sawRead (evUnit ctx name) (s.evVa ctx name) 16
def State.evWrite (s : State) (ctx name : Nat) (v : EvVal) : Except Bad State :=
  match s.evEntry ctx name with
  | some _ => .ok { s with evEntries := s.evEntries.map (fun e =>
      if e.ctx = ctx && e.name = name then { e with count := v.count, zseq := v.zseq, lseq := v.lseq, task := v.task } else e) }
  | none => (·.2) <$> s.unitStore (evUnit ctx name) none (s.evVa ctx name) v.bytes
/-- An entry whose last waiter has left is written back and freed (R173). -/
def State.evFree (s : State) (ctx name : Nat) : Except Bad State :=
  match s.evEntry ctx name with
  | some e =>
    if e.waiters.isEmpty then
      ({ s with evEntries := s.evEntries.filter (fun x => !(x.ctx = ctx && x.name = name)) }).evWrite ctx name ⟨e.count, e.zseq, e.lseq, e.task⟩
    else .ok s
  | none => .ok s
/-- A unit that meets a fault in a context's area reports it (log 40). -/
def State.unitReport (s : State) (ctx die : Nat) (a : Acc) (b : Bad) : State :=
  s.reportFor { id := 0, code := b.code, kind := .e, ctx := ctx, die := die, level := b.level, access := a, addr := b.addr }
/-- Entries without a waiter are written back and freed (R173); one whose write waits for a peer stays until then (R392). -/
def State.freeEvents (s : State) : State :=
  ((s.evEntries.filter (fun e => e.waiters.isEmpty)).map (fun e => (e.ctx, e.name))).foldl (fun s e => match s.evFree e.1 e.2 with
    | .ok s => s.answered (.entry e.1 e.2)
    | .error b => match s.later (.entry e.1 e.2) b with
      | some s => s
      | none => ({ s with evEntries := s.evEntries.filter (fun x => !(x.ctx = e.1 && x.name = e.2)) }.answered (.entry e.1 e.2)).unitReport e.1 (e.2 % 4) .write b) s
/-- Some waiters leave the events they wait on, and entries without a waiter are freed (R173). -/
def State.leaveEvents (s : State) (k : WarpKey) (m : BitVec 8) : State :=
  let goes (g : GangKey) : Bool := g.warp = k && m.getLsbD g.slice
  ({ s with evEntries := s.evEntries.map (fun e => { e with waiters := e.waiters.filter (fun x => !goes x.gang) }),
             evOver := s.evOver.filter (fun o => !goes o.w.gang),
             msgs := s.msgs.filter (fun x => !(x.warp = some k && (match x.k with | .evwait _ _ g _ => m.getLsbD g | _ => false))) } : State).freeEvents
/-- Nothing of a warp waits any more for what no instruction of it waits for: its allocations, its KVSTEPs, its accesses
to silent peers. -/
def State.dropAsks (s : State) (k : WarpKey) : State :=
  let s := (s.dropAllocs (fun a => a.who.ofWarp k)).modCtx k.crew.ctx (fun c => { c with steps := c.steps.filter (fun r => r.warp ≠ k) })
  { s with msgs := s.msgs.filter (fun x => !(x.warp = some k && (match x.k with | .unheard _ _ => true | _ => false))) }
/-- Every lane of a warp exits. -/
def State.endWarp (s : State) (k : WarpKey) : State :=
  let s := ((s.withdraw k (BitVec.allOnes 8)).leaveEvents k (BitVec.allOnes 8)).dropAsks k
  (s.modWarp k (fun w => { w with slices := w.slices.map (fun x => { x with exited := true, mask := 0, stack := [], wait := .none, stop := none }), held := none })).warpGone k

/-! Cancellation (R181). -/

/-- The live mask of a warp that counts as stopped: that of every gang together (R217, R219). -/
def Warp.stoppedWith (w : Warp) : Option DWord :=
  if w.slices.all (fun x => x.exited || x.stop.isSome) then some (w.slices.foldl (fun m x => m ||| (x.stop.getD 0)) 0) else none
/-- A warp with PENDING set is cancelled; one that counts as stopped for a pre-emption stays so, and any other goes on whole,
until its next safe point or until it is stopped by force (R224). -/
def State.cancelWarp (s : State) (k : WarpKey) : State :=
  let s := (((s.dropEntries k).withdraw k (BitVec.allOnes 8)).leaveEvents k (BitVec.allOnes 8)).dropAsks k
  let s := { s with orphans := s.orphans ++ (s.warp k).caps.map (fun c => (k, c)) }
  let entry := (s.packetOf k.crew).cancelEntry
  let lead := ((List.range 8).find? (fun i => !((s.warp k).slice i).exited)).getD 0
  let s := s.modWarp k (fun w => { w with
      pending := false, cancelled := true, held := none, caps := [], latch := [none, none, none],
      batches := (w.unmark false).batches,
      slices := w.slices.map (fun x => if x.exited then x else
        { x with pc := entry, mask := x.live, stack := [], wait := .none, gang := lead, relDone := false, tried := false, evSeq := none,
                 stop := w.stoppedWith }) })
  let s := match s.memberOf k.crew with
    | some (t, m) => (s.modTeller t (fun x => x.modMember m (fun y => if y.st == .retired then y else { y with st := .cancelled, wasCancelled := true }))).finishVote t
    | none => s
  if entry = 0 then s.endWarp k else s
/-- A cancellation point: a warp whose PENDING is set is cancelled there and the instruction is not made. -/
def cancelPoint (s : State) (g : Cur) (k : Out) : Out :=
  if (s.warp g.warp).pending then .next (s.cancelWarp g.warp) else k
/-- A wait in an instruction that is a cancellation point. -/
def Wait.cancellable : Wait → Bool
  | .cbar _ _ | .gbar _ _ | .event _ _ _ | .retry (.spool _) _ | .retry (.batches _ _) _ => true
  | _ => false
/-- A warp with PENDING set that is already waiting at a cancellation point, held at a fault, stopped for a
pre-emption (every gang of it: R217, R224) or saved, is cancelled at once. -/
def State.cancelNow (s : State) (k : WarpKey) : Bool :=
  let w := s.warp k
  w.pending && !w.exited && (w.held.isSome ||
    w.slices.any (fun x => !x.exited && x.wait.cancellable) || w.slices.all (fun x => x.exited || x.stop.isSome) ||
    (match (s.crew k.crew).seat with | .saved _ _ => true | _ => false))

/-! What follows by itself from other changes. -/

/-- Cancels the warps that are to be cancelled at once, evaluates REGANG stops and barriers. -/
def State.settleOnce (s : State) : State :=
  let s := (s.warps.map (·.1)).foldl (fun s k => if s.cancelNow k then s.cancelWarp k else s) s
  let s := (s.warps.map (·.1)).foldl (fun s k => if (aget s.warps k).isSome then s.regangEval k else s) s
  let s := (s.crews.map (·.1)).foldl (fun s k => if (aget s.crews k).isSome then s.crewBars k else s) s
  (s.launches.map (·.1)).foldl (fun s k => if (aget s.launches k).isSome then s.groupBars k.1 k.2 else s) s
def State.settle (s : State) : State := s.settleOnce.settleOnce

/-! Return from an exception (R216, R358). -/

/-- The warp held on the report with a sequence number of a context. -/
def State.heldOn (s : State) (ctx seq : Nat) : Option (WarpKey × Held × Report) :=
  match aget (s.ctx ctx).delivered seq with
  | some r =>
    match s.warps.find? (fun p => p.1.crew.ctx = ctx && (match p.2.held with | some h => h.report = r.id | none => false)) with
    | some (k, w) => (w.held.map (fun h => (k, h, r)))
    | none => none
  | none => none
/-- RTE.RETRY: the instruction is issued again; for a REGANG cycle release is evaluated again. -/
def State.rteRetry (s : State) (k : WarpKey) : State := (s.modWarp k (fun w => { w.unmark false with held := none })).regangEval k
/-- RTE.NEXT: the gang goes on after the instruction, nothing of which takes effect; for a REGANG cycle every
stop ends as though release held. -/
def State.rteNext (s : State) (k : WarpKey) (h : Held) : State :=
  let w := s.warp k
  if h.code = .regangCycle then
    s.modWarp k (fun w => { (w.regangGo ((List.range 8).filter (fun i => !(w.slice i).exited))) with held := none })
  else if h.len = 0 then s.rteRetry k
  else
    s.setWarp k ({ w.unmark true with held := none, slices := w.slices.mapIdx (fun i x =>
      if h.slices.getLsbD i then { x with pc := x.pc + BitVec.ofNat 64 h.len, wait := .none, evSeq := none, relDone := false, tried := false } else x) })
def State.rteEnd (s : State) (k : WarpKey) : State := s.endWarp k

end Sys2Proof.Machine
end

