-- ==== Sys2Proof/Machine/Operands.lean ====
section
/-! DEFINITION. Operand forms: registers, pairs and uniform operands of a lane (R64, R66), packed elements
(R43, R253), and the shapes shared by instructions that compute lane by lane (R251). -/

namespace Sys2Proof.Machine

/-! Packed elements. -/

/-- The elements of a word, width w, element 0 lowest. -/
def elems (w : Nat) (x : Word) : List Nat := (List.range (32 / w)).map (fun j => x.toNat / 2 ^ (w * j) % 2 ^ w)
def packElems (w : Nat) (l : List Nat) : Word := BitVec.ofNat 32 (l.foldr (fun c r => c % 2 ^ w + 2 ^ w * r) 0)
def emap1 (w : Nat) (f : Nat → Nat) (a : Word) : Word := packElems w ((elems w a).map f)
def emap2 (w : Nat) (f : Nat → Nat → Nat) (a b : Word) : Word := packElems w (List.zipWith f (elems w a) (elems w b))
def emap3 (w : Nat) (f : Nat → Nat → Nat → Nat) (a b c : Word) : Word :=
  packElems w ((List.range (32 / w)).map (fun j => f ((elems w a).getD j 0) ((elems w b).getD j 0) ((elems w c).getD j 0)))
/-- Integer elements of a type: exact result reduced to the element's width (R253). -/
def imap2 (t : Ty) (sat : Bool) (f : Int → Int → Int) : Word → Word → Word :=
  let w := tyWidth t
  let g := tySigned t
  emap2 w (fun a b => reduce sat g w (f (intOf g w a) (intOf g w b)))
def imap3 (t : Ty) (sat : Bool) (f : Int → Int → Int → Int) : Word → Word → Word → Word :=
  let w := tyWidth t
  let g := tySigned t
  emap3 w (fun a b c => reduce sat g w (f (intOf g w a) (intOf g w b) (intOf g w c)))
/-- The format of a packed or scalar floating type. -/
def tyFmt (t : Ty) : Fmt := match tyKind t with | .float f => f | _ => fF32
/-- Floating elements of a type, rounded once to nearest with sat 0 (R262, R267). -/
def fmap2 (t : Ty) (f : X → X → X) : Word → Word → Word :=
  let m := tyFmt t
  emap2 (tyWidth t) (fun a b => enc m (.rm .rne) false (f (dec m a) (dec m b)))
def fmap3 (t : Ty) (rm : Rm) (f : X → X → X → X) : Word → Word → Word → Word :=
  let m := tyFmt t
  emap3 (tyWidth t) (fun a b c => enc m (.rm rm) false (f (dec m a) (dec m b) (dec m c)))

/-! Lane reads. -/

/-- The lowest active lane of a slice (R30, R66). -/
def Warp.lowLane (w : Warp) (i : Nat) : Option Nat :=
  ((List.range 4).find? (fun j => (w.slice i).mask.getLsbD j && !(w.slice i).exited)).map (fun j => 4 * i + j)
/-- A source operand of a lane; a uniform one is the value of the slice's lowest active lane (R66). -/
def Warp.src (w : Warp) (u : Bool) (r : Reg) (l : Nat) : Word :=
  if u then (match w.lowLane (l / 4) with | some k => w.rg r.toNat k | none => 0) else w.rg r.toNat l
def Warp.pair (w : Warp) (r : Reg) (l : Nat) : DWord := w.rg2 r.toNat l

/-- A source of one or two registers, uniform or not, as a number. -/
def Warp.srcN (w : Warp) (u : Bool) (regs : Nat) (r : Reg) (l : Nat) : Nat :=
  if regs = 2 then (DWord.ofHalves (w.src u r l) (w.src u (r + 1) l)).toNat else (w.src u r l).toNat

/-! Instructions that compute in each taking-part lane alone. -/

/-- Register writes of one lane: a word, or a pair (R64). -/
def outW (d : Reg) (v : Word) : List (Nat × Word) := [(d.toNat, v)]
def outP (d : Reg) (v : DWord) : List (Nat × Word) := [(d.toNat, v.lo), (d.toNat + 1, v.hi)]

/-- The writes of all taking-part lanes, every source read before (R251). -/
def laneWrites (w : Warp) (lanes : List Nat) (f : Warp → Nat → List (Nat × Word)) : List (Nat × Nat × Word) :=
  lanes.flatMap (fun l => (f w l).map (fun p => (p.1, l, p.2)))
/-- A lane-wise instruction: issues, writes its results, completes. -/
def laneOp (i : Instr) (h : Hdr) (f : Warp → Nat → List (Nat × Word)) (s : State) : Out :=
  issue i s fun g s => finish (s.wrLanes g.warp (laneWrites (s.warp g.warp) (s.taking g h) f)) g

/-- Writes words of a tile of a crew's accumulator store. -/
def putTile (m : Sparse 32) (k : Nat) : List (Nat × Word) → Sparse 32
  | [] => m
  | (i, v) :: l => putTile (sset m (32768 * k + i) v) k l
/-- A word of a tile, by 256 · row + column (R88). -/
def State.tileWord (s : State) (k : CrewKey) (t i : Nat) : Word := sget (s.crew k).tiles (32768 * t + i)
/-- Some n words of a tile from one on hold an error that cannot be corrected (R93, R104). -/
def State.tileBad (s : State) (k : CrewKey) (t i n : Nat) : Bool :=
  s.badSpots.any (fun x => match x with | .tile c w => c = k && 32768 * t + i ≤ w && w < 32768 * t + i + n | _ => false)
/-- Words of a tile are written anew. -/
def State.putTiles (s : State) (k : CrewKey) (t : Nat) (ws : List (Nat × Word)) : State :=
  (s.modCrew k (fun c => { c with tiles := putTile c.tiles t ws })).heal
    (fun x => match x with | .tile c n => c = k && ws.any (fun p => 32768 * t + p.1 = n) | _ => false)
/-- The group of a crew ends, and its launch, where nothing but a result was still due (R183, R184). -/
def State.closeAfter (s : State) (k : CrewKey) : State :=
  match s.memberOf k with
  | some (i, _) => if (aget s.crews k).isSome then s else (s.tryClose i k.crew).launchOver k.ctx k.launch
  | none => s
/-- The writes of a pending result land (R62), it leaves the scoreboard, and its instruction retires (R203). -/
def State.land (s : State) (p : Pend) : State :=
  let s := p.tiles.foldl (fun s t => if (aget s.crews t.1).isSome then s.putTiles t.1 t.2.1 t.2.2 else s) s
  let s := if (aget s.warps p.warp).isSome then s.wrLanes p.warp p.writes else s
  ({ s with pends := s.pends.filter (fun x => x.id ≠ p.id) }.retireCount p.warp.crew).closeAfter p.warp.crew

/-- A pending result joins the scoreboard as its instruction issues (R62, R137). -/
def State.pend (s : State) (p : Pend) : State := { s with pends := s.pends ++ [p] }
def pendOf (s : State) (g : Cur) (i : Instr) (regs : List Nat) : Pend :=
  { id := s.nextId, warp := g.warp, regs := regs, look := (match i.hdr with | some h => h.la.toNat | none => 0),
    pc := ((s.warp g.warp).slice g.gang.slice).pc.toNat, slices := g.slices, len := g.len }
/-- The gang goes on after an instruction whose destination stays pending; it retires as its result lands. -/
def finishPend (s : State) (g : Cur) (p : Pend) : Out :=
  .next ({ (((s.issued g).advance g).pend p) with nextId := s.nextId + 1 })
/-- A long-latency lane-wise instruction: its results land by a LONG_LATENCY_RESULT (R62, R265). -/
def longOp (i : Instr) (h : Hdr) (regs : List Nat) (f : Warp → Nat → List (Nat × Word)) (s : State) : Out :=
  issue i s fun g s => finishPend s g { pendOf s g i regs with
    writes := laneWrites (s.warp g.warp) (s.taking g h) f }

/-! The register shapes: 64 form, 96I form, 96C form. -/

def binOp (i : Instr) (f : Bin) (op : Word → Word → Word) : State → Out :=
  laneOp i f.h (fun w l => outW f.d (op (w.src false f.a l) (w.src f.m4 f.b l)))
def binImm (i : Instr) (f : BinI) (op : Word → Word → Word) : State → Out :=
  laneOp i f.h (fun w l => outW f.d (op (w.src false f.a l) f.imm))
def unOp (i : Instr) (f : Un) (op : Word → Word) : State → Out :=
  laneOp i f.h (fun w l => outW f.d (op (w.src false f.a l)))
def ternOp (i : Instr) (f : Tern) (op : Word → Word → Word → Word) : State → Out :=
  laneOp i f.h (fun w l => outW f.d (op (w.src false f.a l) (w.src f.ub f.b l) (w.src f.uc f.c l)))

end Sys2Proof.Machine
end

