-- ==== Sys2Proof/Machine/Flags.lean ====
section
/-! DEFINITION. Predicate bits and lane censuses (R258, R259, R264, R273). The machine has no flag register:
a compare or PLOP writes single bits of an ordinary register, and every other bit of it is unchanged. -/

namespace Sys2Proof.Machine

/-- Bit k of a word set to a value. -/
def setBit (x : Word) (k : Nat) (v : Bool) : Word :=
  if v then x ||| (1#32 <<< k) else x &&& ~~~(1#32 <<< k)
/-- Bits k and k + 1 written together (R258, R264). -/
def setBits2 (x : Word) (k : Nat) (v0 v1 : Bool) : Word := setBit (setBit x k v0) (k + 1) v1

/-- Less-than and equality of integers of a width (R258). -/
def icmpBits (sgn : Bool) (w : Nat) (a b : Nat) : Bool × Bool := (intOf sgn w a < intOf sgn w b, a = b)
/-- The two result pairs of FCMP: LTEQ and GTUN (R264). -/
def fcmpBits (gtun : Bool) (a b : X) : Bool × Bool :=
  if gtun then (b.lt a, a.isNan || b.isNan) else (a.lt b, a.eqv b)
/-- The operations of PLOP, of the old bit d and the bit a (R259). -/
def plopBit : POp → Bool → Bool → Bool
  | .and, d, a => d && a
  | .or, d, a => d || a
  | .xor, d, a => d != a
  | .andn, d, a => d && !a
  | .orn, d, a => d || !a
  | .nand, d, a => !(d && a)
  | .nor, d, a => !(d || a)
  | .xnor, d, a => d == a

/-- A compare: bits 2·k2 and 2·k2 + 1 of D in each taking-part lane. -/
def cmpOp (i : Instr) (f : Cmp) (bits : Warp → Nat → Bool × Bool) : State → Out :=
  laneOp i f.h (fun w l => let r := bits w l
    outW f.d (setBits2 (w.rg f.d.toNat l) (2 * f.k2.toNat) r.1 r.2))
def cmpImm (i : Instr) (f : CmpI) (bits : Warp → Nat → Bool × Bool) : State → Out :=
  laneOp i f.h (fun w l => let r := bits w l
    outW f.d (setBits2 (w.rg f.d.toNat l) (2 * f.k2.toNat) r.1 r.2))

/-- LPOLL's word of n lanes with the bit among m taking part (R273). -/
def pollWord (n m : Nat) : Word :=
  BitVec.ofNat 32 (n + (if n > 0 then 64 else 0) + (if n = m then 128 else 0) + (if n = 0 || n = m then 256 else 0))

/-- The class bit of an F32 (R266). -/
def fclassBit (x : Word) : Nat :=
  let e := x.toNat / 2 ^ 23 % 256
  let m := x.toNat % 2 ^ 23
  let n := x.getLsbD 31
  if e = 255 then (if m = 0 then (if n then 0 else 7) else if x.getLsbD 22 then 9 else 8)
  else if e = 0 then (if m = 0 then (if n then 3 else 4) else if n then 2 else 5)
  else if n then 1 else 6

end Sys2Proof.Machine
end

