-- ==== Sys2Proof/Machine/Scr.lean ====
section
/-! DEFINITION. The system control registers (spec 04.6): the value each reads, and the effect of each write
where it is applied. -/

namespace Sys2Proof.Machine

/-- A mask of the numbers of a list below 64 that satisfy a predicate. -/
def bitsOf (p : Nat → Bool) : Nat := maskOf ((List.range 64).filter p)
/-- The occupancy of Shuttle engine e (R139). -/
def State.queued (s : State) (e : Nat) : Nat :=
  (s.reqs.filter (fun r => r.engine = e && (match r.st with | .done _ _ => false | _ => true))).length +
    (s.staging.filter (fun g => g.engine = e)).length
def State.laneCmds (s : State) (k : Nat) : List Cmd := s.lanes.getD k []
/-- A half of an access-table entry: the latest write of it, used or not yet (R195). -/
def State.accHalf (s : State) (g i : Nat) (hi : Bool) : Nat :=
  let w := (aget s.acchalf (g, i)).getD (none, none)
  let e := (s.accEntry g i).toNat
  if hi then (w.2.map (·.toNat)).getD (e / 2 ^ 64) else (w.1.map (·.toNat)).getD (e % 2 ^ 64)

def inAcctab (o : Nat) : Bool := decide (0x81000 ≤ o) && decide (o < 0x81000 + 38 * 0x400)
/-- The width in bytes of the register at an offset of the window; none where no register lies (Table 04.5). -/
def scrWidth (o : Nat) : Option Nat :=
  if 0x81000 ≤ o && o < 0x81000 + 38 * 0x400 && o % 8 = 0 then some 8
  else if [0x00000, 0x00004, 0x10000, 0x10004, 0x20000, 0x20004, 0x20008, 0x2000C, 0x20010, 0x20014, 0x30000, 0x30004,
    0x30008, 0x3000C, 0x50008, 0x50300, 0x50310, 0x60000, 0x60004, 0x70000, 0x80000, 0x90000, 0x90004,
    0xA0000, 0xA0004, 0xA0008, 0xA000C, 0xA0010, 0xA0014, 0xA0018, 0xA001C, 0xA0040].contains o then some 4
  else if [0x10008, 0x20018, 0x40000, 0x40008, 0x50000, 0x50100, 0x50108, 0x50110, 0x50118, 0x50200, 0x50208, 0x50220,
    0x50228, 0x50240, 0x50248, 0x50308, 0x70008, 0xA0100, 0xA0108, 0xA0110, 0xA0118, 0xA0120, 0xA0128, 0xA0130,
    0xA0138].contains o then some 8
  else none
/-- The register that covers a byte of the window: its offset and width. -/
def scrAt (o : Nat) : Option (Nat × Nat) :=
  match scrWidth (o / 8 * 8) with
  | some 8 => some (o / 8 * 8, 8)
  | _ => (scrWidth (o / 4 * 4)).map (fun n => (o / 4 * 4, n))

/-- The value a register reads (Table 04.5); unlisted offsets read 0 (R72). -/
def State.scrRead (s : State) (o : Nat) : Nat :=
  let r := s.scr
  let b (x : Bool) : Nat := x.toNat
  if 0x81000 ≤ o && o < 0x81000 + 38 * 0x400 then
    s.accHalf ((o - 0x81000) / 0x400) ((o - 0x81000) % 0x400 / 16) (o % 16 = 8)
  else match o with
    | 0x00000 => r.mbxCtl.toNat
    | 0x00004 => b r.killDone + 256 * maskOf ((List.range 8).filter (fun k => 32 ≤ (s.laneCmds k).length))
    | 0x10000 => r.forceUs
    | 0x10004 => r.heartbeatUs
    | 0x10008 => bitsOf (fun c => s.launches.any (fun p => p.1.1 = c && p.2.stage == .admitted))
    | 0x20000 => r.clpDecay
    | 0x20004 => r.clpBf16.toNat
    | 0x20008 => r.clpE4m3.toNat
    | 0x2000C => r.clpE2m3.toNat
    | 0x20010 => r.clpCold.toNat
    | 0x20014 => b (s.ctxs.any (fun p => p.2.sweep.isSome))
    | 0x20018 => bitsOf (fun c => s.ctxs.any (fun p => p.1 = c && p.2.sweep.isSome))
    | 0x30000 | 0x30004 | 0x30008 | 0x3000C =>
      (s.pends.filter (fun p => p.assay && s.coreOf p.warp / 32 = (o - 0x30000) / 4)).length % 256
    | 0x40000 => bitsOf (fun g => s.teller.any (fun p => p.1 = g))
    | 0x40008 => bitsOf (fun g => s.teller.any (fun p => p.1 = g && p.2.decided))
    | 0x50000 => r.dedupBase.toNat
    | 0x50008 => r.dedupLog2
    | 0x50100 | 0x50108 | 0x50110 | 0x50118 =>
      (List.range 4).foldl (fun v e => v + s.queued (4 * ((o - 0x50100) / 8) + e) * 2 ^ (16 * e)) 0
    | 0x50200 | 0x50220 | 0x50240 => (r.poolBmp.getD ((o - 0x50200) / 0x20) 0).toNat
    | 0x50208 | 0x50228 | 0x50248 => (r.poolRef.getD ((o - 0x50208) / 0x20) 0).toNat
    | 0x50300 => maskOf ((List.range 3).filter (fun t => r.poolEn.getD t false))
    | 0x50310 => b r.poolErr
    | 0x60000 => r.leaseDefault
    | 0x60004 => 0x80
    | 0x70000 => b r.wdgEnable
    | 0x70008 => r.wdgFired.toNat
    | 0x80000 => b s.session.isSome + 2 * b ((s.session.map (·.sealed_)).getD false)
    | 0x90000 => r.limitW
    | 0x90004 => r.drawW % 4096 + 65536 * b r.throttle + 131072 * (r.duty % 8)
    | 0xA0000 | 0xA0004 | 0xA0008 | 0xA000C | 0xA0010 | 0xA0014 | 0xA0018 | 0xA001C => (r.prfSel.getD ((o - 0xA0000) / 4) 0).toNat
    | 0xA0100 | 0xA0108 | 0xA0110 | 0xA0118 | 0xA0120 | 0xA0128 | 0xA0130 | 0xA0138 => r.prfCnt.getD ((o - 0xA0100) / 8) 0
    | _ => 0

def clampN (lo hi v : Nat) : Nat := max lo (min hi v)
def State.modScr (s : State) (f : Scr → Scr) : State := { s with scr := f s.scr }
/-- A write to a register without behaviour of its own: values outside a stated range are clamped, reserved
fields stay 0, read-only registers and unlisted offsets ignore it (R74, R5). -/
def State.scrSet (s : State) (o : Nat) (v : DWord) : State :=
  let n := v.toNat
  let w : Word := v.setWidth 32
  match o with
  | 0x00000 => s.modScr (fun r => { r with mbxCtl := w &&& 0xFF#32 })
  | 0x10000 => s.modScr (fun r => { r with forceUs := clampN 1 1000 n })
  | 0x10004 => s.modScr (fun r => { r with heartbeatUs := max 1 (n % 2 ^ 32) })
  | 0x20000 => s.modScr (fun r => { r with clpDecay := clampN 1 8 (n % 16) })
  | 0x20004 => s.modScr (fun r => { r with clpBf16 := w })
  | 0x20008 => s.modScr (fun r => { r with clpE4m3 := w })
  | 0x2000C => s.modScr (fun r => { r with clpE2m3 := w })
  | 0x20010 => s.modScr (fun r => { r with clpCold := w })
  | 0x50000 => s.modScr (fun r => { r with dedupBase := v })
  | 0x50008 => s.modScr (fun r => { r with dedupLog2 := clampN 10 24 (n % 32) })
  | 0x50200 | 0x50220 | 0x50240 => s.modScr (fun r =>
      let t := (o - 0x50200) / 0x20
      if r.poolEn.getD t false then r else { r with poolBmp := r.poolBmp.set t v })
  | 0x50208 | 0x50228 | 0x50248 => s.modScr (fun r =>
      let t := (o - 0x50208) / 0x20
      if r.poolEn.getD t false then r else { r with poolRef := r.poolRef.set t v })
  | 0x60000 => s.modScr (fun r => { r with leaseDefault := clampN 128 16384 (n % 2 ^ 32) })
  | 0x90000 => s.modScr (fun r => { r with limitW := clampN 600 2400 (n % 2 ^ 32) })
  | 0xA0000 | 0xA0004 | 0xA0008 | 0xA000C | 0xA0010 | 0xA0014 | 0xA0018 | 0xA001C =>
      s.modScr (fun r => { r with prfSel := r.prfSel.set ((o - 0xA0000) / 4) (w &&& 0x1FF#32) })
  | _ => s

/-! The writes as they reach their blocks: each event takes the write that is its subject (R73). -/

/-- The write in flight that the state's subject names. -/
def State.scrMsg (s : State) : Option (Nat × DWord) :=
  match s.msg? s.subject with
  | some { k := .scr o _ v, .. } => some (o, v)
  | _ => none
/-- An earlier write of the same warp to the register is still on its way: they arrive in its program order (R36, R73). -/
def State.scrBehind (s : State) (o : Nat) : Bool :=
  match s.msg? s.subject with
  | some m => s.msgs.any (fun x => x.id < m.id && x.warp = m.warp && (match x.k with | .scr p _ _ => p = o | _ => false))
  | none => false
/-- Applies the subject to a register; the store is acknowledged with completion time 0. -/
def scrApply (s : State) (mine : Nat → Bool) (f : Nat → DWord → State → State) : Out :=
  match s.scrMsg with
  | some (o, v) => if mine o && !s.scrBehind o then .next ((f o v s).turnMsg s.subject (.ack 0)) else .next s
  | none => .next s
/-- The offsets with a row of their own. -/
def ownRow (o : Nat) : Bool :=
  [0x00004, 0x70000, 0x70008, 0x50300, 0x50308, 0x50310, 0xA0040].contains o || inAcctab o
/-- MBX_STATUS: a 1 clears KILL_DONE (R76). -/
def State.setMbxStatus (s : State) (v : DWord) : State := s.modScr (fun r => { r with killDone := r.killDone && !v.getLsbD 0 })
/-- WDG_CTL (R201). -/
def State.setWdgCtl (s : State) (v : DWord) : State :=
  s.modScr (fun r => { r with wdgEnable := v.getLsbD 0, wdgSince := if v.getLsbD 0 && !r.wdgEnable then s.time else r.wdgSince })
/-- WDG_FIRED: write 1 to clear (R76). -/
def State.setWdgFired (s : State) (v : DWord) : State := s.modScr (fun r => { r with wdgFired := r.wdgFired &&& ~~~v })
/-- SHU_POOL_CTL: a bit that is set hands the tier's arrays to the device; 0 is ignored (R98). -/
def State.setPoolCtl (s : State) (v : DWord) : State :=
  s.modScr (fun r => { r with poolEn := r.poolEn.mapIdx (fun t e => e || v.getLsbD t) })
/-- The units of a range may be added to a tier's pool (R98). -/
def State.poolAddOk (s : State) (t first n : Nat) : Bool :=
  t ≤ 2 && s.scr.poolEn.getD t false && n != 0 && first + n ≤ s.tierFrames t &&
    first + n ≤ s.sideFrame t && !((s.freeUnits t).any (fun u => first ≤ u && u < first + n))
/-- SHU_POOL_ADD: adds a range of units, or refuses it whole and sets ADD_ERR (R98); a fault met in the pool's arrays is that of the
supervisor, whose firmware adds (R196; log 90). -/
def State.setPoolAdd (s : State) (v : DWord) : State :=
  let first := v.toNat % 2 ^ 40
  let t := v.toNat / 2 ^ 40 % 8
  let n := v.toNat / 2 ^ 43
  if !(t ≤ 2 && s.scr.poolEn.getD t false) then s.modScr (fun r => { r with poolErr := true })
  else if let some b := (s.bmpBad t).or (s.rawBad (s.refAddr t first) (4 * n) true true) then s.meet 63 b
  else if s.poolAddOk t first n then
    (List.range n).foldl (fun s i => (s.setFree t (first + i) true).putNat (s.refAddr t (first + i)) 4 0) s
  else s.modScr (fun r => { r with poolErr := true })
/-- SHU_POOL_STATUS: write 1 to clear ADD_ERR (R74). -/
def State.setPoolStatus (s : State) (v : DWord) : State := s.modScr (fun r => { r with poolErr := r.poolErr && !v.getLsbD 0 })
/-- PRF_CLR: the clear comes before the increments of its own clock (R202). -/
def State.setPrfClr (s : State) (v : DWord) : State :=
  s.modScr (fun r => { r with prfCnt := r.prfCnt.mapIdx (fun k c => if v.getLsbD k then r.prfNow.getD k 0 else c) })
/-- A half of an access-table entry is written; once both have been, the target uses them (R195). -/
def State.accWrite (s : State) (g i : Nat) (hi : Bool) (v : DWord) : State :=
  let w := (aget s.acchalf (g, i)).getD (none, none)
  let w := if hi then (w.1, some v) else (some v, w.2)
  match w with
  | (some l, some h) => { s with acctab := aset s.acctab (g, i) (h ++ l), acchalf := adel s.acchalf (g, i) }
  | _ => { s with acchalf := aset s.acchalf (g, i) w }
/-- The defined fields of a half (Table 09.10); the rest stay 0 (R5). -/
def accMask (hi : Bool) : DWord := if hi then 0x001FFFFFFFFFF000#64 else 0x801FFFFFFFFFF0FF#64
/-- A write to a register of an access table. -/
def State.setAcc (s : State) (o : Nat) (v : DWord) : State :=
  s.accWrite ((o - 0x81000) / 0x400) ((o - 0x81000) % 0x400 / 16) (o % 16 = 8) (v &&& accMask (o % 16 = 8))
/-- What a write of its register's width does at an offset of the window (Table 04.5). -/
def State.scrStore (s : State) (o : Nat) (v : DWord) : State :=
  if inAcctab o then s.setAcc o v
  else match o with
    | 0x00004 => s.setMbxStatus v
    | 0x70000 => s.setWdgCtl v
    | 0x70008 => s.setWdgFired v
    | 0x50300 => s.setPoolCtl v
    | 0x50308 => s.setPoolAdd v
    | 0x50310 => s.setPoolStatus v
    | 0xA0040 => s.setPrfClr v
    | _ => s.scrSet o v
/-- SCR_WRITE (R74). -/
def execScrWrite (s : State) : Out := scrApply s (fun o => !ownRow o) (fun o v s => s.scrSet o v)
/-- MBX_STATUS (R76). -/
def execMbxStatus (s : State) : Out := scrApply s (· = 0x00004) (fun _ v s => s.setMbxStatus v)
/-- WDG_CTL (R201). -/
def execWdgCtl (s : State) : Out := scrApply s (· = 0x70000) (fun _ v s => s.setWdgCtl v)
/-- WDG_FIRED (R76). -/
def execWdgFired (s : State) : Out := scrApply s (· = 0x70008) (fun _ v s => s.setWdgFired v)
/-- SHU_POOL_CTL (R98). -/
def execShuPoolCtl (s : State) : Out := scrApply s (· = 0x50300) (fun _ v s => s.setPoolCtl v)
/-- SHU_POOL_ADD (R98). -/
def execShuPoolAdd (s : State) : Out := scrApply s (· = 0x50308) (fun _ v s => s.setPoolAdd v)
/-- SHU_POOL_STATUS (R74). -/
def execShuPoolStatus (s : State) : Out := scrApply s (· = 0x50310) (fun _ v s => s.setPoolStatus v)
/-- PRF_CLR (R202). -/
def execPrfClr (s : State) : Out := scrApply s (· = 0xA0040) (fun _ v s => s.setPrfClr v)
/-- SEC_ACCTAB (R195). -/
def execSecAcctab (s : State) : Out := scrApply s inAcctab (fun o v s => s.setAcc o v)

end Sys2Proof.Machine
end

