-- ==== Sys2Proof/Machine/Lsu.lean ====
section
/-! DEFINITION. Accesses of a core: address checks (R78, R193, R211), L1 lines under leases (R84 to R87), atomic
arithmetic (R292) and commutative ranges (R121, R122). -/

namespace Sys2Proof.Machine

/-! Checks of an access. -/

/-- The memory a translation reaches: a commutative range only on a tier (R121). -/
def spaceOf (t : Tr) : Space :=
  match region t.pa with
  | .window => .window
  | .host => .host
  | .peer d => .peer d
  | _ => if t.cr then .range t.k else .device
/-- One access of a lane: address, size, the byte of the register operand it starts at. -/
structure Piece where (va size byte : Nat) deriving DecidableEq, Repr, Inhabited
/-- A piece that passed its checks. -/
structure Place2 where (pa : Nat) (sp : Space) (tr : Tr) (p : Piece) deriving DecidableEq, Repr, Inhabited

/-- An address that maps the system control window, whatever its leaf allows (R72). -/
def State.inWindow (s : State) (k : WarpKey) (va : Nat) : Bool :=
  match s.walk (s.coreOf k) k.crew.ctx va with | .ok t => region t.pa == .window | .error _ => false
/-- An access of size n is not one that its place takes: of the window, a register's own width (R72); of a commutative range, a
load of 8 or 4 bytes (R122). -/
def State.oddAt (s : State) (k : WarpKey) (a : Acc) (n : Nat) (p : Piece) : Bool :=
  match s.walk (s.coreOf k) k.crew.ctx p.va with
  | .ok t => match spaceOf t with
    | .window => a != .atomic && (match scrAt (t.pa - winBase) with | some (o, w) => !(w = n && t.pa - winBase = o) | none => false)
    | .range _ => a == .read && !(p.size = n && ((n = 8 && p.va % 8 = 0) || n = 4))
    | _ => false
  | .error _ => false
/-- The checks of one access of size n in R211's order: canonical, the window's privilege through any mapping, alignment and
what size the place takes, translation, and what the place allows (R72, R102, R119, R122, R196); what a store or atomic meets at
its home (R93), and a peer that does not answer (R392). -/
def State.checkPiece (s : State) (k : WarpKey) (a : Acc) (n : Nat) (p : Piece) : Except Bad Place2 :=
  let user := !s.privOf k
  if !canonical p.va then .error (bad .addrRange)
  else if s.inWindow k p.va && user && a != .atomic then .error (bad .privilege)
  else if p.va % p.size ≠ 0 || s.oddAt k a n p then .error (bad .misaligned)
  else if s.inWindow k p.va && a == .atomic then .error (bad .accessDenied)
  else match s.xlate (s.coreOf k) k.crew.ctx p.va user a with
    | .error b => .error b
    | .ok t =>
      let denied : Except Bad Place2 := .error (badV .accessDenied t.level p.va)
      let go (sp : Space) : Except Bad Place2 :=
        if !s.physOk t.pa 0 (a == .read || a == .atomic) (a == .write || a == .atomic) false then .error (bad .accessDenied)
        else if (a != .read && s.isBad t.pa p.size) || s.peerSilent t.pa then .error (badAt .uncorrectable t.pa)
        else .ok ⟨t.pa, sp, t, p⟩
      match spaceOf t with
      | .window => .ok ⟨t.pa, .window, t, p⟩
      | .range kk =>
        match a with
        | .read => go (.range kk)
        | .write => if n = 8 && p.size = 8 && !t.prot then go (.range kk) else denied
        | _ => denied
      | .device => if a != .read && t.prot then denied else go .device
      | sp => go sp
/-- A record that a lane reads at issue as an LDBY of its bytes: of the window no register has that width (R72, R304, R354,
R361). -/
def State.recordRead (s : State) (k : WarpKey) (va n : Nat) : Except Bad (List Byte) :=
  if canonical va && s.inWindow k va then .error (bad (if s.privOf k then .misaligned else .privilege))
  else s.unitRead ⟨s.coreOf k, k.crew.ctx, !s.privOf k, 0⟩ va n false

/-- Eight bytes that an instruction reads as an LDBY of a lane reads them: of the window a register of that width (R72), of a
commutative range the folded element (R122, R338). -/
def State.ldby8 (s : State) (k : WarpKey) (va : Nat) : Except Bad Nat := do
  let p ← s.checkPiece k .read 8 ⟨va % 2 ^ 64, 8, 0⟩
  if p.sp == .window then pure (s.scrRead (p.pa - winBase))
  else s.unitNat ⟨s.coreOf k, k.crew.ctx, !s.privOf k, 0⟩ va 8
/-- What the reads of records leave at the homes (R90). -/
def State.sawRecords (s : State) (k : WarpKey) (vas : List Nat) : State :=
  vas.foldl (fun s va => s.sawRead ⟨s.coreOf k, k.crew.ctx, !s.privOf k, 0⟩ va 64) s

/-- The pieces of a lane's global access: a 16-byte one is two of 8 (R287). -/
def globalPieces (va n : Nat) : Except Bad (List Piece) :=
  if !canonical va then .error (bad .addrRange)
  else if n = 16 then
    (if va % 16 = 0 then .ok [⟨va, 8, 0⟩, ⟨va + 8, 8, 8⟩] else .ok [⟨va, 16, 0⟩])
  else .ok [⟨va, n, 0⟩]
/-- The address of byte o of a thread's local memory (R81). -/
def State.localVa (s : State) (k : WarpKey) (l o : Nat) : Nat :=
  let p := s.packetOf k.crew
  let gw := k.crew.crew * p.warps + k.warp
  ((s.ctx k.crew.ctx).desc.localBase + (s.launch k.crew.ctx k.crew.launch).localOff +
    ((gw * (p.localBytes / 4) + o / 4) * 32 + l) * 4 + o % 4) % 2 ^ 64
/-- The pieces of a local access: its words lie apart (R81). -/
def State.localPieces (s : State) (k : WarpKey) (l : Nat) (o : Int) (n : Nat) : Except Bad (List Piece) :=
  if o < 0 || o + n > (s.packetOf k.crew).localBytes then .error (bad .addrRange)
  else if o % n ≠ 0 then .error (bad .misaligned)
  else
    let c := min n 4
    .ok ((List.range (n / c)).map (fun j => ⟨s.localVa k l (o.toNat + c * j), c, c * j⟩))
/-- The pieces of an access to the constant space (R82). -/
def State.constPieces (s : State) (k : WarpKey) (o : Int) (n : Nat) : Except Bad (List Piece) :=
  if o < 0 || o + n > 65536 then .error (bad .addrRange)
  else globalPieces (((s.packetOf k.crew).kernarg.toNat + o.toNat) % 2 ^ 64) n

/-- Checks every piece of one lane: of several faults the first in R211's order. -/
def State.checkLane (s : State) (k : WarpKey) (a : Acc) (n : Nat) (ps : List Piece) : Except Bad (List Place2) :=
  match firstBad (badsOf (s.checkPiece k a n) ps) with
  | some b => .error b
  | none => .ok (ps.filterMap (fun p => (s.checkPiece k a n p).toOption))
/-- Results of all lanes, or the fault of the lowest faulting lane with every lane that met its code (R211). -/
def gather {α : Type} (a : Acc) (l : List (Nat × Except Bad α)) : Except Fx (List (Nat × α)) :=
  let bads := l.filterMap (fun p => match p.2 with | .error b => some (p.1, b) | .ok _ => none)
  match bads with
  | (_, b) :: _ => .error (b.fx a ((bads.filter (fun p => p.2.code = b.code)).map (·.1)))
  | [] => .ok (l.filterMap (fun p => match p.2 with | .ok x => some (p.1, x) | .error _ => none))

/-! L1 (R84 to R87). -/

/-- A line is pinned while its core holds a partial of an element of it (R84, R87). -/
def State.pinnedLine (s : State) (l : L1Line) : Bool := s.partials.any (fun p => p.1.1 = l.core && p.1.2 / 64 = l.line)
def State.leased (s : State) (l : L1Line) : Bool := s.time < l.expiry || s.pinnedLine l
/-- A line serves the loads of a crew: it is leased, and not older than what the crew has acquired or stored (R84, R111, R112;
log 87). -/
def State.serves (s : State) (k : WarpKey) (l : L1Line) : Bool := s.leased l && !l.behind.contains k.crew
/-- The lease length of a page's attribute for a context (R85). -/
def State.leaseLen (s : State) (ctx : Nat) (t : Tr) : Nat := if t.lease = 1 then 0x80 else (s.ctx ctx).lease
/-- A line of the address can be held in L1. -/
def cacheable (x : Place2) : Bool := x.sp == .device && x.tr.lease != 2

/-! Which messages concern a line. -/

def MsgKind.changes : MsgKind → Bool
  | .write _ _ _ | .atom _ _ _ _ _ _ | .cas _ _ _ _ _ _ => true
  | _ => false
def MsgKind.isFill : MsgKind → Bool
  | .fill _ _ _ => true
  | _ => false
/-- A fill of the warp for a line is in flight. -/
def State.filling (s : State) (k : WarpKey) (line : Nat) : Bool := s.msgs.any (fun m => m.warp = some k && m.k.isFill && m.k.touches line)
/-- A fill that brings a value to the warp is in flight for a line: a load of it waits, so that it returns nothing older
(R112). -/
def State.loading (s : State) (k : WarpKey) (line : Nat) : Bool :=
  s.msgs.any (fun m => m.warp = some k && (match m.k with | .fill l _ ps => l = line && !ps.isEmpty | _ => false))
/-- A write of the warp to a register of the window is on its way: its loads of the register follow it (R36, R73). -/
def State.scrOut (s : State) (k : WarpKey) (off : Nat) : Bool :=
  s.msgs.any (fun m => m.warp = some k && (match m.k with | .scr o _ _ => o = off | _ => false))
/-- A write of the warp to a line has not been applied. -/
def State.storing (s : State) (k : WarpKey) (line : Nat) : Bool :=
  s.msgs.any (fun m => m.warp = some k && m.k.changes && m.k.touches line)
/-- An atomic of the warp on a line is in flight: a load of the line waits for its result (R112). -/
def State.atomOut (s : State) (k : WarpKey) (line : Nat) : Bool :=
  s.msgs.any (fun m => m.warp = some k && (match m.k with | .atom _ _ _ _ _ _ | .cas _ _ _ _ _ _ => true | _ => false) && m.k.touches line)

/-! Atomic arithmetic (Tables 15.5, 15.6). -/

def atyBytes : ATy → Nat
  | .u8 => 1
  | .u64 | .s64 => 8
  | _ => 4
/-- Element width and kind of an atomic type. -/
def atyTy : ATy → Ty
  | .u32 => .u32
  | .s32 => .s32
  | .f32 => .f32
  | .bf16x2 => .bf16x2
  | .f16x2 => .f16x2
  | .u64 => .u64
  | .s64 => .s64
  | .u8 => .u8x4
/-- The operation on one element of width w. -/
def aopElem (t : Ty) (op : AOp) (a b : Nat) : Nat :=
  let w := tyWidth t
  let i (f : Int → Int → Int) : Nat := lowBits w (f (intOf (tySigned t) w a) (intOf (tySigned t) w b))
  let fl (p : X → X → X) : Nat :=
    let m := tyFmt t
    if (dec m a).isNan && (dec m b).isNan then m.nan.getD 0 else if p (dec m a) (dec m b) = dec m a then a else b
  match op, tyKind t with
  | .add, .float m => enc m (.rm .rne) false (addX false (dec m a) (dec m b))
  | .min, .float _ => fl fminX
  | .max, .float _ => fl fmaxX
  | .add, _ => i (· + ·)
  | .min, _ => i min
  | .max, _ => i max
  | .and, _ => a &&& b
  | .or, _ => a ||| b
  | .xor, _ => a ^^^ b
  | .exch, _ => b
/-- The new value of an element of an atomic type. -/
def aopNew (ty : ATy) (op : AOp) (old b : Nat) : Nat :=
  let t := atyTy ty
  let w := tyWidth t
  (List.range (8 * atyBytes ty / w)).foldl (fun v j =>
    v + aopElem t op (old / 2 ^ (w * j) % 2 ^ w) (b / 2 ^ (w * j) % 2 ^ w) % 2 ^ w * 2 ^ (w * j)) 0
/-- What host memory allows (R119). -/
def hostAtomic (ty : ATy) (op : Option AOp) (ret : Bool) : Bool :=
  ret && (match op with
    | some .add | some .exch => ty == .u32 || ty == .s32 || ty == .u64 || ty == .s64
    | some _ => false
    | none => true)

/-! Commutative ranges (R121, R122). -/

def State.setCrFlag (s : State) (e : Nat) : State := if s.crFlags.contains e then s else { s with crFlags := e :: s.crFlags }
/-- The fixed-point addend of x at scale k, and whether it sets the flag. -/
def redcAddend (k : Nat) (x : X) : Int × Bool :=
  match x with
  | .nan => (0, true)
  | .inf n => (if n then -(2 ^ 63) else 2 ^ 63 - 1, true)
  | .fin _ _ _ =>
    match roundIntX (.rm .rne) (x.scale k) with
    | .fin n m e =>
      let v := inUnits n m e 0
      if v ≥ 2 ^ 63 then (2 ^ 63 - 1, true) else if v < -(2 ^ 63) then (-(2 ^ 63), true) else (v, false)
    | _ => (0, true)
/-- A partial after an addend, and whether the element's flag is set (R121). -/
def redcSum (old : BitVec 64) (k : Nat) (x : X) : BitVec 64 × Bool :=
  let (g, fl) := redcAddend k x
  let sum := old.toInt + g
  (BitVec.ofInt 64 sum, fl || sum ≥ 2 ^ 63 || sum < -(2 ^ 63))
/-- REDC of R121 by a core at an element: into its partial in L1, or on a page of lease none into the home's slot. -/
def State.redc (s : State) (core ctx e k : Nat) (slot : Bool) (x : X) : State :=
  let old := if slot then (aget s.crSlots (core, e)).getD 0 else ((aget s.partials (core, e)).map (·.v)).getD 0
  let (v, fl) := redcSum old k x
  let s := if fl then s.setCrFlag e else s
  if slot then { s with crSlots := aset s.crSlots (core, e) v } else { s with partials := aset s.partials (core, e) ⟨ctx, v⟩ }

end Sys2Proof.Machine
end

