-- ==== Sys2Proof/Machine/Kvt.lean ====
section
/-! DEFINITION. KV sequence records, page-table entries, frames and their references (spec 08). -/

namespace Sys2Proof.Machine

/-! The KV sequence record (R143, R144, R146). -/

structure Ksr where
  addr : Nat
  base : Nat
  summ : Nat
  pages : Nat
  length : Nat
  tent : Nat
  dim : Nat
  sinks : Nat
  recent : Nat
  window : Nat
  first : Nat
  scale : Nat
  flags : Nat
  tmev : Nat
  deriving DecidableEq, Repr, Inhabited

/-- Table 08.1. -/
def ksrOf (a : Nat) (b : List Byte) : Ksr :=
  { addr := a, base := le64 b 0, summ := le64 b 8, pages := le32 b 0x10, length := le32 b 0x14, tent := le32 b 0x18,
    dim := le16 b 0x1C, sinks := le8 b 0x1E, recent := le8 b 0x1F, window := le32 b 0x20, first := le32 b 0x24,
    scale := le64 b 0x28, flags := le16 b 0x30, tmev := le16 b 0x32 }
/-- The checks of R144, in the table's order. -/
def ksrFault (b : List Byte) (k : Ksr) : Option Code :=
  if !(k.dim = 64 || k.dim = 128 || k.dim = 256) || k.scale % 512 ≠ 0 then some .scaleLayout
  else if k.base % 64 ≠ 0 || k.summ % 64 ≠ 0 || k.pages = 0 || 67108863 < k.pages || k.tent < k.length ||
      64 * k.pages < k.tent || k.pages ≤ k.first || 4 ≤ k.flags || leNat ((b.drop 0x34).take 12) ≠ 0 then some .kvFormat
  else none
/-- Reads a record whole and checks it. -/
def State.readKsr (s : State) (u : Master) (a : Nat) : Except Bad Ksr := do
  if a % 64 ≠ 0 then .error (bad .misaligned)
  let b ← s.unitRead u a 64 false
  match ksrFault b (ksrOf a b) with
  | some c => .error (bad c)
  | none => pure (ksrOf a b)

def Ksr.last (k : Ksr) : Nat := (k.length - 1) / 64
def Ksr.isSink (k : Ksr) (pg : Nat) : Bool := pg < k.sinks
def Ksr.isRecent (k : Ksr) (pg : Nat) : Bool := 0 < k.length && pg ≤ k.last && k.last < pg + k.recent
def Ksr.isFull (k : Ksr) (pg : Nat) : Bool := 64 * (pg + 1) ≤ k.length
def Ksr.isLive (k : Ksr) (pg : Nat) : Bool := k.isSink pg || (k.first ≤ pg && 64 * pg < k.tent)

/-! The page-table entry (R147, R148). -/

structure Pte where
  cur : DWord
  next : DWord
  curScale : Nat
  nextScale : Nat
  mass : Nat
  readers : Nat
  flags : BitVec 16
  deriving DecidableEq, Repr, Inhabited

def pteOf (b : List Byte) : Pte :=
  { cur := BitVec.ofNat 64 (le64 b 0), next := BitVec.ofNat 64 (le64 b 8), curScale := le32 b 0x10, nextScale := le32 b 0x14,
    mass := le32 b 0x18, readers := le16 b 0x1C, flags := BitVec.ofNat 16 (le16 b 0x1E) }
def Pte.bytes (p : Pte) : List Byte :=
  nbytes 8 p.cur.toNat ++ nbytes 8 p.next.toNat ++ nbytes 4 p.curScale ++ nbytes 4 p.nextScale ++ nbytes 4 p.mass ++
    nbytes 2 p.readers ++ nbytes 2 p.flags.toNat
def Ksr.pteVa (k : Ksr) (pg : Nat) : Nat := (k.base + 64 * pg) % 2 ^ 64
def State.readPte (s : State) (u : Master) (va : Nat) : Except Bad Pte := do
  let b ← s.unitRead u va 64 false
  pure (pteOf b)
def State.storePte (s : State) (u : Master) (core : Option Nat) (va : Nat) (p : Pte) : Except Bad (Nat × State) :=
  s.unitStore u core va p.bytes

/-- The flags of Table 08.5. -/
def Pte.nonfinite (p : Pte) : Bool := p.flags.getLsbD 0
def Pte.retained (p : Pte) : Bool := p.flags.getLsbD 1
def Pte.demPending (p : Pte) : Bool := p.flags.getLsbD 2
def Pte.evicted (p : Pte) : Bool := p.flags.getLsbD 3
def Pte.flag (p : Pte) (k : Nat) (v : Bool) : Pte :=
  { p with flags := if v then p.flags ||| (1#16 <<< k) else p.flags &&& ~~~(1#16 <<< k) }

/-- Fields of a frame word (Table 08.4). -/
def fwVersion (w : DWord) : Nat := w.toNat / 2 ^ 56
def fwShared (w : DWord) : Bool := w.getLsbD 48
def fwPinned (w : DWord) : Bool := w.getLsbD 47
def fwValid (w : DWord) : Bool := w.getLsbD 46
def fwFormat (w : DWord) : Nat := w.toNat / 2 ^ 43 % 8
def fwTier (w : DWord) : Nat := w.toNat / 2 ^ 40 % 8
def fwFrame (w : DWord) : Nat := w.toNat % 2 ^ 40
def fwMake (version : Nat) (shared pinned : Bool) (fmt tier frame : Nat) : DWord :=
  BitVec.ofNat 64 (version % 256 * 2 ^ 56 + shared.toNat * 2 ^ 48 + pinned.toNat * 2 ^ 47 + 2 ^ 46 + fmt * 2 ^ 43 + tier * 2 ^ 40 + frame)
def fwInvalid (w : DWord) : DWord := w &&& ~~~(1#64 <<< 46)
def fwPin (w : DWord) (v : Bool) : DWord := if v then w ||| (1#64 <<< 47) else w &&& ~~~(1#64 <<< 47)

/-- The cases of R148 that a page index meets, and those that a word meets. -/
def Ksr.pageBad (k : Ksr) (pg : Nat) : Bool := k.pages ≤ pg || (pg < k.first && !k.isSink pg)
def fwBad (w : DWord) : Bool := 4 ≤ fwFormat w || (4 ≤ fwTier w && fwTier w ≤ 6)
/-- A KV instruction reads a page's entry: R148. Reserved bits of the entry and of its words are no case of R148: they are kept, and
nothing asks them (log 91). -/
def State.kvPage (s : State) (u : Master) (k : Ksr) (pg : Nat) : Except Bad Pte := do
  if k.pageBad pg then .error (bad .kvFormat)
  let p ← s.readPte u (k.pteVa pg)
  if fwBad p.cur || (!fwValid p.cur && k.isLive pg) then .error (bad .kvFormat)
  pure p

/-! Frames (R149, R151, R96). -/

def kvBits (f : Nat) : Nat := [16, 8, 6, 4].getD f 16
def kvElemTy (f : Nat) : Elem := [Elem.bf16, .e4m3, .e2m3, .e2m1].getD f .bf16
def frameBytes (f dim : Nat) : Nat := 16 * dim * kvBits f
def frameUnits (f dim : Nat) : Nat := ceilDiv (frameBytes f dim) 4096
def framePa (tier frame : Nat) : Nat := tierBase tier + 4096 * frame

/-- A page as captured: its frame's bytes and the bytes of its scale pair. -/
structure Page where (fmt dim : Nat) (frame scales : List Byte) deriving DecidableEq, Repr, Inhabited
/-- The byte of a scale tile that holds block b of token t (R151). -/
def scaleAt (dim t b : Nat) : Nat := t / 8 * (8 * (dim / 32)) + 8 * b + t % 8
/-- Element j of token t of K or V, exact (R149, R50). -/
def Page.dec (p : Page) (v : Bool) (t j : Nat) : X :=
  let w := kvBits p.fmt
  let o := (if v then 64 * p.dim * w else 0) + (t * p.dim + j) * w
  let c := leNat ((p.frame.drop (o / 8)).take 3) / 2 ^ (o % 8) % 2 ^ w
  let sb := if p.fmt < 2 then none else some (le8 p.scales ((if v then 2 * p.dim else 0) + scaleAt p.dim t (j / 32)))
  decElem (kvElemTy p.fmt) c sb
/-- The same as a BF16 value (R51). -/
def Page.bf16 (p : Page) (v : Bool) (t j : Nat) : X := bf16X (p.dec v t j)
/-- A scale pair is misaligned or partial (R151). -/
def scaleBad (dim off : Nat) : Bool := off % (2 * dim) ≠ 0 || 4096 < off % 4096 + 4 * dim
/-- The place of an access to some bytes of a record, as what an instruction waits for to change from a value (R150, R163). -/
def State.bytesAt (s : State) (u : Master) (va n v : Nat) : Block :=
  match s.unitAt u va .read with
  | .ok t => .bytes t.pa n v
  | .error _ => .bytes 0 0 1
/-- What the read of a record and of some of its entries leaves at the homes (R90). -/
def State.sawKsr (s : State) (u : Master) (k : Ksr) (pages : List Nat) : State :=
  pages.foldl (fun s pg => s.sawRead u (k.pteVa pg) 64) (s.sawRead u k.addr 64)
/-- The bytes of a run, each unit allowed and checked (R103, R196). -/
def State.readRun (s : State) (ctx tier frame : Nat) : Nat → Except Bad (List Byte)
  | 0 => .ok []
  | n + 1 => do
    let pa := framePa tier frame
    if !s.physOk pa 1 true false false then .error (s.denial pa 1 true false)
    if s.isBad pa 4096 || s.peerSilent pa then .error (badAt .uncorrectable pa)
    if s.peerBusy pa then .error { badAt .uncorrectable pa with busy := true }
    if tier < 3 then
      if let some b := s.checkBlock ctx pa then .error b
    let r ← s.readRun ctx tier (frame + 1) n
    pure (s.rdN pa 4096 ++ r)
/-- Writes whole units of a run, each with its sidecar entry (R102). -/
def State.writeRun (s : State) (ctx tier frame : Nat) : Nat → List Byte → Except Bad (Nat × State)
  | 0, _ => .ok (0, s)
  | n + 1, d => do
    let pa := framePa tier frame
    if !s.physOk pa 1 false true false then .error (s.denial pa 1 false true)
    if let some b := s.sideBad pa false true then .error b
    let b := d.take 4096 ++ List.replicate (4096 - d.length) 0
    let (w, s) := s.homeWrite pa b
    let (x, s) ← (s.sealBlock ctx pa).writeRun ctx tier (frame + 1) n (d.drop 4096)
    pure (max w x, s)
/-- Decodes what a cur word and cur_scale name. -/
def State.loadPage (s : State) (u : Master) (k : Ksr) (p : Pte) : Except Bad Page := do
  let f := fwFormat p.cur
  if 2 ≤ f && scaleBad k.dim p.curScale then .error (bad .scaleLayout)
  let sc ← if 2 ≤ f then s.unitRead u (k.scale + p.curScale) (4 * k.dim) true else pure []
  let fr ← s.readRun u.ctx (fwTier p.cur) (fwFrame p.cur) (frameUnits f k.dim)
  pure ⟨f, k.dim, fr, sc⟩
/-- Every element of a page is finite (R161). -/
def Page.finite (p : Page) : Bool :=
  (List.range 64).all (fun t => (List.range p.dim).all (fun j => (p.dec false t j).isFin && (p.dec true t j).isFin))

/-! References (R159, R163, R165). -/

/-- One reference of a frame word less. -/
def State.dropWord (s : State) (dim : Nat) (w : DWord) : State :=
  s.releaseRun (fwTier w) (fwFrame w) (frameUnits (fwFormat w) dim)
/-- A retained frame is released once readers is 0 (R159). -/
def State.settleRetained (s : State) (dim : Nat) (p : Pte) : State × Pte :=
  if p.retained && p.readers = 0 then (s.dropWord dim p.next, { p with next := 0 }.flag 1 false) else (s, p)
/-- The release of a page's cur word, where next holds no retained word (R163). -/
def State.releaseCur (s : State) (dim : Nat) (p : Pte) : State × Pte :=
  let s := if fwValid p.next then s.dropWord dim p.next else s
  s.settleRetained dim ({ p with next := fwInvalid p.cur, cur := fwInvalid p.cur }.flag 1 true)
/-- Publication of a staged word (R157). -/
def State.publish (s : State) (dim : Nat) (p : Pte) : State × Pte :=
  s.settleRetained dim ({ p with next := fwInvalid p.cur, cur := fwPin p.next (fwPinned p.cur),
                                 curScale := p.nextScale, nextScale := p.curScale }.flag 1 true)
/-- A release of a capture (R150). -/
def State.release (s : State) (dim : Nat) (p : Pte) : State × Pte := s.settleRetained dim { p with readers := p.readers - 1 }
/-- A request of the warp names a captured page and is still under way. -/
def State.captureBusy (s : State) (x : WarpKey × Capture) : Bool :=
  s.reqs.any (fun r => r.warp = some x.1 && (match r.op with
    | .pgmove k p _ | .dcopyKv _ k p _ _ => k = x.2.ksr && p = x.2.page
    | _ => false))
/-- The device releases a capture that its warp left (R150). -/
def State.releaseOrphan (s : State) (x : WarpKey × Capture) : State :=
  let c := x.1.crew.ctx
  if !s.hasCtx c then s
  else
    let u := unitOf c x.2.user x.2.pte
    let r : Except Bad State := do
      let p ← s.readPte u x.2.pte
      let (s, p) := s.release x.2.dim p
      let (_, s) ← s.storePte u none x.2.pte p
      pure s
    match r with
    | .ok s => s.answered (.orphan x.1 x.2.pte)
    | .error b => match s.later (.orphan x.1 x.2.pte) b with
      | some s => { s with orphans := s.orphans ++ [x] }
      | none => (s.answered (.orphan x.1 x.2.pte)).reportFor { id := 0, code := b.code, kind := .e, ctx := c, level := b.level, access := .engine,
                                                                launch := x.1.crew.launch, crew := x.1.crew.crew, addr := b.addr }
/-- Releases every left capture that no request of its warp holds; one whose peer does not answer stays (R392). -/
def State.releaseOrphans (s : State) : State :=
  (s.orphans.filter (fun x => !s.captureBusy x)).foldl State.releaseOrphan { s with orphans := s.orphans.filter s.captureBusy }
/-- The die that owns a page: that of the home slice of its entry's line (R160). -/
def State.pageDie (s : State) (u : Master) (va : Nat) : Nat :=
  match s.walk u.holder u.ctx va with
  | .ok t => home t.pa / 64
  | .error _ => 0
/-- The engine that does the Clipper's and page-in work for a page: f mod 4 of the die that owns it (R139). -/
def engineFor (die frame : Nat) : Nat := 4 * die + frame % 4
/-! Runs for a warp's instruction: all of them, or the warp waits (R140). -/

/-- Asks for a run and keeps it with the request once it is granted (R140). -/
def State.askRun (s : State) (who : Asker) (ctx tier n : Nat) : Except Bad State :=
  if s.poolQ.any (fun a => a.who = who) then .ok s
  else match s.alloc who ctx tier n with
    | .ok (some u, s) => .ok { s with poolQ := s.poolQ ++ [⟨who, ctx, tier, n, some u⟩] }
    | .ok (none, s) => .ok s
    | .error b => .error b
/-- The run that a request has been granted. -/
def State.gotRun (s : State) (who : Asker) : Option Nat := (s.poolQ.find? (fun a => a.who = who)).bind (·.got)
/-- A granted request is used up. -/
def State.useRun (s : State) (who : Asker) : State := { s with poolQ := s.poolQ.filter (fun a => a.who ≠ who) }
/-- The runs an instruction of a warp asks for, each of n units; the answer is none until all are there. -/
def State.allocAll (s : State) (w : WarpKey) (ctx tier n : Nat) (ks : List Nat) : Except Bad (Option (List Nat) × State) := do
  let s ← ks.foldlM (fun s k => s.askRun (.warp w k) ctx tier n) s
  if ks.all (fun k => (s.gotRun (.warp w k)).isSome) then
    pure (some (ks.map (fun k => (s.gotRun (.warp w k)).getD 0)),
      (ks.foldl (fun s k => s.useRun (.warp w k)) s).dropAllocs (fun a => a.who.ofWarp w))
  else pure (none, s)

/-- One reference more for a run; a run whose count is full is refused (R165). -/
def refFull (s : State) (tier frame : Nat) : Bool := 0xFFFFFFFF ≤ s.refOf tier frame

end Sys2Proof.Machine
end

