-- ==== Sys2Proof/Machine/Sched.lean ====
section
/-! DEFINITION. Loom and creel: what waiting instructions wait for, which warps are ready, swaps, rotation the choice
at an issue slot (spec 07.6), and the passing of device time with the watchdog (spec 10.1, 11.7). -/

namespace Sys2Proof.Machine

def quarterOf (s : State) (k : WarpKey) : Nat := (s.warp k).slot / 16

/-! Spools and batches, as far as waits ask for them (R199, R200). -/

def State.spool? (s : State) (k : CrewKey) (n : Nat) : Option Spool := aget (s.crew k).spools n
def Spool.arr (x : Spool) (i : Nat) : Nat := x.arrived.getD i 0
def Spool.exp (x : Spool) (i : Nat) : Nat := x.expect.getD i 0
def Spool.filled (x : Spool) (i : Nat) : Bool := x.arr i = x.exp i
def Spool.over (x : Spool) (i : Nat) : Bool := x.exp i < x.arr i
/-- A wait for the slot at the front ends: it is filled, overfull or failed (R303). -/
def Spool.due (x : Spool) : Bool := x.filled x.rp || x.over x.rp || (x.failed.getD x.rp none).isSome
/-- Requests in flight that name a spool on a core, of a crew or of the others. -/
def State.spoolReqs (s : State) (core n : Nat) (p : CrewKey → Bool) : Bool :=
  s.reqs.any (fun r => (match r.sink with | .slot k _ => k = n | _ => false) &&
    (match r.warp with | some w => r.core = core && p w.crew | none => false))
/-- A closed batch that counts as at or below n (R199). -/
def Batch.covered (b : Batch) (all : Bool) (n : BitVec 16) : Bool := b.closed && (all || (n - b.n).toNat < 32768)

/-! What an instruction waits for (R135). -/

/-- A write of the warp has not been applied yet. -/
def State.unapplied (s : State) (k : WarpKey) : Bool := s.msgs.any (fun m => m.warp = some k && m.k.changes)
/-- An access of the warp to some line is in flight. -/
def State.lineBusy (s : State) (k : WarpKey) (line : Nat) : Bool := s.msgs.any (fun m => m.warp = some k && m.k.touches line)
/-- The transform pipe's queue of a quarter is full (R138). -/
def State.pipeFull (s : State) (core q : Nat) : Bool := decide (8 ≤ (s.xq.filter (fun r => r.core = core && r.quarter = q)).length)
/-- An engine's queue has no room for n requests more; its requests in flight and the stages it runs count (R139; log 94). -/
def State.engineFull (s : State) (e n : Nat) : Bool := 256 < s.queued e + n
/-- An engine's turn has not come: requests that stand before this one take its 16 places in flight (Table 07.1). -/
def State.engineBusy (s : State) (e : Nat) : Bool := decide (16 ≤ s.queued e)
/-- An earlier update of the same warp to the same event is still on its way (R346). -/
def State.evBefore (s : State) (w : WarpKey) (name id : Nat) : Bool :=
  s.msgs.any (fun m => m.warp = some w && m.id < id && (match m.k with | .event n _ _ => n = name | _ => false))
/-- An update of the warp to an event is on its way. -/
def State.evSent (s : State) (w : WarpKey) (name : Nat) : Bool := s.evBefore w name s.nextId
/-- A post of the member is on its way to the Teller. -/
def State.posting (s : State) (t m : Nat) : Bool :=
  s.msgs.any (fun x => match x.k with | .post a b _ _ _ _ _ => a = t && b = m | _ => false)
/-- An access of a context (of any context) to memory or the window is on its way (R360). -/
def State.accessOut (s : State) (all : Bool) (c : Nat) : Bool :=
  s.msgs.any (fun m => (all || m.ctx = c) && (m.k.pa?.isSome || (match m.k with | .scr _ _ _ => true | _ => false)))
/-- A sweep or a demotion request of the context is not finished (R157). -/
def State.clipperBusy (s : State) (c : Nat) : Bool :=
  (s.ctx c).sweep.isSome || s.demreqs.any (fun d => d.ctx = c) || s.staging.any (fun d => d.ctx = c)
/-- The Clipper is not free for a KVSTEP of the warp: one that arrived earlier waits too (R338). -/
def State.stepWaits (s : State) (k : WarpKey) : Bool :=
  s.clipperBusy k.crew.ctx || (match (s.ctx k.crew.ctx).steps with | r :: _ => r.warp != k | [] => false)
/-- The queue of demotion requests of a die is full (R160). -/
def State.demandsFull (s : State) (die : Nat) : Bool := decide (1024 ≤ (s.demreqs.filter (fun d => d.die = die)).length)
/-- What an instruction of a warp waits for is not there yet. -/
def State.blocked (s : State) (k : WarpKey) : Block → Bool
  | .results ids _ => s.pends.any (fun p => ids.contains p.id)
  | .loads => s.loadsOut k
  | .flush => (s.warp k).flushWait
  | .entries => s.entriesPending k
  | .lines l => l.any (s.lineBusy k)
  | .window off => s.scrOut k off
  | .unapplied => s.unapplied k
  | .spool n => match s.spool? k.crew n with | some x => !x.due | none => false
  | .spoolReqs n => s.spoolReqs (s.coreOf k) n (· = k.crew)
  | .batches all n => (s.warp k).batches.any (fun b => b.covered all n && !b.done)
  | .oldest n => (s.warp k).batches.any (fun b => b.closed && b.n = n && !b.done)
  | .pipe => s.pipeFull (s.coreOf k) (quarterOf s k)
  | .engine e n => s.engineFull e n
  | .turn e => s.engineBusy e
  | .peer pa => s.peerBusy pa
  | .frames => s.poolQ.any (fun a => a.who.ofWarp k && a.got.isNone)
  | .bytes pa n v => s.rdNat pa n = v
  | .event name => s.evSent k name
  | .post t m => s.posting t m
  | .accesses all c => s.accessOut all c
  | .clipper => s.stepWaits k
  | .demands die => s.demandsFull die

/-! Ready warps (R135). -/

/-- Its crew is on a core and not stopped there. -/
def State.seated (s : State) (k : WarpKey) : Bool := match (s.crew k.crew).seat with | .on _ => true | _ => false
/-- A gang, by its lowest slice, that may be given an issue slot: it is not stopped, and waits for nothing that is not
there. -/
def State.gangFree (s : State) (k : WarpKey) (i : Nat) : Bool :=
  let x := (s.warp k).slice i
  x.stop.isNone && (match x.wait with | .none => true | .retry b _ => !s.blocked k b | _ => false)
/-- The gangs of a warp that may issue: where one waits in an instruction that holds the warp, no other does (R341). -/
def State.freeGangs (s : State) (k : WarpKey) : List Nat :=
  let w := s.warp k
  let whole := w.gangs.filter (fun i => (w.slice i).wait.whole)
  (if whole.isEmpty then w.gangs else whole).filter (s.gangFree k)
/-- A warp is ready when it is not held, its context is not being killed, and a gang of it can issue (R135; log 70). -/
def State.ready (s : State) (k : WarpKey) : Bool :=
  (s.warp k).held.isNone && s.seated k && !s.killing k.crew.ctx && s.phase == .running && !(s.freeGangs k).isEmpty
/-- A warp that is not ready stalls in the loom only on a broken lookahead (R137). -/
def State.stalls (s : State) (k : WarpKey) : Bool :=
  let w := s.warp k
  w.held.isNone && w.gangs.any (fun i => (w.slice i).stop.isNone && (match (w.slice i).wait with | .retry (.results _ st) _ => st | _ => false))
def State.quarterWarps (s : State) (core q : Nat) : List WarpKey :=
  (s.warps.map (·.1)).filter (fun k => s.seated k && s.coreOf k = core && quarterOf s k = q && !(s.warp k).exited)
def Place.inLoom : Place → Bool
  | .loom _ => true
  | .creel => false
def State.loom (s : State) (core q : Nat) : List WarpKey := (s.quarterWarps core q).filter (fun k => (s.warp k).place.inLoom)
def State.creelReady (s : State) (core q : Nat) : List WarpKey :=
  (s.quarterWarps core q).filter (fun k => !(s.warp k).place.inLoom && s.ready k)
/-- Age stamps order by placement time, crew order, warp index (R135). -/
def ageLt (a b : Nat × Nat × Nat) : Bool :=
  a.1 < b.1 || (a.1 = b.1 && (a.2.1 < b.2.1 || (a.2.1 = b.2.1 && a.2.2 < b.2.2)))
/-- The warp that comes first in an order. -/
def firstBy (lt : WarpKey → WarpKey → Bool) : List WarpKey → Option WarpKey
  | [] => none
  | k :: ks => some (ks.foldl (fun b x => if lt x b then x else b) k)
def State.older (s : State) (a b : WarpKey) : Bool := ageLt (s.warp a).age (s.warp b).age
/-- The creel warp that enters under the swap-in rule (R137). -/
def State.swapPick (s : State) (core q : Nat) : Option WarpKey :=
  let r := s.creelReady core q
  match r.filter (fun k => 64 ≤ (s.warp k).passedSwap) with
  | [] => firstBy s.older r
  | l => firstBy s.older l
/-- A swap event: the picked warp enters the loom, the other ready ones are passed over (R135, R137). -/
def State.enter (s : State) (k : WarpKey) : State :=
  let core := s.coreOf k
  let q := quarterOf s k
  let others := (s.creelReady core q).filter (· ≠ k)
  let s := s.count (some k.crew.ctx) 0x04 1
  let s := others.foldl (fun s x => s.modWarp x (fun w => { w with passedSwap := w.passedSwap + 1 })) s
  s.modWarp k (fun w => { w with place := .loom s.time, passedSwap := 0, passedIssue := 0, readyAt := none })
/-- Swap-in: a free loom slot takes the picked warp. -/
def State.swapIn (s : State) (core q : Nat) : State :=
  if (s.loom core q).length ≥ 8 then s
  else match s.swapPick core q with
    | some k => s.enter k
    | none => s
/-- A warp leaves the loom: its reuse latch is emptied (R68). -/
def State.toCreel (s : State) (k : WarpKey) : State :=
  s.modWarp k (fun w => { w with place := .creel, latch := [none, none, none], passedIssue := 0 })
/-- What follows from a step for one warp: one that waits leaves the loom, and its slots passed over are no longer consecutive
(R135, R136). -/
def State.reseatOne (s : State) (k : WarpKey) : State :=
  if s.ready k then s
  else
    let s := s.modWarp k (fun w => { w with passedIssue := 0 })
    if (s.warp k).place.inLoom && !s.stalls k then s.toCreel k else s
/-- Since when a warp has been ready in the creel while no loom slot freed (R137). -/
def State.markReady (s : State) (k : WarpKey) : State :=
  let waits := !(s.warp k).place.inLoom && s.ready k && decide (8 ≤ (s.loom (s.coreOf k) (quarterOf s k)).length)
  s.modWarp k (fun w => { w with readyAt := if waits then some (w.readyAt.getD s.time) else none })
def State.reseat (s : State) : State :=
  let s := (s.warps.map (·.1)).foldl State.reseatOne s
  (s.warps.map (·.1)).foldl State.markReady s
/-- The priority of a warp's launch. -/
def State.prio (s : State) (k : WarpKey) : Nat := (s.packetOf k.crew).priority
/-- The warp chosen at an issue slot (R136). -/
def State.issuePick (s : State) (core q : Nat) : Option WarpKey :=
  let r := (s.loom core q).filter s.ready
  match r.filter (fun k => 16 ≤ (s.warp k).passedIssue) with
  | [] => firstBy (fun a b => s.prio b < s.prio a || (s.prio a = s.prio b && s.older a b)) r
  | l => firstBy s.older l
/-- The gang of a warp whose turn it is (R136). -/
def State.gangPick (s : State) (k : WarpKey) : Option Nat :=
  match (s.freeGangs k).find? (fun i => (s.warp k).lastGang < i) with
  | some i => some i
  | none => (s.freeGangs k).head?
/-- The others that were ready are passed over. -/
def State.passOver (s : State) (core q : Nat) (k : WarpKey) : State :=
  ((s.loom core q).filter (fun x => x ≠ k && s.ready x)).foldl
    (fun s x => s.modWarp x (fun w => { w with passedIssue := w.passedIssue + 1 })) s

/-- SWAP_IN (R137). -/
def execSwapIn (q : Quarter) (s : State) : Out := .next (s.swapIn q.core q.quarter)
/-- A creel warp has been ready for 512 clocks while no loom slot freed (R137). -/
def State.longReady (s : State) (k : WarpKey) : Bool :=
  match (s.warp k).readyAt with | some t => decide (512 * 1000 ≤ (s.time - t) * s.clockMHz) | none => false
/-- ROTATION: a warp ready in the creel for 512 clocks takes the slot of the ready loom warp that entered
longest ago (R137). -/
def execRotation (q : Quarter) (s : State) : Out :=
  let waits := (s.creelReady q.core q.quarter).any s.longReady
  let entered (k : WarpKey) : Nat := match (s.warp k).place with | .loom t => t | .creel => 0
  if (s.loom q.core q.quarter).length < 8 || !waits then .next s
  else
    match firstBy (fun a b => entered a < entered b) ((s.loom q.core q.quarter).filter s.ready) with
    | some k =>
      match s.swapPick q.core q.quarter with
      | some n => .next ((s.toCreel k).enter n)
      | none => .next s
    | none => .next s

/-! Device time (R198, R201, R184). -/

/-- A crew of the launch is resident (R201). -/
def State.residentLaunch (s : State) (c l : Nat) : Bool :=
  s.crews.any (fun p => p.1.ctx = c && p.1.launch = l && (p.2.core?).isSome)
/-- Members of decided groups that hold a warp slot and are not the representative (R184). -/
def State.losersOn (s : State) (t : Teller) : Nat :=
  ((List.range t.members.length).filter (fun i => t.winner ≠ some i &&
    (match aget s.crews ⟨t.ctx, t.launch, (t.members.getD i { crew := 0 }).crew⟩ with
     | some c => (c.core?).isSome
     | none => false))).length
/-- A launch's timer over some ticks from a time: it counts while a crew is resident, and the watchdog fires in the tick in
which it reaches its limit unless that tick is still the present one; a timer past its limit fires in the tick after the one in
which ENABLE became 1 (R201). -/
def Launch.pass (l : Launch) (now dt since : Nat) (enabled counts : Bool) : Launch :=
  let t := if counts then l.timer + dt else l.timer
  let at_ := if l.timer < l.limit then now + (l.limit - l.timer) else if since < now then now else now + 1
  { l with timer := t, due := if l.due.isNone && enabled && decide (l.limit ≤ t) && decide (at_ < now + dt) then some at_ else l.due }
/-- Issue slots of a clock that no ready loom warp is there for, those that the throttle withholds left out (R136). -/
def State.idleSlots (s : State) : Nat :=
  let busy := ((s.warps.filter (fun p => !p.2.exited && p.2.place.inLoom && s.ready p.1)).map (fun p => (s.coreOf p.1, quarterOf s p.1))).dedup
  (512 - busy.length) * (8 - s.scr.duty) / 8
/-- Arithmetic clocks pass: a selection of the counters written before counts from the first of them, and what the last of them
counts stays apart (R74, R202). -/
def State.passClocks (s : State) (n : Nat) : State :=
  if n = 0 then s
  else
    let idle := s.idleSlots
    let s : State := ({ s with scr := { s.scr with prfUse := s.scr.prfSel } }.count none 0x01 (n - 1)).count none 0x03 ((n - 1) * idle)
    ({ s with scr := { s.scr with prfNow := List.replicate 8 0 } }.count none 0x01 1).count none 0x03 idle
/-- Some ticks pass: the arithmetic clocks, the launches' timers and the accounting of decided groups. -/
def State.passTicks (s : State) (dt : Nat) : State :=
  let total := s.clockRem + dt * s.clockMHz
  let n := total / 1000
  let tick (p : (Nat × Nat) × Launch) : (Nat × Nat) × Launch :=
    if p.2.stage == .admitted then
      (p.1, p.2.pass s.time dt s.scr.wdgSince (s.scr.wdgEnable && !p.2.fired) (s.residentLaunch p.1.1 p.1.2)) else p
  let tell (p : Nat × Teller) : Nat × Teller :=
    if p.2.decided then (p.1, { p.2 with clocks := (p.2.clocks + n * s.losersOn p.2) % 2 ^ 64 }) else p
  { s.passClocks n with time := s.time + dt, clocks := s.clocks + n, clockRem := total % 1000,
                        launches := s.launches.map tick, teller := s.teller.map tell }

/-! The watchdog (R201, R220, R227). -/

def Crew.running (c : Crew) : Bool := match c.seat with | .on _ => true | _ => false
/-- A pre-emption is requested for one crew; a second request merges with the first (R220, R224). -/
def State.askCrew (s : State) (k : CrewKey) (force resume byPrio : Bool) : State :=
  match aget s.crews k with
  | some c =>
    if !c.running then s
    else
      let r : Preempt := match c.preempt with
        | some p => { p with force := p.force || force, resume := resume, byPrio := p.byPrio && byPrio }
        | none => ⟨s.time, 1000 * s.scr.forceUs, force, resume, byPrio⟩
      s.setCrew k { c with preempt := some r }
  | none => s
/-- Resident crews of a launch that run on a core. -/
def State.runningCrews (s : State) (c l : Nat) : List CrewKey :=
  (s.crews.filter (fun p => p.1.ctx = c && p.1.launch = l && p.2.running)).map (·.1)
/-- The watchdog fires for a launch: its crews are stopped by force and leave the resume list, and it is reported. -/
def State.fireNow (s : State) (c l : Nat) : State :=
  let s := s.modLaunch c l (fun y => { y with fired := true, due := none, resume := [] })
  let s := (s.runningCrews c l).foldl (fun s k => s.askCrew k true false false) s
  let s := s.modScr (fun r => { r with wdgFired := r.wdgFired ||| (1#64 <<< c) })
  (s.notice 0x14 l).reportFor { id := 0, code := .watchdog, kind := .l, ctx := c, launch := l }
/-- The same in the tick in which the timer reached its limit, if it has. -/
def State.fire (s : State) (c l : Nat) : State :=
  match (aget s.launches (c, l)).bind (·.due) with
  | some t => if (s.launch c l).fired || s.killing c then s else { ({ s with time := t }).fireNow c l with time := s.time }
  | none => s
/-- Every launch whose timer has passed the tick in which it reached its limit (R201). -/
def State.fireDue (s : State) : State := (s.launches.map (·.1)).foldl (fun s k => s.fire k.1 k.2) s
/-- Device time advances by some ticks (R198): what becomes due within them happens before anything of the tick they lead to. -/
def State.elapse (s : State) (dt : Nat) : State := if dt = 0 then s else (s.passTicks dt).fireDue

end Sys2Proof.Machine
end

