-- ==== Sys2Proof/Machine/MemInstr.lean ====
section
/-! DEFINITION. Group 4: loads, stores, early loads, atomics, fences and prefetch (spec 15.1 to 15.5). -/

namespace Sys2Proof.Machine

def szBytes : Sz → Nat
  | .u8 | .s8 => 1
  | .u16 | .s16 => 2
  | .b32 => 4
  | .b64 => 8
  | .b128 => 16
def szSigned : Sz → Bool
  | .s8 | .s16 => true
  | _ => false

/-! Loads. -/

/-- How a load treats L1. -/
inductive LoadKind where
  | ld | ldby | lde
  deriving DecidableEq, Repr

/-- What the lanes of one load have gathered: values that are known, lines to fill with their parts, accesses
that go to their home. -/
structure Gather where
  s : State
  writes : List (Nat × Nat × Word) := []
  fills : List (Nat × Nat × List (Part × Nat)) := []
  sends : List MsgKind := []
  deriving DecidableEq, Repr

def Gather.known (x : Gather) (p : Part) (v : Nat) : Gather := { x with writes := x.writes ++ partWrites p v }
def Gather.fill (x : Gather) (line len : Nat) (p : Part) (o : Nat) : Gather :=
  if x.fills.any (fun f => f.1 = line) then
    { x with fills := x.fills.map (fun f => if f.1 = line then (f.1, f.2.1, f.2.2 ++ [(p, o)]) else f) }
  else { x with fills := x.fills ++ [(line, len, [(p, o)])] }
/-- The Clearing table of a core, which holds the entries of the warps it runs, is full: those that resumed warps bring with them can
take it beyond 256, and then none is made until fewer are left (R185; log 96). -/
def State.tableFull (s : State) (core : Nat) : Bool :=
  decide (256 ≤ (s.clearing.filter (fun e => (s.crew e.warp.crew).core? == some core)).length)
/-- An early load of a stale line: the entry of R186, made where there is room; a lane without one counts once (Table 10.2). -/
def Gather.early (x : Gather) (k : WarpKey) (l : L1Line) (pl : Place2) (p : Part) : Gather :=
  let s := x.s
  let v := leNat (l.bytes (pl.pa % 64) p.size)
  if s.clearing.any (fun e => e.warp = k && e.line = l.line) then x.known p v
  else if (s.clearing.filter (fun e => e.warp = k)).length ≥ 16 || s.tableFull (s.coreOf k) then
    { x with s := if pl.p.byte = 0 then s.count (some k.crew.ctx) 0x0D 1 else s }.fill l.line (s.leaseLen k.crew.ctx pl.tr) p (pl.pa % 64)
  else
    let s := s.count (some k.crew.ctx) 0x0A 1
    let e : ClrEntry := ⟨s.nextId, k, l.line, l.version, .pending⟩
    let y : Gather := { x with s := { s with clearing := s.clearing ++ [e], nextId := s.nextId + 1 },
                               sends := x.sends ++ [MsgKind.valid e.id l.line l.version (s.leaseLen k.crew.ctx pl.tr)] }
    y.known p v
/-- A read at the home for one more part; lanes that read the same bytes share one message. -/
def askHome (pa : Nat) (sp : Space) (p : Part) : List MsgKind → List MsgKind
  | [] => [.ldby pa [p] sp]
  | .ldby a ps b :: l => if a = pa && b = sp && ps.all (fun q => q.size = p.size) then .ldby a (ps ++ [p]) b :: l else .ldby a ps b :: askHome pa sp p l
  | m :: l => m :: askHome pa sp p l
/-- A line to fill, counted once for the line (Table 10.2). -/
def Gather.refill (x : Gather) (ctx code line len : Nat) (p : Part) (o : Nat) : Gather :=
  if x.fills.any (fun f => f.1 = line) then x.fill line len p o else { x with s := x.s.count (some ctx) code 1 }.fill line len p o
/-- A load takes a place's bytes from a leased line of its core (R84). -/
def State.l1Serves (s : State) (k : WarpKey) (kind : LoadKind) (pl : Place2) : Bool :=
  kind != .ldby && cacheable pl && (match s.l1Line (s.coreOf k) (pl.pa / 64) with | some l => s.serves k l | none => false)
/-- One piece of a load (Table 05.3, R91, R113, R122, R186); the lease length is that of the issue (R71; log 72). -/
def Gather.piece (x : Gather) (k : WarpKey) (kind : LoadKind) (pl : Place2) (p : Part) : Gather :=
  let s := x.s
  let c := k.crew.ctx
  match pl.sp with
  | .window => x.known p (s.scrRead (pl.pa - winBase))
  | .range kk => { x with sends := x.sends ++ [.range pl.pa kk p] }
  | sp =>
    if kind == .ldby || !cacheable pl then { x with sends := askHome pl.pa sp p x.sends }
    else
      let line := pl.pa / 64
      let len := s.leaseLen c pl.tr
      match s.l1Line (s.coreOf k) line with
      | none => x.refill c 0x08 line len p (pl.pa % 64)
      | some l =>
        if s.serves k l then x.known p (leNat (l.bytes (pl.pa % 64) p.size))
        else if kind == .lde then x.early k l pl p
        else x.refill c 0x09 line len p (pl.pa % 64)
/-- The parts of a lane's load: destination register and size of each piece. -/
def partOf (pend l : Nat) (d : Reg) (sz : Sz) (p : Piece) : Part := ⟨pend, l, d.toNat + p.byte / 4, p.size, szSigned sz⟩
/-- One lane of a load; an access that leased lines serve is an L1 hit (Table 10.2). -/
def Gather.lane (k : WarpKey) (kind : LoadKind) (pend : Nat) (d : Reg) (sz : Sz) (x : Gather) (l : Nat × List Place2) : Gather :=
  let x := if !l.2.isEmpty && l.2.all (x.s.l1Serves k kind) then { x with s := x.s.count (some k.crew.ctx) 0x07 1 } else x
  l.2.foldl (fun x pl => x.piece k kind pl (partOf pend l.1 d sz pl.p)) x
/-- Sends what a gathering needs, under one pending result; the load retires as it lands. -/
def Gather.done (x : Gather) (g : Cur) (p : Pend) : Out :=
  let parts (m : MsgKind) : Nat := match m with | .ldby _ ps _ => ps.length | .range _ _ _ => 1 | _ => 0
  let left := x.sends.foldl (fun n m => n + parts m) 0 + x.fills.foldl (fun n f => n + f.2.2.length) 0
  let s := x.s
  let s1 := ((s.issued g).advance g).pend { p with left := left, writes := x.writes, load := true }
  let core := s.coreOf g.warp
  let s2 := x.fills.foldl (fun s f => s.send g.ctx core core (some g.warp) (.fill f.1 f.2.1 f.2.2)) s1
  .next (x.sends.foldl (fun s m => s.send g.ctx core core (some g.warp) m) s2)

/-- A copy in L1 from which a lane's piece is read holds an error that cannot be corrected (R93). -/
def State.l1Bad (s : State) (k : WarpKey) (kind : LoadKind) (x : Place2) : Bool :=
  kind != .ldby && cacheable x && s.badSpots.contains (.l1 (s.coreOf k) (x.pa / 64)) &&
    (match s.l1Line (s.coreOf k) (x.pa / 64) with | some l => s.serves k l || kind == .lde | none => false)
/-- A lane's piece is read at a home whose line holds such an error (R93). -/
def State.homeBad (s : State) (k : WarpKey) (kind : LoadKind) (x : Place2) : Bool :=
  x.sp != .window && !s.l1Serves k kind x && s.isBad x.pa x.p.size &&
    !(kind == .lde && cacheable x && (s.l1Line (s.coreOf k) (x.pa / 64)).isSome)
/-- The checks of one lane of a load. -/
def State.loadLane (s : State) (k : WarpKey) (kind : LoadKind) (n : Nat) (ps : Except Bad (List Piece)) : Except Bad (List Place2) := do
  let ls ← ps >>= s.checkLane k .read n
  match ls.find? (fun x => s.l1Bad k kind x || s.homeBad k kind x) with
  | some x => .error (badAt .uncorrectable x.pa)
  | none => pure ls
/-- What a load waits for before it goes to L1 or to the homes: an atomic of its warp on the line, an LD in flight whose
value a copy in L1 may be older than, or a write of its warp to the register (R36, R111, R112). -/
def State.loadWaits (s : State) (k : WarpKey) (kind : LoadKind) (pls : List Place2) : Option Block :=
  match pls.find? (fun x => x.sp == .window && s.scrOut k (x.pa - winBase)) with
  | some x => some (.window (x.pa - winBase))
  | none =>
    match (pls.map (fun x => (x.pa / 64, cacheable x))).filter (fun x => s.atomOut k x.1 || (kind == .ld && x.2 && s.loading k x.1)) with
    | [] => none
    | ls => some (.lines (ls.map (·.1)))
/-- A load of the family: checks every lane, gathers hits and misses, and leaves its destination pending
(R284 to R288). -/
def loadOp (i : Instr) (h : Hdr) (d : Reg) (sz : Sz) (kind : LoadKind)
    (addr : State → WarpKey → Nat → Except Bad (List Piece)) (s : State) (acq : Bool := false) : Out :=
  issue i s fun g s =>
    let lanes := s.taking g h
    let k := g.warp
    match gather .read (lanes.map (fun l => (l, s.loadLane k kind (szBytes sz) (addr s k l)))) with
    | .error fx => raise s g fx
    | .ok ls =>
      match s.loadWaits k kind (ls.flatMap (·.2)) with
      | some b => hold s g b
      | none =>
        let s := if acq && !lanes.isEmpty then s.modWarp k (fun w => { w with acq := true }) else s
        let p := pendOf s g i ((List.range (szRegs sz)).map (d.toNat + ·))
        (ls.foldl (Gather.lane k kind p.id d sz) { s := { s with nextId := s.nextId + 1 } }).done g p

/-- The global address of a lane, plus an offset (Table 15.1). -/
def globalVa (a : Reg) (off : Int) (s : State) (k : WarpKey) (l : Nat) : Nat :=
  lowBits 64 (((s.warp k).pair a l).toNat + off)
def globalAddr (a : Reg) (off : Int) (n : Nat) (s : State) (k : WarpKey) (l : Nat) : Except Bad (List Piece) :=
  globalPieces (globalVa a off s k l) n
/-- A byte offset held in a register (Table 15.1). -/
def offsetOf (a : Reg) (off : Int) (s : State) (k : WarpKey) (l : Nat) : Int := ((s.warp k).rg a.toNat l).toNat + off

/-- LD and LD.ACQ (R286, Table 15.3). -/
def execLd (f : Mem) (s : State) : Out :=
  loadOp (.ld f) f.h f.d f.sz .ld (globalAddr f.a 0 (szBytes f.sz)) s f.ord.isSome
/-- LD with an offset (R286). -/
def execLd96i (f : MemI) (s : State) : Out := loadOp (.ld96i f) f.h f.d f.sz .ld (globalAddr f.a f.off.toInt (szBytes f.sz)) s
/-- LDBY: the value at the home when it arrives (R113). -/
def execLdby (f : Mem) (s : State) : Out := loadOp (.ldby f) f.h f.d f.sz .ldby (globalAddr f.a 0 (szBytes f.sz)) s
/-- LDBY with an offset. -/
def execLdby96i (f : MemI) (s : State) : Out := loadOp (.ldby96i f) f.h f.d f.sz .ldby (globalAddr f.a f.off.toInt (szBytes f.sz)) s
/-- LDE (R289, R186). -/
def execLde (f : Mem) (s : State) : Out := loadOp (.lde f) f.h f.d f.sz .lde (globalAddr f.a 0 (szBytes f.sz)) s
/-- LDE with an offset. -/
def execLde96i (f : MemI) (s : State) : Out := loadOp (.lde96i f) f.h f.d f.sz .lde (globalAddr f.a f.off.toInt (szBytes f.sz)) s
/-- LDL (R81). -/
def execLdl (f : Mem) (s : State) : Out :=
  loadOp (.ldl f) f.h f.d f.sz .ld (fun s k l => s.localPieces k l (offsetOf f.a 0 s k l) (szBytes f.sz)) s
/-- LDL with an offset. -/
def execLdl96i (f : MemI) (s : State) : Out :=
  loadOp (.ldl96i f) f.h f.d f.sz .ld (fun s k l => s.localPieces k l (offsetOf f.a f.off.toInt s k l) (szBytes f.sz)) s
/-- LDC (R82). -/
def execLdc (f : Mem) (s : State) : Out :=
  loadOp (.ldc f) f.h f.d f.sz .ld (fun s k l => s.constPieces k (offsetOf f.a 0 s k l) (szBytes f.sz)) s
/-- LDC with an offset. -/
def execLdc96i (f : MemI) (s : State) : Out :=
  loadOp (.ldc96i f) f.h f.d f.sz .ld (fun s k l => s.constPieces k (offsetOf f.a f.off.toInt s k l) (szBytes f.sz)) s

/-! Scratchpad (R83). -/

/-- The checks of a scratchpad access: alignment, then range (R78, R211). -/
def scratchAt (size : Nat) (o : Int) (n : Nat) : Except Bad Nat :=
  if o % n ≠ 0 then .error (bad .misaligned)
  else if o < 0 || o + n > size then .error (bad .scratchRange)
  else .ok o.toNat
def State.scratchBytes (s : State) (k : CrewKey) (o n : Nat) : List Byte := sgetList (s.crew k).scratch o n
/-- Writes bytes of an allotment; an 8-byte word that is written whole holds no error any more (R93). -/
def State.scratchPut (s : State) (k : CrewKey) (o : Nat) (d : List Byte) : State :=
  (s.modCrew k (fun c => { c with scratch := ssetList c.scratch o d })).heal
    (fun x => match x with | .scratch c w => c = k && o ≤ 8 * w && 8 * w + 8 ≤ o + d.length | _ => false)
/-- Bytes of an allotment lie in a word with an uncorrectable error (R93, R104). -/
def State.scratchBad (s : State) (k : CrewKey) (o n : Nat) : Bool :=
  s.badSpots.any (fun x => match x with | .scratch c w => c = k && o < 8 * w + 8 && 8 * w < o + n | _ => false)
/-- The checks of one lane, the word's own last: a store of a whole word reads nothing of it (R78, R93, R211). -/
def State.scratchLane (s : State) (k : CrewKey) (store : Bool) (o : Int) (n : Nat) : Except Bad Nat := do
  let a ← scratchAt (s.scratchSize k) o n
  if s.scratchBad k a n && !(store && 8 ≤ n) then .error (bad .uncorrectable)
  pure a
/-- LDS in either form. -/
def ldsOp (i : Instr) (h : Hdr) (d a : Reg) (sz : Sz) (off : Int) (s : State) : Out :=
  issue i s fun g s =>
    let n := szBytes sz
    let k := g.warp
    match gather .read ((s.taking g h).map (fun l => (l, s.scratchLane g.crewK false (offsetOf a off s k l) n))) with
    | .error fx => raise s g fx
    | .ok ls => finishPend s g { pendOf s g i ((List.range (szRegs sz)).map (d.toNat + ·)) with
        writes := ls.flatMap (fun p => partWrites ⟨0, p.1, d.toNat, n, szSigned sz⟩ (leNat (s.scratchBytes g.crewK p.2 n))) }
/-- The bytes a lane stores: n bytes of the registers from d up (R287). -/
def storeBytes (w : Warp) (d : Reg) (l n : Nat) : List Byte :=
  ((List.range ((n + 3) / 4)).flatMap (fun j => nbytes 4 (w.rg (d.toNat + j) l).toNat)).take n
/-- STS in either form. -/
def stsOp (i : Instr) (h : Hdr) (d a : Reg) (sz : Sz) (off : Int) (s : State) : Out :=
  issue i s fun g s =>
    let n := szBytes sz
    let k := g.warp
    match gather .write ((s.taking g h).map (fun l => (l, s.scratchLane g.crewK true (offsetOf a off s k l) n))) with
    | .error fx => raise s g fx
    | .ok ls => finish (ls.foldl (fun s p => s.scratchPut g.crewK p.2 (storeBytes (s.warp k) d p.1 n)) s) g
/-- LDS (Table 15.3). -/
def execLds (f : Mem) (s : State) : Out := ldsOp (.lds f) f.h f.d f.a f.sz 0 s
/-- LDS with an offset. -/
def execLds96i (f : MemI) (s : State) : Out := ldsOp (.lds96i f) f.h f.d f.a f.sz f.off.toInt s
/-- STS (Table 15.3). -/
def execSts (f : Mem) (s : State) : Out := stsOp (.sts f) f.h f.d f.a f.sz 0 s
/-- STS with an offset. -/
def execSts96i (f : MemI) (s : State) : Out := stsOp (.sts96i f) f.h f.d f.a f.sz f.off.toInt s

/-! Stores (R286, R36, R86, R114). -/

/-- One write of a core leaves for its home, or its register's block; the core's own L1 copy takes it (R86). -/
def State.store (s : State) (k : WarpKey) (pl : Place2) (d : List Byte) : State :=
  let core := s.coreOf k
  match pl.sp with
  | .window => s.send k.crew.ctx core core (some k) (.scr (pl.pa - winBase) d.length (BitVec.ofNat 64 (leNat d)))
  | sp => (s.ownCopy core pl.pa d).send k.crew.ctx core core (some k) (.write pl.pa d sp)
/-- The writes of one store instruction, in ascending lane order; of several lanes that write one address the
highest is left (R36). -/
def storeList (w : Warp) (d : Reg) (n : Nat) (ls : List (Nat × List Place2)) : List (Place2 × List Byte) :=
  let all := ls.flatMap (fun l => l.2.map (fun pl => (l.1, pl)))
  (all.filter (fun x => !all.any (fun y => y.2.pa = x.2.pa && x.1 < y.1))).map (fun x =>
    (x.2, ((storeBytes w d x.1 n).drop x.2.p.byte).take x.2.p.size))
/-- A store of the family; with a scope it is the release followed by the store (R116). A store with a release to the system
control window retires once it has been applied (R73). -/
def storeOp (i : Instr) (h : Hdr) (d : Reg) (sz : Sz) (ord : Option Scope)
    (addr : State → WarpKey → Nat → Except Bad (List Piece)) (s : State) : Out :=
  issue i s fun g s =>
    let lanes := s.taking g h
    let k := g.warp
    let n := szBytes sz
    match gather .write (lanes.map (fun l => (l, addr s k l >>= s.checkLane k .write n))) with
    | .error fx => raise s g fx
    | .ok ls =>
      let go (s : State) : State := (storeList (s.warp k) d n ls).foldl (fun s x => s.store k x.1 x.2) s
      match ord with
      | some sc =>
        if lanes.isEmpty then finish s g
        else withRelease s g sc (fun s =>
          if ls.any (fun l => l.2.any (fun pl => pl.sp == .window)) then .next ((go s).waitIn g (.applied g.len)) else finish (go s) g)
      | none => finish (go s) g
/-- ST and ST.REL (R286). -/
def execSt (f : Mem) (s : State) : Out := storeOp (.st f) f.h f.d f.sz f.ord (globalAddr f.a 0 (szBytes f.sz)) s
/-- ST with an offset. -/
def execSt96i (f : MemI) (s : State) : Out := storeOp (.st96i f) f.h f.d f.sz none (globalAddr f.a f.off.toInt (szBytes f.sz)) s
/-- STL (R81). -/
def execStl (f : Mem) (s : State) : Out :=
  storeOp (.stl f) f.h f.d f.sz none (fun s k l => s.localPieces k l (offsetOf f.a 0 s k l) (szBytes f.sz)) s
/-- STL with an offset. -/
def execStl96i (f : MemI) (s : State) : Out :=
  storeOp (.stl96i f) f.h f.d f.sz none (fun s k l => s.localPieces k l (offsetOf f.a f.off.toInt s k l) (szBytes f.sz)) s

/-! Early loads' ends (R290, R291). -/

/-- CLEAR: a cancellation-free wait for the warp's entries; a struck one sends the gang to the target (R290). -/
def execClear (f : Clear) (s : State) : Out :=
  issue (.clear f) s fun g s =>
    if s.entriesPending g.warp then hold s g .entries
    else
      let struck := s.clearing.any (fun e => e.warp = g.warp && e.st == .struck)
      .next (((s.retire g).dropEntries g.warp).moveTo g (fun _ x =>
        { x with pc := x.pc + (if struck then (f.off.signExtend 64) * 4#64 else BitVec.ofNat 64 g.len) }))
/-- CLDROP: frees the warp's entries at once (R291). -/
def execCldrop (f : Bare) (s : State) : Out :=
  issue (.cldrop f) s fun g s =>
    finish (if (s.taking g f.h).isEmpty then s else s.dropEntries g.warp) g

/-! Atomics and reductions (R292 to R295, R119). -/

/-- The addresses of an atomic: one aligned element a lane, on memory that allows the operation. -/
def State.atomPlace (s : State) (k : WarpKey) (ty : ATy) (op : Option AOp) (ret : Bool) (va : Nat) : Except Bad Place2 := do
  let pl ← s.checkPiece k .atomic (atyBytes ty) ⟨va, atyBytes ty, 0⟩
  if pl.sp == .host && !hostAtomic ty op ret then .error (badV .accessDenied pl.tr.level va)
  pure pl
/-- The same with the copy in L1 that the atomic works on (R93). -/
def State.atomCheck (s : State) (k : WarpKey) (ty : ATy) (op : Option AOp) (ret l1 : Bool) (va : Nat) : Except Bad Place2 := do
  let pl ← s.atomPlace k ty op ret va
  if l1 && s.l1Bad k .ld pl then .error (badAt .uncorrectable pl.pa)
  pure pl
/-- Scopes whose atomics run in L1 (Table 06.5). -/
def narrow (sc : Scope) : Bool := sc == .slice || sc == .warp || sc == .crew
/-- An atomic runs in the core's own L1: crew scope or narrower, on a line that can be held there (R119). -/
def inL1 (sc : Scope) (pl : Place2) : Bool := narrow sc && cacheable pl
/-- Lines an L1 atomic needs that are not leased, or that are Stale to its crew. -/
def State.linesNeeded (s : State) (k : WarpKey) (sc : Scope) (ls : List (Nat × Place2)) : List (Nat × Nat) :=
  ((ls.filter (fun p => inL1 sc p.2 && !s.l1Serves k .ld p.2)).map (fun p => (p.2.pa / 64, s.leaseLen k.crew.ctx p.2.tr))).dedup
/-- A fill sets out for a line that no load waits for, unless one is in flight; of an absent line it is a miss (Table 06.5,
Table 10.2). -/
def State.askLine (s : State) (k : WarpKey) (line len : Nat) : State :=
  let core := s.coreOf k
  if s.filling k line then s
  else (if (s.l1Line core line).isSome then s else s.count (some k.crew.ctx) 0x08 1).send k.crew.ctx core core (some k) (.fill line len [])
/-- One lane of an atomic: in L1, a hit there, its result is written through as a store; else it leaves for its home. The
answer holds the register writes known now. `f` gives the new value, or none for a compare that fails. -/
def State.atomLane (s : State) (k : WarpKey) (ty : ATy) (sc : Scope) (dst : Option Part) (pl : Place2)
    (f : Nat → Option Nat) (m : MsgKind) : State × List (Nat × Nat × Word) :=
  let core := s.coreOf k
  if inL1 sc pl then
    match s.l1Line core (pl.pa / 64) with
    | some l =>
      let old := leNat (l.bytes (pl.pa % 64) (atyBytes ty))
      let s := s.count (some k.crew.ctx) 0x07 1
      let s := match f old with | some v => s.store k pl (nbytes (atyBytes ty) v) | none => s
      (s, match dst with | some p => partWrites p old | none => [])
    | none => (s, [])
  else (s.send k.crew.ctx core core (some k) m, [])
/-- The shared form of ATOM, ATOMC and RED: `ret` says whether the old value returns to d. -/
def atomOp (i : Instr) (h : Hdr) (ty : ATy) (op : Option AOp) (sc : Scope) (d : Option Reg) (va : State → WarpKey → Nat → Nat)
    (f : Warp → Nat → Nat → Option Nat) (msg : Warp → Nat → Place2 → Option Part → MsgKind) (s : State) : Out :=
  issue i s fun g s =>
    let k := g.warp
    let lanes := s.taking g h
    match gather .atomic (lanes.map (fun l => (l, s.atomCheck k ty op d.isSome (narrow sc) (va s k l)))) with
    | .error fx => raise s g fx
    | .ok ls =>
      -- an earlier atomic or load of the warp on a line comes before it (R112)
      match (ls.filter (fun p => inL1 sc p.2 && (s.atomOut k (p.2.pa / 64) || s.loading k (p.2.pa / 64)))).map (fun p => p.2.pa / 64) with
      | b :: bs => hold s g (.lines (b :: bs))
      | [] =>
      match s.linesNeeded k sc ls with
      | n :: ns => hold ((n :: ns).foldl (fun s x => s.askLine k x.1 x.2) s) g (.lines ((n :: ns).map (·.1)))
      | [] =>
        let w := s.warp k
        let id := s.nextId
        let part (l : Nat) : Option Part := d.map (fun r => ⟨id, l, r.toNat, atyBytes ty, false⟩)
        let s0 := { s with nextId := id + 1 }
        let r := ls.foldl (fun (a : State × List (Nat × Nat × Word)) p =>
          let x := a.1.atomLane k ty sc (part p.1) p.2 (f w p.1) (msg w p.1 p.2 (part p.1))
          (x.1, a.2 ++ x.2)) (s0, [])
        match d with
        | some r0 =>
          let p := { pendOf s g i ((List.range (atyRegs ty)).map (r0.toNat + ·)) with
            left := (ls.filter (fun p => !inL1 sc p.2)).length, writes := r.2, load := true }
          .next (((r.1.issued g).advance g).pend p)
        | none => finish r.1 g
def atomVa (a : Reg) (off : BitVec 16) (s : State) (k : WarpKey) (l : Nat) : Nat := globalVa a off.toInt s k l
/-- ATOM (R293). -/
def execAtom (f : Atom) (s : State) : Out :=
  let b (w : Warp) (l : Nat) : Nat := w.srcN f.ub (atyRegs f.ty) f.b l
  atomOp (.atom f) f.h f.ty (some f.op) f.sc (some f.d) (atomVa f.a f.off)
    (fun w l old => some (aopNew f.ty f.op old (b w l)))
    (fun w l pl p => .atom pl.pa f.ty f.op (BitVec.ofNat 64 (b w l)) p pl.sp) s
/-- ATOMC (R293). -/
def execAtomc (f : Atomc) (s : State) : Out :=
  let n := atyRegs f.ty
  let b (w : Warp) (l : Nat) : Nat := w.srcN f.ub n f.b l
  let c (w : Warp) (l : Nat) : Nat := w.srcN false n f.c l
  atomOp (.atomc f) f.h f.ty none f.sc (some f.d) (atomVa f.a f.off)
    (fun w l old => if old = b w l then some (c w l) else none)
    (fun w l pl p => .cas pl.pa f.ty (BitVec.ofNat 64 (b w l)) (BitVec.ofNat 64 (c w l)) (p.getD ⟨0, 0, 0, 4, false⟩) pl.sp) s
/-- RED (R294). -/
def execRed (f : Red) (s : State) : Out :=
  let b (w : Warp) (l : Nat) : Nat := w.srcN false (atyRegs f.ty) f.b l
  atomOp (.red f) f.h f.ty (some f.op) f.sc none (globalVa f.a 0)
    (fun w l old => some (aopNew f.ty f.op old (b w l)))
    (fun w l pl p => .atom pl.pa f.ty f.op (BitVec.ofNat 64 (b w l)) p pl.sp) s
/-- RED with an immediate (R294). -/
def execRed96i (f : RedI) (s : State) : Out :=
  atomOp (.red96i f) f.h f.ty (some f.op) f.sc none (globalVa f.a 0)
    (fun _ _ old => some (aopNew f.ty f.op old f.imm.toNat))
    (fun _ _ pl p => .atom pl.pa f.ty f.op (f.imm.setWidth 64) p pl.sp) s
/-- The element a REDC adds to: aligned to 8, on a commutative range of a tier (R295, R121). -/
def State.redcPlace (s : State) (k : WarpKey) (va : Nat) : Except Bad Place2 := do
  if !canonical va then .error (bad .addrRange)
  if va % 8 ≠ 0 then .error (bad .misaligned)
  let t ← s.xlate (s.coreOf k) k.crew.ctx va (!s.privOf k) .atomic
  match spaceOf t with
  | .range kk =>
    if t.prot then .error (badV .accessDenied t.level va)
    if !s.physOk t.pa 0 true true false then .error (bad .accessDenied)
    if s.isBad t.pa 8 then .error (badAt .uncorrectable t.pa)
    pure ⟨t.pa, .range kk, t, ⟨va, 8, 0⟩⟩
  | _ => .error (badV .accessDenied t.level va)
/-- The lanes' additions of a REDC, into the core's partials or, on a page of lease none, the home's slots (R121); partials
beyond what L1 can pin go to their slots (R87). -/
def State.redcAll (s : State) (k : WarpKey) (b : Reg) (ls : List (Nat × Place2)) : State :=
  if ls.isEmpty then s
  else (ls.foldl (fun s p => s.redc (s.coreOf k) k.crew.ctx p.2.pa p.2.tr.k (p.2.tr.lease = 2) (f32 ((s.warp k).rg b.toNat p.1))) s).handOver (s.coreOf k)
/-- REDC (R295, R121): each lane adds to its element's partial of the core, behind the warp's own stores to and loads of the
element (R111). -/
def execRedc (f : Redc) (s : State) : Out :=
  issue (.redc f) s fun g s =>
    let k := g.warp
    match gather .atomic ((s.taking g f.h).map (fun l => (l, s.redcPlace k (globalVa f.a 0 s k l)))) with
    | .error fx => raise s g fx
    | .ok ls =>
      match (ls.map (fun p => p.2.pa / 64)).filter (s.lineBusy k) with
      | [] => finish (s.redcAll k f.b ls) g
      | l => hold s g (.lines l)

/-! Fences and prefetch (R296, R297). -/

/-- Every line of the core's L1 is dropped, and what partials it held goes to their slots (Table 06.3, R87). -/
def State.invL1 (s : State) (core : Nat) : State :=
  { s with l1 := s.l1.filter (fun l => l.core ≠ core) }.spill (fun k _ => k.1 = core)
/-- An acquire: earlier loads of the warp have returned. -/
def withAcquire (s : State) (g : Cur) (k : State → Out) : Out := if s.loadsOut g.warp then hold s g .loads else k s
/-- FENCE (R296, Table 06.3). -/
def execFence (f : Fence) (s : State) : Out :=
  issue (.fence f) s fun g s =>
    if (s.taking g f.h).isEmpty then finish s g
    else match f.kind with
      | .rel => withRelease s g f.sc (fun s => finish s g)
      | .acq => withAcquire s g (fun s => finish s g)
      | .acqInv => withAcquire s g (fun s => finish (s.invL1 (s.coreOf g.warp)) g)
      | .acqRel => withRelease s g f.sc (fun s => withAcquire s g (fun s => finish s g))
/-- FENCE_COMPLETION: a gang that waits for a release has it complete (R116). -/
def execFenceCompletion (k : GangKey) (s : State) : Out :=
  match ((s.warp k.warp).slice k.slice).wait with
  | .release sc _ =>
    if s.relReady k.warp sc then
      .next ((s.relDo k.warp sc).modWarp k.warp (fun w => w.modSlices (w.gangOf k.slice) (fun x =>
        { x with wait := .none, relDone := true })))
    else .next s
  | _ => .next s
/-- A prefetch: lanes whose address would fault are dropped (R297). -/
def prefOp (i : Instr) (h : Hdr) (l2 : Bool) (a : Reg) (off : Int) (s : State) : Out :=
  issue i s fun g s =>
    let k := g.warp
    let core := s.coreOf k
    let pls := (s.taking g h).filterMap (fun l => match s.checkPiece k .read 1 ⟨globalVa a off s k l, 1, 0⟩ with
      | .ok pl => if cacheable pl && !s.homeBad k .ld pl then some pl else none
      | .error _ => none)
    let one (s : State) (pl : Place2) : State :=
      if l2 then s.l2Touch (pl.pa / 64) false
      else
        if s.l1Serves k .ld pl || s.filling k (pl.pa / 64) then s
        else
          let s := if (s.l1Line core (pl.pa / 64)).isSome then s else s.count (some g.ctx) 0x08 1
          s.send g.ctx core core (some k) (.fill (pl.pa / 64) (s.leaseLen g.ctx pl.tr) [])
    finish (pls.foldl one s) g
/-- PREF (R297). -/
def execPref (f : Pref) (s : State) : Out := prefOp (.pref f) f.h f.l2 f.a 0 s
/-- PREF with an offset. -/
def execPref96i (f : PrefI) (s : State) : Out := prefOp (.pref96i f) f.h f.l2 f.a f.off.toInt s

end Sys2Proof.Machine
end

