-- ==== Sys2Proof/Machine/Copy.lean ====
section
/-! DEFINITION. Group 5: per-thread copies, spools, tensor copies, frames and tiers, accumulator transfers (spec
15.6 to 15.10). -/

namespace Sys2Proof.Machine

/-! Instructions that act once for their gang (R211, R312). -/

/-- A gang-wise instruction: nothing happens where no lane takes part; the lowest taking-part lane supplies the
operands, and every taking-part lane is named in its faults. -/
def gangOp (i : Instr) (h : Hdr) (f : Cur → State → Nat → List Nat → Out) (s : State) : Out :=
  issue i s fun g s =>
    match s.taking g h with
    | [] => finish s g
    | l :: ls => f g s l (l :: ls)
/-- An instruction that reads memory as it issues comes behind what its warp has issued: its writes are applied, and its loads
have returned (R111, R112); `whole` of one that holds its warp. -/
def inOrder (s : State) (g : Cur) (k : Out) (whole : Bool := false) : Out :=
  if s.unapplied g.warp then hold s g .unapplied whole else if s.loadsOut g.warp then hold s g .loads whole else k
/-- A gang-wise instruction that does so. -/
def recordOp (i : Instr) (h : Hdr) (f : Cur → State → Nat → List Nat → Out) (s : State) (whole : Bool := false) : Out :=
  gangOp i h (fun g s l lanes => inOrder s g (f g s l lanes) whole) s
/-- Goes on with a result, or takes the fault met on the way to it. -/
def orRaise {α : Type} (s : State) (g : Cur) (a : Acc) (lanes : List Nat) (r : Except Bad α) (k : α → Out) (whole : Bool := false) : Out :=
  match r with
  | .error b => raise s g (b.fx a lanes) whole
  | .ok x => k x

/-- The acknowledgement of writes that an instruction made at their homes in its own step; those to peers are the warp's to have
settled (R115, R117). -/
def State.ackOut (s : State) (g : Cur) : State :=
  (s.modWarp g.warp (fun w => { w with settles := w.settles ++ s.out.settles })).send g.ctx (s.coreOf g.warp) (s.coreOf g.warp) (some g.warp) (.ack s.out.wct)

/-! Requests to the Shuttle engines (R139). -/

/-- The engine of a core's requests, by its number in the device. -/
def engineOf (core : Nat) : Nat := 4 * (core / 32) + core % 32 / 8
/-- A warp's request joins its engine's queue. -/
def State.addReq (s : State) (g : Cur) (engine : Nat) (op : ReqOp) (sink : Sink) : State :=
  { s with nextId := s.nextId + 1,
           reqs := s.reqs ++ [{ id := s.nextId, ctx := g.ctx, warp := some g.warp, user := !s.privOf g.warp,
                                core := s.coreOf g.warp, engine := engine, op := op, sink := sink }] }
/-- Queues the requests of all lanes, each at its engine, or holds the instruction (R139). -/
def queueEach (s : State) (g : Cur) (sink : Sink) (ops : List (Nat × ReqOp)) : Out :=
  let need (e : Nat) : Nat := (ops.filter (fun o => o.1 = e)).length
  match ops.find? (fun o => s.engineFull o.1 (need o.1)) with
  | some o => holdQueue s g (.engine o.1 (need o.1))
  | none => finish (ops.foldl (fun s o => s.addReq g o.1 o.2 sink) s) g
/-- The same at the engine of the core. -/
def queueAll (s : State) (g : Cur) (sink : Sink) (ops : List ReqOp) : Out :=
  queueEach s g sink (ops.map (fun o => (engineOf (s.coreOf g.warp), o)))

/-! Per-thread copies (R298 to R300). -/

def cpaBytes (n : BitVec 2) : Nat := 4 * 2 ^ n.toNat
/-- The checks of one lane's copy. -/
def State.cpaLane (s : State) (k : WarpKey) (f : Cpa) (l : Nat) : Except Bad ReqOp :=
  let w := s.warp k
  let n := cpaBytes f.n
  let dst := (w.rg f.d.toNat l).toNat
  let v := min (w.src f.ub f.b l).toNat n
  let src := (w.pair f.a l).toNat
  if dst % n ≠ 0 then .error (bad .misaligned)
  else if s.scratchSize k.crew < dst + n then .error (bad .scratchRange)
  else if 0 < v && src % n ≠ 0 then .error (bad .misaligned)
  else if 0 < v && !canonical src then .error (bad .addrRange)
  else .ok (.cpa dst n v src)
/-- Copies join the warp's pending batch. -/
def Warp.addCopies (w : Warp) (n : Nat) : Warp :=
  if n = 0 then w
  else if w.batches.any (fun b => !b.closed) then
    { w with batches := w.batches.map (fun b => if b.closed then b else { b with left := b.left + n }) }
  else { w with batches := w.batches ++ [{ n := w.nextBatch, closed := false, left := n }] }
/-- CPA (R298). -/
def execCpa (f : Cpa) (s : State) : Out :=
  issue (.cpa f) s fun g s =>
    let k := g.warp
    match gather .read ((s.taking g f.h).map (fun l => (l, s.cpaLane k f l))) with
    | .error fx => raise s g fx
    | .ok ls =>
      let e := engineOf (s.coreOf k)
      if s.engineFull e ls.length then holdQueue s g (.engine e ls.length)
      else
        let s := s.modWarp k (fun w => w.addCopies ls.length)
        finish (ls.foldl (fun s p => s.addReq g e p.2 (.batch (s.warp k).nextBatch)) s) g
/-- CPCLOSE: with eight batches closed and not complete it waits for the oldest (R299, R199). -/
def execCpclose (f : OnlyD) (s : State) : Out :=
  gangOp (.cpclose f) f.h (fun g s _ lanes =>
    let w := s.warp g.warp
    let open_ := w.batches.filter (fun b => b.closed && !b.done)
    if 8 ≤ open_.length then hold s g (.oldest ((open_.headD ⟨0, true, 0, none, false, false⟩).n))
    else
      let n := w.nextBatch
      let bs := if w.batches.any (fun b => !b.closed) then w.batches.map (fun b => { b with closed := true })
        else w.batches ++ [{ n := n, closed := true, left := 0 }]
      let w := { w with batches := bs, nextBatch := n + 1, lastBatch := n }
      finish (s.setWarp g.warp (w.wrs (lanes.map (fun l => (f.d.toNat, l, n.setWidth 32))))) g) s
/-- The fault of a wait that meets a failure: that of its report (R214). -/
def Failure.fx (x : Failure) (lanes : List Nat) : Fx := { code := x.code, addr := x.addr, lanes := lanes, met := true }
/-- CPWAIT: waits for the batches it names, and faults with the code of one that failed (R300). The copies write
scratchpad alone, so the acquire adds no completion time (R115, R124). -/
def execCpwait (f : Cpwait) (s : State) : Out :=
  gangOp (.cpwait f) f.h (fun g s l lanes =>
    cancelPoint s g (
      let w := s.warp g.warp
      let mine (b : Batch) : Bool := b.covered f.all ((w.rg f.a.toNat l).setWidth 16)
      if w.batches.any (fun b => mine b && !b.done) then hold s g (.batches f.all ((w.rg f.a.toNat l).setWidth 16))
      else match (w.batches.filter mine).findSome? (·.failed) with
        | some c => .next ((s.setWarp g.warp { w with batches := w.batches.map (fun b => if mine b then { b with met := true } else b) }).takeFault g
            (c.fx lanes))
        | none => finish s g)) s

/-! Spools (R301 to R303, R200). -/

def State.setSpool (s : State) (k : CrewKey) (n : Nat) (x : Spool) : State := s.modCrew k (fun c => { c with spools := aset c.spools n x })
/-- Consecutive filled slots from rp. -/
def Spool.adv (x : Spool) : Nat := ((List.range x.ns).takeWhile (fun i => x.filled ((x.rp + i) % x.ns))).length
/-- A spool number of a core belongs to another crew. -/
def State.spoolTaken (s : State) (core : Nat) (k : CrewKey) (n : Nat) : Bool :=
  s.crews.any (fun p => p.1 ≠ k && p.2.core? = some core && (aget p.2.spools n).isSome) || s.spoolReqs core n (· ≠ k)
def spoolFx (n : Nat) (lanes : List Nat) : Fx := { code := .spoolState, addr := n, lanes := lanes }
/-- SPSET (R302). -/
def execSpset (f : Spset) (s : State) : Out :=
  issue (.spset f) s fun g s =>
    let lanes := s.taking g f.h
    let w := s.warp g.warp
    let k := f.k.toNat
    let n := f.n1.toNat + 1
    let core := s.coreOf g.warp
    let e := (List.range n).map (fun i => (w.rg f.b.toNat i).toNat)
    let short := !f.free && (!(List.range n).all lanes.contains || e.contains 0)
    if f.free && lanes.isEmpty then finish s g
    else if short || s.spoolTaken core g.crewK k then raise s g (spoolFx k lanes)
    else if s.spoolReqs core k (· = g.crewK) then hold s g (.spoolReqs k)
    else if f.free then finish (s.modCrew g.crewK (fun c => { c with spools := adel c.spools k })) g
    else finish (s.setSpool g.crewK k { ns := n, expect := e, arrived := List.replicate n 0,
                                        failed := List.replicate n none, got := List.replicate n {} }) g
/-- The acquire of what a slot's requests wrote: its completion time joins %whz, its writes to peers are the warp's to have
settled, and the core's copies of what they wrote are older (R124, R115, R117, R111; log 87). -/
def State.acquire (s : State) (k : WarpKey) (x : Landed) : State :=
  (s.modWarp k (fun w => { w with whz := max w.whz x.wct, settles := w.settles ++ x.settles })).markL1 (s.coreOf k) k.crew (fun l => l.meets x.puts)
/-- SPWAIT (R303, R124, R115). -/
def execSpwait (f : SpD) (s : State) : Out :=
  gangOp (.spwait f) f.h (fun g s _ lanes =>
    cancelPoint s g (
      match s.spool? g.crewK f.k.toNat with
      | none => raise s g (spoolFx f.k.toNat lanes)
      | some x =>
        if x.over x.rp then raise s g (spoolFx f.k.toNat lanes)
        else match x.failed.getD x.rp none with
          | some c => .next (s.takeFault g (c.fx lanes))
          | none =>
            if !x.filled x.rp then hold s g (.spool f.k.toNat)
            else finish ((s.acquire g.warp (x.got.getD x.rp {})).wrLanes g.warp (lanes.map (fun l => (f.d.toNat, l, BitVec.ofNat 32 x.rp)))) g)) s
/-- SPREL (R303, R200). -/
def execSprel (f : SpK) (s : State) : Out :=
  gangOp (.sprel f) f.h (fun g s _ lanes =>
    match s.spool? g.crewK f.k.toNat with
    | none => raise s g (spoolFx f.k.toNat lanes)
    | some x =>
      if !x.filled x.rp then raise s g (spoolFx f.k.toNat lanes)
      else finish (s.setSpool g.crewK f.k.toNat
        { x with arrived := lset x.arrived x.rp 0, got := lset x.got x.rp {}, rp := (x.rp + 1) % x.ns }) g) s
/-- Table 15.7. -/
def spqryWord (x : Option Spool) : Nat :=
  match x with
  | none => 0
  | some x => x.rp + 16 * x.adv + 512 * (x.ns - 1) + 8192 + 16384 * (x.over x.rp).toNat + 32768 * ((x.failed.getD x.rp none).isSome).toNat
/-- SPQRY (R303). -/
def execSpqry (f : SpD) (s : State) : Out :=
  gangOp (.spqry f) f.h (fun g s _ lanes =>
    let v : Word := BitVec.ofNat 32 (spqryWord (s.spool? g.crewK f.k.toNat))
    finish (s.wrLanes g.warp (lanes.map (fun l => (f.d.toNat, l, v)))) g) s
/-- The spool and slot that a request names (R301). -/
def State.slotOk (s : State) (k : CrewKey) (spool : BitVec 5) (slot : BitVec 4) : Bool :=
  match s.spool? k spool.toNat with
  | some x => slot.toNat < x.ns
  | none => false

/-! Tensor copies (R304 to R307). -/

/-- Table 15.8. -/
def tensorOf (b : List Byte) : Tensor :=
  { base := le64 b 0, dim := (List.range 5).map (fun k => le32 b (8 + 4 * k)), box := (List.range 5).map (fun k => le8 b (0x1C + k)),
    rank := le8 b 0x21, esize := le8 b 0x22, swz := le8 b 0x23, tier := le8 b 0x24,
    stride := (List.range 4).map (fun k => leNat ((b.drop (0x28 + 6 * k)).take 6)) }
def Tensor.ebytes (t : Tensor) : Nat := 2 ^ t.esize
/-- Box extents of the dimensions in use. -/
def Tensor.boxes (t : Tensor) : List Nat := (t.box.take t.rank).map (· + 1)
def Tensor.elems (t : Tensor) : Nat := t.boxes.foldl (· * ·) 1
def Tensor.image (t : Tensor) : Nat := t.elems * t.ebytes
/-- The last column of Table 15.8, and the image's limit. -/
def tensorBad (b : List Byte) (t : Tensor) (limit : Nat) : Bool :=
  t.rank < 1 || 5 < t.rank || 3 < t.esize || 3 < t.swz || !([0, 1, 2, 3, 7].contains t.tier) ||
    leNat ((b.drop 0x25).take 3) ≠ 0 || t.base % t.ebytes ≠ 0 ||
    (List.range 5).any (fun k => if k < t.rank then t.dim.getD k 0 = 0 else t.dim.getD k 0 ≠ 0 || t.box.getD k 0 ≠ 0) ||
    (List.range 4).any (fun k => t.stride.getD k 0 % t.ebytes ≠ 0 || (t.rank ≤ k + 1 && t.stride.getD k 0 ≠ 0)) ||
    limit < t.image
/-- A tile can hold the box (R306). -/
def Tensor.tileOk (t : Tensor) : Bool :=
  t.esize = 2 && t.swz = 0 && 2 ≤ t.rank && t.box.getD 0 0 ≤ 255 && t.box.getD 1 0 ≤ 127 &&
    (List.range 5).all (fun k => k < 2 || t.box.getD k 0 = 0)
/-- Reads a lane's record as the lane's own load, and checks it. -/
def State.readTensor (s : State) (k : WarpKey) (va limit : Nat) : Except Bad Tensor := do
  if va % 64 ≠ 0 then .error (bad .layoutRecord)
  let b ← s.recordRead k va 64
  if tensorBad b (tensorOf b) limit then .error (bad .layoutRecord)
  pure (tensorOf b)
/-- The checks of an image's place at issue: tile, scratchpad, or global address (R306). -/
def State.imageAt (s : State) (k : WarpKey) (t : Tensor) (kind : TKind) (tile : Nat) (d : Nat) : Except Bad Nat :=
  match kind with
  | .tile => if (s.packetOf k.crew).tiles ≤ tile then .error (bad .accumRange)
      else if !t.tileOk then .error (bad .layoutRecord) else .ok tile
  | .scr =>
    let top := if t.swz = 0 then d + t.image else d + 128 * ceilDiv t.image 128
    if d % (if t.swz = 0 then 16 else 128) ≠ 0 then .error (bad .misaligned)
    else if s.scratchSize k.crew < top then .error (bad .scratchRange)
    else .ok d
  | .glb => if d % 16 ≠ 0 then .error (bad .misaligned) else .ok d
/-- The coordinates of a lane. -/
def coords (w : Warp) (l : Nat) (rs : List Reg) : List Int := rs.map (fun r => (w.rg r.toNat l).toInt)
def imageReg (w : Warp) (kind : TKind) (d : Reg) (l : Nat) : Nat :=
  match kind with
  | .glb => (w.pair d l).toNat
  | _ => (w.rg d.toNat l).toNat
/-- The requests of a tensor copy: the slot, then the records, which wait for the warp's own stores and loads, then the images
(R304, R306, R211). -/
def tensorReqs (s : State) (g : Cur) (lanes : List Nat) (a : Reg) (spool : BitVec 5) (slot : BitVec 4)
    (lane : Nat → Except Bad ReqOp) : Out :=
  if lanes.isEmpty then finish s g
  else if !s.slotOk g.crewK spool slot then raise s g (spoolFx spool.toNat lanes)
  else inOrder s g (match gather .read (lanes.map (fun l => (l, lane l))) with
    | .error fx => raise s g fx
    | .ok ls => queueAll (s.sawRecords g.warp (lanes.map (fun l => ((s.warp g.warp).pair a l).toNat))) g (.slot spool.toNat slot.toNat) (ls.map (·.2)))
/-- TCOPY (R306). -/
def execTcopy (f : Tcopy) (s : State) : Out :=
  issue (.tcopy f) s fun g s =>
    let k := g.warp
    let w := s.warp k
    tensorReqs s g (s.taking g f.h) f.a f.spool f.slot (fun l => do
      let t ← s.readTensor k (w.pair f.a l).toNat (4 * 2 ^ 20)
      let d ← s.imageAt k t f.kind f.tile.toNat (imageReg w f.kind f.d l)
      pure (.tcopy t f.kind f.st d (coords w l [f.b, f.c, f.e, f.f, f.g])))
/-- TCRED (R307). -/
def execTcred (f : Tcred) (s : State) : Out :=
  issue (.tcred f) s fun g s =>
    let k := g.warp
    let w := s.warp k
    tensorReqs s g (s.taking g f.h) f.a f.spool f.slot (fun l => do
      let t ← s.readTensor k (w.pair f.a l).toNat (64 * 1024)
      if t.ebytes ≠ atyBytes f.ty then .error (bad .layoutRecord)
      let d ← s.imageAt k t f.kind f.tile.toNat (imageReg w f.kind f.d l)
      pure (.tcred t f.kind f.ty f.op d (coords w l [f.b, f.c, f.e, f.f, f.g])))

/-! Frames and tiers (R308, R309). -/

/-- DCOPY: a request takes the directory's registers as they are when it is queued (R308, R74). -/
def execDcopy (f : Dcopy) (s : State) : Out :=
  issue (.dcopy f) s fun g s =>
    let w := s.warp g.warp
    let lanes := s.taking g f.h
    let lane (l : Nat) : Except Bad ReqOp :=
      let d := (w.pair f.d l).toNat
      let a := (w.pair f.a l).toNat
      if d % (if f.kv then 64 else 4096) ≠ 0 || a % 4096 ≠ 0 then .error (bad .misaligned)
      else .ok (if f.kv then .dcopyKv f.fmt.toNat d (w.rg f.b.toNat l).toNat a s.dir else .dcopyPage d a s.dir)
    if lanes.isEmpty then finish s g
    else if !s.slotOk g.crewK f.spool f.slot then raise s g (spoolFx f.spool.toNat lanes)
    else match gather .write (lanes.map (fun l => (l, lane l))) with
      | .error fx => raise s g fx
      | .ok ls => queueAll s g (.slot f.spool.toNat f.slot.toNat) (ls.map (·.2))
/-- The engine of a page-in: that of the page's frame on the die that owns it, which the entry names; of a record or page that
cannot be read, the core's own, which then meets the fault (R139; log 75). -/
def State.pageEngine (s : State) (k : WarpKey) (ksr page : Nat) : Nat :=
  let u : Master := ⟨s.coreOf k, k.crew.ctx, !s.privOf k, 1⟩
  let r : Except Bad Nat := do
    let x ← s.readKsr u ksr
    let p ← s.kvPage u x page
    pure (engineFor (s.pageDie u (x.pteVa page)) (fwFrame p.cur))
  match r with
  | .ok e => e
  | .error _ => engineOf (s.coreOf k)
/-- PGIN and PGMOVE; page-in work goes to the engine of the page's frame, a PGMOVE to tier 1 or 2 too (R309, R139; log 75). -/
def pageMoveOp (i : Instr) (f : Pgmove) (tier : Nat) (s : State) : Out :=
  issue i s fun g s =>
    let w := s.warp g.warp
    let lanes := s.taking g f.h
    let lane (l : Nat) : Except Bad (Nat × ReqOp) :=
      let a := (w.pair f.a l).toNat
      let pg := (w.rg f.b.toNat l).toNat
      if a % 64 ≠ 0 then .error (bad .misaligned) else .ok (s.pageEngine g.warp a pg, .pgmove a pg tier)
    if lanes.isEmpty then finish s g
    else if !s.slotOk g.crewK f.spool f.slot then raise s g (spoolFx f.spool.toNat lanes)
    else match gather .write (lanes.map (fun l => (l, lane l))) with
      | .error fx => raise s g fx
      | .ok ls => queueEach s g (.slot f.spool.toNat f.slot.toNat) (ls.map (·.2))
/-- PGIN (R309). -/
def execPgin (f : Pgmove) (s : State) : Out := pageMoveOp (.pgin f) f 0 s
/-- PGMOVE (R309). -/
def execPgmove (f : Pgmove) (s : State) : Out := pageMoveOp (.pgmove f) f f.tier.toNat s
/-- One lane of a CRCCHK: the translation faults of a load of one byte, and what its block's entry says (R310, R72). -/
def State.crcLane (s : State) (k : WarpKey) (va : Nat) : Except Bad Nat := do
  if !canonical va then .error (bad .addrRange)
  if s.inWindow k va && !s.privOf k then .error (bad .privilege)
  let t ← s.xlate (s.coreOf k) k.crew.ctx va (!s.privOf k) .read
  match region t.pa with
  | .window => pure 0
  | .host | .peer _ => if s.accAllows t.pa 0 true false then pure 0 else .error (bad .accessDenied)
  | _ =>
    if !s.physOk t.pa 0 true false false then .error (bad .accessDenied)
    if !t.prot then pure 0
    else match s.checkBlock k.crew.ctx t.pa with
      | some b => .error { b with refused := false }
      | none => pure 1
/-- CRCCHK (R310). -/
def execCrcchk (f : CallX) (s : State) : Out :=
  issue (.crcchk f) s fun g s =>
    match gather .read ((s.taking g f.h).map (fun l => (l, s.crcLane g.warp (globalVa f.a 0 s g.warp l)))) with
    | .error fx => raise s g fx
    | .ok ls => finishPend s g { pendOf s g (.crcchk f) [f.d.toNat] with
        writes := ls.map (fun p => (f.d.toNat, p.1, BitVec.ofNat 32 p.2)), load := true }

/-! Accumulator transfers (R311). -/

/-- The checks of tile, rows and image address. -/
def State.accCheck (s : State) (k : CrewKey) (f : Accx) (va : Nat) : Except Bad Unit :=
  let n := f.n1.toNat + 1
  if (s.packetOf k).tiles ≤ f.k.toNat || 128 < f.row0.toNat + n then .error (bad .accumRange)
  else if va % 16 ≠ 0 then .error (bad .misaligned)
  else if f.s && s.scratchSize k < va + 1024 * n then .error (bad .scratchRange)
  else .ok ()
def accAddr (w : Warp) (f : Accx) (l : Nat) : Nat := if f.s then (w.rg f.a.toNat l).toNat else (w.pair f.a l).toNat
/-- Words of an image from its bytes. -/
def imageWords (key : Nat) : Nat → List Byte → List (Nat × Word)
  | 0, _ => []
  | n + 1, b => (key, BitVec.ofNat 32 (le32 b 0)) :: imageWords (key + 1) n (b.drop 4)
/-- What the pages of an image meet in their translation and access checks, in R211's order; the window takes no access of
that size (R72), and a commutative range no ACCST. -/
def State.imageBad (s : State) (k : WarpKey) (st : Bool) (va n : Nat) : Option Bad :=
  let u : Master := ⟨s.coreOf k, k.crew.ctx, !s.privOf k, 0⟩
  let page (p : Nat × Nat) : Except Bad Unit := do
    if canonical p.1 && s.inWindow k p.1 then .error (bad (if s.privOf k then .misaligned else .privilege))
    let t ← if st then s.unitAt u p.1 .write else s.readAt u p.1 p.2
    if st && t.isRange then .error (badV .accessDenied t.level p.1)
  firstBad (badsOf page (pieces (n / 4096 + 2) va n))
/-- The checks of an image, each before any byte moves, then of the data that is read (R311, R93). -/
def State.imageCheck (s : State) (k : WarpKey) (f : Accx) (st : Bool) (va : Nat) : Except Bad Unit := do
  let n := f.n1.toNat + 1
  s.accCheck k.crew f va
  if !f.s then
    if let some b := s.imageBad k st va (1024 * n) then .error b
  if (st && s.tileBad k.crew f.k.toNat (256 * f.row0.toNat) (256 * n)) || (!st && f.s && s.scratchBad k.crew va (1024 * n)) then
    .error (bad .uncorrectable)
/-- ACCLD (R311). -/
def execAccld (f : Accx) (s : State) : Out :=
  recordOp (.accld f) f.h (fun g s l lanes =>
    let k := g.warp
    let n := f.n1.toNat + 1
    let va := accAddr (s.warp k) f l
    orRaise s g .read lanes (s.imageCheck k f false va) fun _ =>
      let img := if f.s then .ok (s.scratchBytes g.crewK va (1024 * n), s)
        else s.takeRead ⟨s.coreOf k, g.ctx, !s.privOf k, 0⟩ va (1024 * n) true
      orRaise s g .read lanes img fun r =>
        finishPend r.2 g { pendOf r.2 g (.accld f) [] with
          tiles := [(g.crewK, f.k.toNat, imageWords (256 * f.row0.toNat) (256 * n) r.1)], load := true }) s
/-- The stores of an unprotected part: one line at a time. -/
def cutLines : Nat → Nat → List Byte → List (Nat × List Byte)
  | 0, _, _ => []
  | k + 1, pa, d =>
    if d.isEmpty then [] else
      let c := min d.length (64 - pa % 64)
      (pa, d.take c) :: cutLines k (pa + c) (d.drop c)
/-- The destination pages of an ACCST: address, translation, bytes. -/
def State.accPages (s : State) (u : Master) (ps : List (Nat × List Byte)) : List (Nat × Tr × List Byte) :=
  ps.filterMap (fun p => match s.unitAt u p.1 .write with | .ok t => some (p.1, t, p.2) | .error _ => none)
/-- The unprotected parts of an ACCST leave as stores. -/
def State.storePages (s : State) (k : WarpKey) (ps : List (Nat × Tr × List Byte)) : State :=
  let core := s.coreOf k
  (ps.flatMap (fun p => (cutLines (p.2.2.length / 64 + 2) p.2.1.pa p.2.2).map (fun x => (p.2.1, x)))).foldl (fun s x =>
    (s.ownCopy core x.2.1 x.2.2).send k.crew.ctx core core (some k) (.write x.2.1 x.2.2 (spaceOf x.1))) s
/-- An instruction whose writes the Shuttle engine makes as it issues: it is held by the engine's full queue, and until its turn
among the requests in flight has come (R139, Table 07.1); once its frames have been asked for it has had it. -/
def engineTurn (s : State) (g : Cur) (e : Nat) (k : Out) (whole : Bool := false) : Out :=
  if s.poolQ.any (fun a => a.who.ofWarp g.warp) then k
  else if s.engineFull e 1 then holdQueue s g (.engine e 1) whole
  else if s.engineBusy e then hold s g (.turn e) whole
  else k
/-- ACCST: protected blocks are written by the Shuttle engine, once no earlier access of the warp to their lines is under way;
the rest leaves as stores; both update the core's own copies (R311, R86, R111, R112). -/
def execAccst (f : Accx) (s : State) : Out :=
  gangOp (.accst f) f.h (fun g s l lanes =>
    let k := g.warp
    let n := f.n1.toNat + 1
    let va := accAddr (s.warp k) f l
    let core := s.coreOf k
    let img := (List.range (256 * n)).flatMap (fun i => nbytes 4 (s.tileWord g.crewK f.k.toNat (256 * f.row0.toNat + i)).toNat)
    orRaise s g .write lanes (s.imageCheck k f true va) fun _ =>
      if f.s then finish (s.scratchPut g.crewK va img) g
      else
        let u : Master := ⟨core, g.ctx, !s.privOf k, 0⟩
        let ps := s.accPages u (cutPages (img.length / 4096 + 2) va img)
        let prot := ps.filter (fun p => p.2.1.prot)
        let plain := ps.filter (fun p => !p.2.1.prot)
        match plain.find? (fun p => s.isBad p.2.1.pa p.2.2.length) with
        | some p => raise s g ((badAt .uncorrectable p.2.1.pa).fx .write lanes)
        | none =>
        if prot.isEmpty then finish (s.storePages k plain) g
        else match (prot.flatMap (fun p => (List.range (p.2.2.length / 64 + 1)).map (p.2.1.pa / 64 + ·))).filter (s.lineBusy k) with
          | b :: bs => hold s g (.lines (b :: bs))
          | [] => engineTurn s g (engineOf core)
              (orRaise s g .write lanes (s.engineWriteP { u with cls := 1 } (.warp k 0) (prot.map (fun p => (p.1, p.2.2)))) fun r =>
                match r with
                | (none, s) => hold (s.ackOut g) g .frames
                | (some _, s) => finish (((prot.foldl (fun s p => s.ownCopy core p.2.1.pa p.2.2) s).ackOut g).storePages k plain) g)) s

end Sys2Proof.Machine
end

