-- ==== Sys2Proof/Machine/Matrix.lean ====
section
/-! DEFINITION. Group 6: matrix products and tile instructions (spec 16.2, 16.3). -/

namespace Sys2Proof.Machine

/-! Operand images (R318, R319). -/

/-- Bytes of n rows or columns of K elements, with their MX scales. -/
def imageSize (e : Elem) (n : Nat) : Nat := n * (elemK e * elemBits e / 8) + (if isMx e then 4 * n else 0)
/-- Element k of row or column i of an image of n of them, exact. -/
def imageElemX (e : Elem) (n : Nat) (b : List Byte) (i k : Nat) : X :=
  let w := elemBits e
  let o := (i * elemK e + k) * w
  let c := leNat ((b.drop (o / 8)).take 3) / 2 ^ (o % 8) % 2 ^ w
  decElem e c (if isMx e then some (le8 b (n * (elemK e * w / 8) + 4 * i + k / 32)) else none)
/-- A register fragment as an image: lanes that are not active supply 0 (R312, R318). -/
def fragment (w : Warp) (g : Cur) (a : Reg) : List Byte :=
  let act := w.active g.slices
  (List.range 2048).flatMap (fun i => nbytes 4 (if act.contains (i % 32) then (w.rg (a.toNat + i / 32) (i % 32)).toNat else 0))
/-- The down-converter: element k of group j of a row of a tile (R319). -/
def downX (word : Nat → Word) (ta : Elem) (e : Int) (j i k : Nat) : X :=
  let x := f32 (word (256 * i + elemK ta * j + k))
  match ta with
  | .e4m3 => dec fE4m3 (enc fE4m3 (.rm .rne) true (x.scale e))
  | _ => bf16X x
def X.int : X → Int
  | .fin n m e => inUnits n m e 0
  | _ => 0
/-- One word of a product (R320). -/
def mmaWord (ta : Elem) (acc : Word) (a b : Nat → X) : Word :=
  let ks := List.range (elemK ta)
  if ta == .s8 then BitVec.ofInt 32 (acc.toInt + ks.foldl (fun v k => v + (a k).int * (b k).int) 0)
  else rne (chunkSum (f32 acc) (ks.map (fun k => mulX (a k) (b k))))
/-- The words of rows r0 to r0 + n − 1 of a product whose A rows start at a0. -/
def mmaRows (f : Mma) (old : Nat → Word) (a b : Nat → Nat → X) (a0 n : Nat) : List (Nat × Word) :=
  (List.range (256 * n)).map (fun i => (i, mmaWord f.ta (if f.acc then old i else 0) (a (a0 + i / 256)) (b (i % 256))))

/-! Checks (R313, R318, R321). -/

def State.tileOk (s : State) (k : CrewKey) (t : BitVec 5) : Bool := t.toNat < (s.packetOf k).tiles
/-- A scratchpad image: aligned to 64, and in the allotment. -/
def State.imgCheck (s : State) (k : CrewKey) (o n : Nat) : Except Bad Unit :=
  if o % 64 ≠ 0 then .error (bad .misaligned)
  else if s.scratchSize k < o + n then .error (bad .scratchRange)
  else .ok ()
/-- The checks of MMA, MMA2 and MMAB after PAIR_STATE: tiles, then each image, of na rows and nb columns. -/
def State.mmaCheck (s : State) (k : CrewKey) (f : Mma) (a b na nb : Nat) : Except Bad Unit := do
  if !s.tileOk k f.dt || (f.src == .acc && !s.tileOk k f.tt) then .error (bad .accumRange)
  if f.src == .scr then s.imgCheck k a (imageSize f.ta na)
  s.imgCheck k b (imageSize f.tb nb)
/-- An operand of a product holds an error that cannot be corrected: the A operand of na rows, the B image of nb columns, or
the words it adds to (R93, R104). MMA2 takes the follower crew's tiles too. -/
def State.mmaBad (s : State) (g : Cur) (f : Mma) (a b na nb : Nat) (two : Bool) : Bool :=
  let k := g.crewK
  let tile (t : BitVec 5) : Bool := s.tileBad k t.toNat 0 32768 || (two && s.tileBad (partner k) t.toNat 0 32768)
  let act := (s.warp g.warp).active g.slices
  (f.acc && tile f.dt) || s.scratchBad k b (imageSize f.tb nb) ||
    (match f.src with
     | .acc => tile f.tt
     | .scr => s.scratchBad k a (imageSize f.ta na)
     | .reg => s.badSpots.any (fun x => match x with
        | .reg w n => w = g.warp && act.contains (n % 32) && f.a.toNat ≤ n / 32 && n / 32 < f.a.toNat + 64
        | _ => false))
/-- The checks of a product, then of its operands' words; the arrays then work for 32 clocks each (R317, Table 10.2). -/
def mmaGo (s : State) (g : Cur) (f : Mma) (lanes : List Nat) (a b na nb : Nat) (two : Bool) (k : State → Out) : Out :=
  orRaise s g .none lanes (s.mmaCheck g.crewK f a b na nb) fun _ =>
    if s.mmaBad g f a b na nb two then raise s g { code := .uncorrectable, lanes := lanes }
    else k (s.count none 0x1F (if two then 64 else 32))
/-- The A operand of a product, rows of the leader from 0 and, for MMA2, of the follower from 128. -/
def State.mmaA (s : State) (g : Cur) (f : Mma) (a na : Nat) : Nat → Nat → X :=
  match f.src with
  | .scr => imageElemX f.ta na (s.scratchBytes g.crewK a (imageSize f.ta na))
  | .reg => imageElemX f.ta na (fragment (s.warp g.warp) g f.a)
  | .acc => fun i k =>
    downX (s.tileWord (if i < 128 then g.crewK else partner g.crewK) f.tt.toNat) f.ta f.e.toInt f.j.toNat (i % 128) k
def State.mmaB (s : State) (g : Cur) (f : Mma) (b nb : Nat) : Nat → Nat → X :=
  imageElemX f.tb nb (s.scratchBytes g.crewK b (imageSize f.tb nb))

/-! Matrix products. -/

/-- MMA (R316 to R320). -/
def execMma (f : Mma) (s : State) : Out :=
  gangOp (.mma f) f.h (fun g s l lanes =>
    let w := s.warp g.warp
    let a := (w.rg f.a.toNat l).toNat
    let b := (w.rg f.b.toNat l).toNat
    mmaGo s g f lanes a b 128 256 false fun s =>
      finishPend s g { pendOf s g (.mma f) [] with
        tiles := [(g.crewK, f.dt.toNat, mmaRows f (s.tileWord g.crewK f.dt.toNat) (s.mmaA g f a 128) (s.mmaB g f b 256) 0 128)] }) s
/-- The crew can issue an MMA2: the launch is paired, it is a leader and has a partner (R321, R24). -/
def State.pairOk (s : State) (k : CrewKey) : Bool :=
  (s.packetOf k).flags.getLsbD 2 && k.crew % 2 = 0 && k.crew + 1 < (s.packetOf k).crewCount
/-- MMA2 (R321, R322). -/
def execMma2 (f : Mma) (s : State) : Out :=
  gangOp (.mma2 f) f.h (fun g s l lanes =>
    let w := s.warp g.warp
    let a := (w.rg f.a.toNat l).toNat
    let b := (w.rg f.b.toNat l).toNat
    if !s.pairOk g.crewK then raise s g { code := .pairState, lanes := lanes }
    else mmaGo s g f lanes a b 256 256 true fun s =>
      let m := s.mmaA g f a 256
      let n := s.mmaB g f b 256
      finishPend s g { pendOf s g (.mma2 f) [] with
        tiles := [(g.crewK, f.dt.toNat, mmaRows f (s.tileWord g.crewK f.dt.toNat) m n 0 128),
                  (partner g.crewK, f.dt.toNat, mmaRows f (s.tileWord (partner g.crewK) f.dt.toNat) m n 128 128)] }) s
/-- MMAB: sixteen products of 32 rows by 64 columns (R323). -/
def execMmab (f : Mma) (s : State) : Out :=
  gangOp (.mmab f) f.h (fun g s l lanes =>
    let w := s.warp g.warp
    let a := (w.rg f.a.toNat l).toNat
    let b := (w.rg f.b.toNat l).toNat
    mmaGo s g f lanes a b 512 1024 false fun s =>
      let m := s.mmaA g f a 512
      let n := s.mmaB g f b 1024
      let old := s.tileWord g.crewK f.dt.toNat
      let word (i : Nat) : Word :=
        let p := 4 * (i / 256 / 32) + i % 256 / 64
        mmaWord f.ta (if f.acc then old i else 0) (m (32 * p + i / 256 % 32)) (n (64 * p + i % 256 % 64))
      finishPend s g { pendOf s g (.mmab f) [] with
        tiles := [(g.crewK, f.dt.toNat, (List.range 32768).map (fun i => (i, word i)))] }) s

/-! Tile instructions (R324 to R326). -/

/-- Every word of a tile by its key. -/
def State.wholeTile (s : State) (k : CrewKey) (t : Nat) : List (Nat × Word) :=
  (List.range 32768).map (fun i => (i, s.tileWord k t i))
/-- ACCZ (R324). -/
def execAccz (f : Tile1) (s : State) : Out :=
  gangOp (.accz f) f.h (fun g s _ lanes =>
    if !s.tileOk g.crewK f.k then raise s g { code := .accumRange, lanes := lanes }
    else finish ((s.modCrew g.crewK (fun c => { c with
      tiles := c.tiles.filter (fun e => !(32768 * f.k.toNat ≤ e.1 && e.1 < 32768 * (f.k.toNat + 1))) })).heal
        (fun x => match x with | .tile k n => k = g.crewK && n / 32768 = f.k.toNat | _ => false)) g) s
/-- The word that a lane's address register names, by its key (R325). -/
def accKey (v : Word) : Option Nat :=
  let n := v.toNat
  if n / 128 % 2 = 1 || 65536 ≤ n then none else some (256 * (n % 128) + n / 256)
/-- ACCMOV (R325). -/
def execAccmov (f : Accmov) (s : State) : Out :=
  gangOp (.accmov f) f.h (fun g s _ lanes =>
    let k := g.crewK
    let n := (s.packetOf k).tiles
    let w := s.warp g.warp
    let at_ (l : Nat) : Option Nat := accKey (w.rg f.a.toNat l)
    let range (ls : List Nat) : Out := raise s g { code := .accumRange, lanes := ls }
    let out := lanes.any (fun l => (at_ l).isNone)
    let err : Out := raise s g { code := .uncorrectable, lanes := lanes }
    match f.mode with
    | .tt =>
      if n ≤ f.d.toNat || n ≤ f.a.toNat then range lanes
      else if f.d = f.a then finish s g
      else if s.tileBad k f.a.toNat 0 32768 then err
      else finish (s.putTiles k f.d.toNat (s.wholeTile k f.a.toNat)) g
    | .tr =>
      if n ≤ f.b.toNat then range lanes
      else if out then range lanes
      else if lanes.any (fun l => s.tileBad k f.b.toNat ((at_ l).getD 0) 1) then err
      else finish (s.wrLanes g.warp (lanes.map (fun l => (f.d.toNat, l, s.tileWord k f.b.toNat ((at_ l).getD 0))))) g
    | .rt =>
      if n ≤ f.d.toNat then range lanes
      else if out then range lanes
      else finish (s.putTiles k f.d.toNat (lanes.map (fun l => ((at_ l).getD 0, w.rg f.b.toNat l)))) g) s
/-- ACCSCL (R326). -/
def execAccscl (f : Accscl) (s : State) : Out :=
  gangOp (.accscl f) f.h (fun g s _ lanes =>
    let k := g.crewK
    let n := (s.packetOf k).tiles
    if n ≤ f.k.toNat || n ≤ f.j.toNat then raise s g { code := .accumRange, lanes := lanes }
    else if s.tileBad k f.k.toNat 0 32768 || (List.range 128).any (fun r => s.tileBad k f.j.toNat (256 * r + f.col.toNat) 1) then
      raise s g { code := .uncorrectable, lanes := lanes }
    else
      let sc (r : Nat) : X := f32 (s.tileWord k f.j.toNat (256 * r + f.col.toNat))
      finish (s.putTiles k f.k.toNat ((List.range 32768).map (fun i =>
        (i, rne (mulX (f32 (s.tileWord k f.k.toNat i)) (sc (i / 256))))))) g) s

end Sys2Proof.Machine
end

