-- ==== Sys2Proof/Machine/Shuttle.lean ====
section
/-! DEFINITION. Steps of the Shuttle engines, spool deliveries, copy batches and frame pools (spec 15.6 to 15.9,
08.9, R139, R140, R193, R200, R214). -/

namespace Sys2Proof.Machine

/-! The life of a request. -/

def State.req? (s : State) (id : Nat) : Option Req := s.reqs.find? (fun r => r.id = id)
def State.setReq (s : State) (id : Nat) (st : ReqSt) : State :=
  { s with reqs := s.reqs.map (fun r => if r.id = id then { r with st := st } else r) }
def State.dropReq (s : State) (id : Nat) : State := { s with reqs := s.reqs.filter (fun r => r.id ≠ id) }
def Req.isDone (r : Req) : Bool := match r.st with | .done _ _ => true | _ => false
/-- Requests and stages that stand before a number in an engine's queue. -/
def State.ahead (s : State) (e id : Nat) : Nat :=
  (s.reqs.filter (fun x => x.engine = e && !x.isDone && x.id < id)).length + (s.staging.filter (fun g => g.engine = e && g.id < id)).length
/-- A request may be carried out now: of an engine's requests, the first 16 are in flight (Table 07.1). -/
def State.inFlight (s : State) (r : Req) : Bool :=
  (r.st == .queued || r.st == .allocating) && decide (s.ahead r.engine r.id < 16)
def Req.master (r : Req) : Master := ⟨128 + r.engine / 4, r.ctx, r.user, 1⟩
def Req.report (r : Req) (b : Bad) (k : FKindOf) : Report :=
  { id := 0, code := b.code, kind := k, ctx := r.ctx, die := r.engine / 4, level := b.level, access := .engine,
    launch := (r.warp.map (·.crew.launch)).getD 0, crew := (r.warp.map (·.crew.crew)).getD 0xFFFFFFFF, addr := b.addr,
    req := if k == .h then some r.id else none }
/-- The batch or slot of a request takes its end: a failure, which a warp that has exited leaves to the report alone, or bytes
and what their writes leave (R200, R214). -/
def State.sinkEnd (s : State) (r : Req) (res : Except Failure (Nat × Landed)) : State :=
  let gone (w : WarpKey) : Bool := (aget s.warps w).isNone || (s.warp w).exited
  match r.sink, r.warp with
  | .batch n, some w =>
    if (aget s.warps w).isNone then s
    else s.modWarp w (fun x => { x with batches := x.batches.map (fun b =>
      if b.n = n && !b.done then
        { b with left := b.left - 1, failed := match res, b.failed with | .error c, none => (if x.exited then none else some c) | _, f => f }
      else b) })
  | .slot k i, some w =>
    match s.spool? w.crew k with
    | none => s
    | some x =>
      if (aget s.crews w.crew).isNone then s
      else match res with
        | .error c => if gone w then s else s.setSpool w.crew k { x with failed := lset x.failed i (some c) }
        | .ok (n, l) => (s.progress w.crew.ctx w.crew.launch).setSpool w.crew k
            { x with arrived := lset x.arrived i ((x.arr i + n) % 2 ^ 32), got := lset x.got i ((x.got.getD i {}).join l) }
  | _, _ => s
/-- A request meets a fault: a PAGE_FAULT is held for its replay; any other abandons the request (R193, R214). -/
def State.reqFault (s : State) (r : Req) (b : Bad) : State :=
  let s := s.dropAllocs (fun a => a.who = .req r.id)
  if b.code = .pageFault then (s.setReq r.id .faulted).reportFor (r.report b .h)
  else ((s.dropReq r.id).sinkEnd r (.error ⟨b.code, b.addr⟩)).reportFor (r.report b .e)
/-- What carrying out a request comes to: a wait, its end with a byte count, or a failure after some of it has been applied
(R307). -/
inductive ReqGo where
  | waits | ends (n : Nat) | fails (b : Bad)
  deriving DecidableEq, Repr
/-- The same, or the fault of a request that has written nothing. -/
abbrev ReqEnd := Except Bad (ReqGo × State)
/-- A request has met a peer that does not answer: it is tried again until 10,000,000 ticks have passed (R392). -/
def State.unheardReq (s : State) (r : Req) : State :=
  { s with reqs := s.reqs.map (fun x => if x.id = r.id then { x with unheard := some (x.unheard.getD s.time) } else x) }
/-- A request waits for frames, with what it has written until now (R140, R124). -/
def State.waitReq (s : State) (id : Nat) : State :=
  { s with reqs := s.reqs.map (fun r => if r.id = id then { r with st := .allocating, made := s.out } else r) }
/-- Carries out a request. -/
def runReq (s : State) (id : Nat) (f : Req → State → ReqEnd) : Out :=
  match s.req? id with
  | none => .next s
  | some r =>
    if !s.inFlight r then .next s
    else match f r { s with out := r.made } with
      | .error b =>
        if b.busy then .next s
        else if b.code = .uncorrectable && s.peerSilent b.addr && s.time < r.unheard.getD s.time + 10000000 then .next (s.unheardReq r)
        else .next (s.reqFault r b)
      | .ok (.fails b, s) => .next (s.reqFault r b)
      | .ok (.waits, s) => .next (s.waitReq id)
      | .ok (.ends n, s) => .next (s.setReq id (.done n s.out))

/-! Per-thread copies (R298). -/

def State.cpa (s : State) (r : Req) (dst n v src : Nat) : ReqEnd := do
  let (b, s) ← s.takeRead r.master src v true
  match r.warp with
  | some w =>
    pure (.ends n, if (aget s.crews w.crew).isSome then s.scratchPut w.crew dst (b ++ List.replicate (n - v) 0) else s)
  | none => pure (.ends n, s)
/-- SHUTTLE_CPA_COPY (R298). -/
def execShuttleCpa (id : Nat) (s : State) : Out :=
  runReq s id (fun r s => match r.op with
    | .cpa dst n v src => s.cpa r dst n v src
    | _ => .ok (.waits, s))

/-! Tensor copies (R305 to R307). -/

/-- The indices of element e of a box, dimension 0 fastest. -/
def boxIndex : List Nat → Nat → List Nat
  | [], _ => []
  | b :: bs, e => e % b :: boxIndex bs (e / b)
/-- The address of element e, none where it is out of bounds (R305). -/
def Tensor.addr (t : Tensor) (x : List Int) (e : Nat) : Option Nat :=
  let y := List.zipWith (fun (c : Int) (i : Nat) => c + i) x (boxIndex t.boxes e)
  if (List.range t.rank).all (fun k => 0 ≤ y.getD k 0 && y.getD k 0 < t.dim.getD k 0) then
    some (((List.range t.rank).foldl (fun a k =>
      a + (y.getD k 0).toNat * (if k = 0 then t.ebytes else t.stride.getD (k - 1) 0)) t.base) % 2 ^ 64)
  else none
/-- The scratchpad image offset of image offset o (R305). -/
def swizzle (z o : Nat) : Nat := o ^^^ (((o >>> 7) % 2 ^ z) <<< 4)
/-- The tile word of element e. -/
def Tensor.key (t : Tensor) (e : Nat) : Nat :=
  let i := boxIndex t.boxes e
  256 * i.getD 1 0 + i.getD 0 0
/-- The bytes of element e in an image that the crew holds. -/
def State.imageElem (s : State) (k : CrewKey) (t : Tensor) (kind : TKind) (dst e : Nat) : List Byte :=
  match kind with
  | .tile => nbytes 4 (s.tileWord k dst (t.key e)).toNat
  | _ => s.scratchBytes k (dst + swizzle t.swz (e * t.ebytes)) t.ebytes
/-- A word that an element of an image lies in holds an error that cannot be corrected (R93, R104). -/
def State.elemBad (s : State) (k : CrewKey) (t : Tensor) (kind : TKind) (dst e : Nat) : Bool :=
  match kind with
  | .tile => s.tileBad k dst (t.key e) 1
  | _ => s.scratchBad k (dst + swizzle t.swz (e * t.ebytes)) t.ebytes
/-- The elements of an image that the crew holds. -/
def State.imageOf (s : State) (k : CrewKey) (t : Tensor) (kind : TKind) (dst : Nat) : Except Bad (List (List Byte)) :=
  let es := List.range t.elems
  if es.any (s.elemBad k t kind dst) then .error (bad .uncorrectable) else .ok (es.map (s.imageElem k t kind dst))
/-- The elements of a tensor's box, read at their homes; out of bounds reads 0. -/
def State.boxRead (s : State) (u : Master) (t : Tensor) (x : List Int) : List Nat → Except Bad (List (List Byte) × State)
  | [] => .ok ([], s)
  | e :: es => do
    let (v, s) ← match t.addr x e with
      | some a => s.takeRead u a t.ebytes true
      | none => pure (List.replicate t.ebytes 0, s)
    let (r, s) ← s.boxRead u t x es
    pure (v :: r, s)
/-- An engine's writes of some parts, as the end of a request that delivers n bytes. -/
def State.engineEnd (s : State) (r : Req) (n : Nat) (ps : List (Nat × List Byte)) : ReqEnd := do
  match ← s.engineWriteP r.master (.req r.id) ps with
  | (none, s) => pure (.waits, s)
  | (some _, s) => pure (.ends n, s)
/-- Writes the elements of an image that the crew holds, or the image at a global address. -/
def State.imagePut (s : State) (r : Req) (t : Tensor) (kind : TKind) (dst : Nat) (vs : List (List Byte)) : ReqEnd :=
  match kind, r.warp with
  | .glb, _ => s.engineEnd r t.image [(dst, vs.flatten)]
  | _, none => .ok (.ends t.image, s)
  | .tile, some w =>
    .ok (.ends t.image, if (aget s.crews w.crew).isSome then
      s.putTiles w.crew dst (vs.mapIdx (fun e v => (t.key e, BitVec.ofNat 32 (leNat v)))) else s)
  | .scr, some w =>
    .ok (.ends t.image, if (aget s.crews w.crew).isSome then
      (vs.mapIdx (fun e v => (e, v))).foldl (fun s p => s.scratchPut w.crew (dst + swizzle t.swz (p.1 * t.ebytes)) p.2) s else s)
/-- A TCOPY request (R306). -/
def State.tcopy (s : State) (r : Req) (t : Tensor) (kind : TKind) (st : Bool) (dst : Nat) (x : List Int) : ReqEnd := do
  let es := List.range t.elems
  let k := (r.warp.map (·.crew)).getD default
  if !st then
    let (vs, s) ← s.boxRead r.master t x es
    s.imagePut r t kind dst vs
  else
    let (img, s) ← match kind with
      | .glb => do
        let (b, s) ← s.takeRead r.master dst t.image true
        pure (es.map (fun e => (b.drop (e * t.ebytes)).take t.ebytes), s)
      | _ => do
        let b ← s.imageOf k t kind dst
        pure (b, s)
    s.engineEnd r t.image (es.filterMap (fun e => (t.addr x e).map (fun a => (a, img.getD e []))))
/-- SHUTTLE_TCOPY (R306). -/
def execShuttleTcopy (id : Nat) (s : State) : Out :=
  runReq s id (fun r s => match r.op with
    | .tcopy t kind st dst x => s.tcopy r t kind st dst x
    | _ => .ok (.waits, s))
/-- The destinations of a TCRED, checked as atomics (R293, R119). -/
def State.redPlaces (s : State) (u : Master) (ty : ATy) (op : AOp) : List Nat → Except Bad Unit
  | [] => .ok ()
  | a :: as => do
    let t ← s.unitAt u a .atomic
    if t.isRange || (region t.pa == .host && !hostAtomic ty (some op) true) then .error (badV .accessDenied t.level a)
    s.redPlaces u ty op as
/-- Applies the elements one by one; an error leaves those before it applied (R307). -/
def State.redApply (s : State) (u : Master) (ty : ATy) (op : AOp) (n : Nat) : List (Nat × List Byte) → State × Option Bad
  | [] => (s, none)
  | (a, v) :: ps =>
    let r : Except Bad (Nat × State) := do
      let t ← s.unitAt u a .atomic
      s.enginePut u a [(a, nbytes n (aopNew ty op (s.rdNat t.pa n) (leNat v)))]
    match r with
    | .ok (_, s) => s.redApply u ty op n ps
    | .error b => (s, some b)
/-- A TCRED request: staging, the pages it writes made its own, and the elements one after the other (R307). -/
def State.tcred (s : State) (r : Req) (t : Tensor) (kind : TKind) (ty : ATy) (op : AOp) (dst : Nat) (x : List Int) : ReqEnd := do
  let img ← s.imageOf ((r.warp.map (·.crew)).getD default) t kind dst
  let ps := (List.range t.elems).filterMap (fun e => (t.addr x e).map (fun a => (a, img.getD e [])))
  s.redPlaces r.master ty op (ps.map (·.1))
  match ← s.unshareP r.master (.req r.id) (ps.map (·.1)) with
  | (false, s) => pure (.waits, s)
  | (true, s) => match s.redApply r.master ty op t.ebytes ps with
    | (s, none) => pure (.ends t.image, s)
    | (s, some b) => pure (.fails b, s)
/-- SHUTTLE_TCRED (R307). -/
def execShuttleTcred (id : Nat) (s : State) : Out :=
  runReq s id (fun r s => match r.op with
    | .tcred t kind ty op dst x => s.tcred r t kind ty op dst x
    | _ => .ok (.waits, s))

/-! DCOPY and the dedup directory (R166, R308). -/

/-- The slots that a lookup sees: up to the first that is neither valid nor a tombstone, that one included. -/
def State.dedupProbe (s : State) (d : Dir) (x : Nat) : Nat → Nat → List (Nat × Nat)
  | 0, _ => []
  | n + 1, k =>
    let e := s.rdNat (d.slot x k) 16
    (k, e) :: (if dirValid e || dirTomb e then s.dedupProbe d x n (k + 1) else [])
/-- The first run named by some slots whose bytes, read and checked, are those of a block (R103). -/
def State.dedupMatch (s : State) (units : Nat) (blk : List Byte) : List Nat → Except Bad (Option (Nat × Nat))
  | [] => .ok none
  | e :: es => do
    let t := dirTier e
    let ctx := ((aget s.runs (t, dirFrame e)).map (·.2)).getD 63
    let b ← s.readRun ctx t (dirFrame e) units
    if b = blk then pure (some (t, dirFrame e)) else s.dedupMatch units blk es
/-- The run of equal content that the directory names (R166). -/
def State.dedupFind (s : State) (d : Dir) (x units : Nat) (blk : List Byte) : Except Bad (Option (Nat × Nat)) :=
  match s.dirBad d x false with
  | some b => .error b
  | none => s.dedupMatch units blk (((s.dedupProbe d x 16 0).map (·.2)).filter (fun e => dirValid e && dirCrc e = x && dirUnits e = units - 1))
/-- Inserts a tier-0 run, or counts that no slot was seen. -/
def State.dedupInsert (s : State) (d : Dir) (ctx x units frame : Nat) : Except Bad State :=
  match s.dirBad d x true, (s.dedupProbe d x 16 0).find? (fun p => !dirValid p.2) with
  | some b, _ => .error b
  | none, some p => pure <| s.putNat (d.slot x p.1) 16 (2 ^ 127 + (units - 1) % 16 * 2 ^ 107 + frame * 2 ^ 64 + x)
  | none, none => pure <| s.count (some ctx) 0x17 1
/-- The run that holds a block of whole units: matched, or new; none while frames are awaited. -/
def State.dcopyRun (s : State) (r : Req) (d : Dir) (units : Nat) (blk : List Byte) : Except Bad (Option (Nat × Nat × Bool) × State) := do
  let x := (crc64 blk).toNat
  let found ← if d.on then s.dedupFind d x units blk else pure none
  if let some b := found.bind (fun p => s.refBad p.1 p.2) then .error b
  match found.filter (fun p => !refFull s p.1 p.2) with
  | some (t, f) =>
    let s := s.dropAllocs (fun a => a.who = .req r.id)
    pure (some (t, f, true), ((s.count (some r.ctx) 0x16 1).addRef t f).getD s)
  | none =>
    match ← s.alloc (.req r.id) r.ctx 0 units with
    | (none, s) => pure (none, s)
    | (some f, s) =>
      let (_, s) ← s.writeRun r.ctx 0 f units blk
      let s ← if d.on then s.dedupInsert d r.ctx x units f else pure s
      pure (some (0, f, false), s)
/-- A destination page may be bound: its leaf is a 4 KiB one with V, DD, SC and W (R308). -/
def State.dcopyLeaf (s : State) (u : Master) (va : Nat) : Except Bad Tr :=
  match s.xlate u.holder u.ctx va u.user .write with
  | .ok t => if t.level != 3 || t.bit 6 || !t.dd || !t.sc then .error (badV .accessDenied t.level va) else .ok t
  | .error b =>
    if b.code = .pageFault && b.level = 3 && (s.leafBad u.ctx va 3 false).isNone &&
        (s.leafAddrs u.ctx va 3 false).all (fun la => s.rdNat la 8 % 2 = 0) then
      .error (badV .accessDenied 3 va)
    else .error b
/-- DCOPY.PAGE: the leaf is pointed at the run in one step with its test (R308). -/
def State.dcopyPage (s : State) (r : Req) (dst src : Nat) (d : Dir) : ReqEnd := do
  let t ← s.dcopyLeaf r.master dst
  if let some b := s.leafBad r.ctx dst 3 false then .error b
  let (blk, s) ← s.takeRead r.master src 4096 true
  match ← s.dcopyRun r d 1 blk with
  | (none, s) => pure (.waits, s)
  | (some (i, f, _), s) =>
    let s := (s.leafAddrs r.ctx dst 3 false).foldl (fun s la => s.putNat la 8 (setLeafPa (s.rdNat la 8) (tierBase i / 4096 + f))) s
    let s := s.dropPage r.ctx dst
    pure (.ends 4096, match region t.pa with | .tier 0 => s.releaseRun 0 (t.pa / 4096) 1 | _ => s)
/-- DCOPY.KV: the page's cur is given the run in one step with its test (R308). -/
def State.dcopyKv (s : State) (r : Req) (fmt ksr page src : Nat) (d : Dir) : ReqEnd := do
  let u := r.master
  let k ← s.readKsr u ksr
  if k.pages ≤ page then .error (bad .kvFormat)
  let p ← s.readPte u (k.pteVa page)
  if fwValid p.cur then .error (bad .kvFormat)
  let n := frameUnits fmt k.dim
  let (b, s) ← s.takeRead u src (frameBytes fmt k.dim) true
  match ← s.dcopyRun r d n (b ++ List.replicate (4096 * n - b.length) 0) with
  | (none, s) => pure (.waits, s)
  | (some (_, f, m), s) =>
    let (_, s) ← s.storePte u none (k.pteVa page)
      { p with cur := fwMake 0 m false fmt 0 f, mass := 0, flags := p.flags &&& 2#16 }
    pure (.ends (frameBytes fmt k.dim), s)
/-- SHUTTLE_DCOPY (R308). -/
def execShuttleDcopy (id : Nat) (s : State) : Out :=
  runReq s id (fun r s => match r.op with
    | .dcopyPage dst src d => s.dcopyPage r dst src d
    | .dcopyKv fmt ksr page src d => s.dcopyKv r fmt ksr page src d
    | _ => .ok (.waits, s))

/-! Page moves (R309). -/

/-- A page's frame goes to a tier; a move that finds it there already leaves no run asked for or granted (R309). -/
def State.pgmove (s : State) (r : Req) (ksr page tier : Nat) : ReqEnd := do
  let u := r.master
  let k ← s.readKsr u ksr
  let p ← s.kvPage u k page
  if !fwValid p.cur then .error (bad .kvFormat)
  let size := frameBytes (fwFormat p.cur) k.dim
  let n := frameUnits (fwFormat p.cur) k.dim
  if fwValid p.next || p.retained then pure (.waits, s)
  else if fwTier p.cur = tier then pure (.ends size, s.dropAllocs (fun a => a.who = .req r.id))
  else if fwTier p.cur = 7 then .error (bad .kvFormat)
  else
    let b ← s.readRun r.ctx (fwTier p.cur) (fwFrame p.cur) n
    match ← s.alloc (.req r.id) r.ctx tier n with
    | (none, s) => pure (.waits, s)
    | (some f, s) =>
      let (_, s) ← (s.touchLines (framePa (fwTier p.cur) (fwFrame p.cur)) (4096 * n)).writeRun r.ctx tier f n b
      let cur := fwMake (fwVersion p.cur + 1) (fwShared p.cur) (fwPinned p.cur) (fwFormat p.cur) tier f
      let (s, p) := s.settleRetained k.dim ({ p with next := fwInvalid p.cur, cur := cur }.flag 1 true)
      let (_, s) ← s.storePte u none (k.pteVa page) p
      pure (.ends size, s)
/-- SHUTTLE_PAGE_MOVE (R309). -/
def execShuttlePageMove (id : Nat) (s : State) : Out :=
  runReq s id (fun r s => match r.op with
    | .pgmove ksr page tier => s.pgmove r ksr page tier
    | _ => .ok (.waits, s))

/-! Deliveries, batches, pools. -/

/-- SPOOL_DELIVERY: a request that has been carried out adds its bytes to its slot, or ends in its batch (R200). -/
def execSpoolDelivery (id : Nat) (s : State) : Out :=
  match s.req? id with
  | some r =>
    match r.st with
    | .done n t => .next ((s.dropReq id).sinkEnd r (.ok (n, t)))
    | _ => .next s
  | none => .next s
/-- COPY_BATCH_COMPLETE: a closed batch whose copies have all ended is complete; one that failed keeps its mark
(R299, R300). -/
def execCopyBatchComplete (w : WarpKey) (n : Nat) (s : State) : Out :=
  if (aget s.warps w).isNone then .next s
  else
    let ended (b : Batch) : Bool := b.n.toNat = n && b.closed && b.left = 0 && !b.done
    .next (s.modWarp w (fun x => { x with batches := (x.batches.filter (fun b => !(ended b && b.failed.isNone))).map (fun b =>
      if ended b then { b with done := true } else b) }))
/-- What an allocation wrote joins the writes of the request that asked for it: those of a Shuttle request, of a warp's instruction
as an acknowledgement to the warp, of a mailbox lane's WRITE (R124, R115, R126). -/
def State.granted (s : State) (a : Alloc) : State :=
  match a.who with
  | .req id => { s with reqs := s.reqs.map (fun r => if r.id = id then { r with made := r.made.join s.out } else r) }
  | .warp w _ => s.send a.ctx (s.coreOf w) (s.coreOf w) (some w) (.ack s.out.wct)
  | .mbx k => { s with laneWct := lset s.laneWct k (max (s.laneWct.getD k 0) s.out.wct) }
  | .stage _ => s
/-- POOL_ALLOCATION: the oldest waiting request of a tier takes the lowest run that fits (R140, R97). A request that would meet a
fault in the pool's arrays leaves the FIFO, asks again, and meets it. -/
def execPoolAllocation (tier : Nat) (s : State) : Out :=
  match s.poolQ.find? (fun a => a.tier = tier && a.got.isNone) with
  | some a =>
    let drop : State := { s with poolQ := s.poolQ.filter (fun x => x.who ≠ a.who) }
    if !s.scr.poolEn.getD tier false then .next s
    else if (s.bmpBad tier).isSome then .next drop
    else match s.poolRun tier a.units with
      | some u =>
        if (s.takeBad tier u a.units).isSome then .next drop
        else
          let s := s.takeRun a.ctx tier u a.units
          let s : State := { s with poolQ := s.poolQ.map (fun x => if x.who = a.who then { x with got := some u } else x) }
          .next (s.granted a)
      | none => .next s
  | none => .next s

end Sys2Proof.Machine
end

