-- ==== Sys2Proof/Machine/Attn.lean ====
section
/-! DEFINITION. Group 6: attention over KV pages, its merge and finish, and selection (spec 16.4, 16.5, 08.6). -/

namespace Sys2Proof.Machine

/-- The master of the operations that KV instructions, ATTN and SELECT make at the homes (R315, R401). -/
def State.kvMaster (s : State) (k : WarpKey) : Master := ⟨s.coreOf k, k.crew.ctx, !s.privOf k, 1⟩
def negInf : X := .inf true

/-! The state tile (Table 16.4). -/

def stKey (row col : Nat) : Nat := 256 * row + col
def State.st (s : State) (k : CrewKey) (t row col : Nat) : Word := s.tileWord k t (stKey row col)
/-- What column 252 says of a state: slots, rows, KSR address, head_dim. -/
structure AttnHead where (ns nr ksr dim : Nat) deriving DecidableEq, Repr, Inhabited
def State.attnHead (s : State) (k : CrewKey) (t : Nat) : AttnHead :=
  let v (r : Nat) : Nat := (s.st k t r 252).toNat
  ⟨v 0, v 1, v 2 + 2 ^ 32 * v 3, v 4⟩
def State.slotPage (s : State) (k : CrewKey) (t j : Nat) : Nat := (s.st k t j 253).toNat
def State.slotPages (s : State) (k : CrewKey) (t n : Nat) : List Nat := (List.range n).map (s.slotPage k t)

/-! ATTN (R328 to R331). -/

/-- The pages of a page-list record; none where it is malformed (R328). -/
def pageList (b : List Byte) : Option (List Nat) :=
  let es := (List.range 16).map (fun i => le32 b (4 * i))
  let ps := es.takeWhile (· ≠ 0xFFFFFFFF)
  if (es.drop ps.length).all (· = 0xFFFFFFFF) then some ps else none
/-- A row of an attention state in progress, and whether a page has been attended by it. -/
structure AttnRow where (m l : X) (o : List X) (hit : Bool) deriving DecidableEq, Repr, Inhabited
/-- One page attended by one row: its new state, mj and lj (R330). `ts` are the positions below length. -/
def attnStep (p : Page) (q : List X) (qs : X) (ts : List Nat) (r : AttnRow) : AttnRow × X × X :=
  let t (i : Nat) : X := rneX (mulX (chunkSum zeroX (q.mapIdx (fun d x => mulX x (p.bf16 false i d)))) qs)
  let sc := ts.map t
  match sc with
  | [] => (r, negInf, zeroX)
  | x :: xs =>
    let mx := xs.foldl fmaxX x
    let mn := fmaxX r.m mx
    if mn == negInf then (r, negInf, zeroX)
    else
      let a := fexp2X (rneX (subX r.m mn))
      let e := sc.map (fun x => fexp2X (rneX (subX x mn)))
      let l := rneX (addX false (mulX r.l a) (chunkSum zeroX e))
      let o := r.o.mapIdx (fun d x => chunkSum (rneX (mulX x a)) (List.zipWith (fun y i => mulX (bf16X y) (p.bf16 true i d)) e ts))
      (⟨mn, l, o, true⟩, mx, chunkSum zeroX (sc.map (fun x => fexp2X (rneX (subX x mx)))))
/-- A row over the listed pages in order; a skipped page (none) leaves it as it is (R331). -/
def attnRow (q : List X) (qs : X) : List (Option (Page × List Nat)) → AttnRow → AttnRow × List (X × X)
  | [], r => (r, [])
  | none :: ps, r => let x := attnRow q qs ps r; (x.1, (negInf, zeroX) :: x.2)
  | some (p, ts) :: ps, r =>
    let y := attnStep p q qs ts r
    let x := attnRow q qs ps y.1
    (x.1, (y.2.1, y.2.2) :: x.2)
/-- A listed page as captured. -/
structure Captured where (page va : Nat) (pte : Pte) (data : Option Page) deriving DecidableEq, Repr, Inhabited
/-- The capture and check of each listed page, before any page is decoded; the scale pair of a page that is skipped is checked
too (R150, R148, R151, R329, R330; log 28). -/
def State.capturePages (s : State) (u : Master) (k : Ksr) : List Nat → Except Bad (List (Nat × Pte))
  | [] => .ok []
  | pg :: pgs => do
    let p ← s.kvPage u k pg
    if !fwValid p.cur then .error (bad .kvFormat)
    if 2 ≤ fwFormat p.cur && scaleBad k.dim p.curScale then .error (bad .scaleLayout)
    let r ← s.capturePages u k pgs
    pure ((pg, p) :: r)
/-- A page of another tier is skipped (R331). -/
def skips (p : Pte) : Bool := fwTier p.cur = 2 || fwTier p.cur = 3 || fwTier p.cur = 7
/-- The decoding of the captured pages. -/
def State.loadPages (s : State) (u : Master) (k : Ksr) : List (Nat × Pte) → Except Bad (List Captured)
  | [] => .ok []
  | (pg, p) :: ps => do
    let d ← if skips p then pure none else some <$> s.loadPage u k p
    let r ← s.loadPages u k ps
    pure (⟨pg, k.pteVa pg, p, d⟩ :: r)
/-- What the captures read leaves at the homes (R90). -/
def State.sawPages (s : State) (u : Master) (k : Ksr) (cs : List Captured) : State :=
  (cs.filter (·.data.isSome)).foldl (fun s c => s.touchLines (framePa (fwTier c.pte.cur) (fwFrame c.pte.cur)) (frameBytes (fwFormat c.pte.cur) k.dim))
    (s.sawKsr u k (cs.map (·.page)))
/-- Stores the captures' counts of readers. -/
def State.storeCaptures (s : State) (u : Master) (core : Nat) : List Captured → Except Bad State
  | [] => .ok s
  | c :: cs => do
    if c.data.isNone then s.storeCaptures u core cs
    else
      let (_, s) ← s.storePte u (some core) c.va { c.pte with readers := c.pte.readers + 1 }
      s.storeCaptures u core cs
/-- The engine of the page-in of a captured page (R139). -/
def State.missEngine (s : State) (u : Master) (c : Captured) : Nat := engineFor (s.pageDie u c.va) (fwFrame c.pte.cur)
/-- An engine whose queue has no room for the page-ins of some pages, and how many they are (R139). -/
def State.missFull (s : State) (u : Master) (k : Ksr) (cs : List Captured) : Option (Nat × Nat) :=
  let es := if k.flags % 2 = 1 then cs.map (s.missEngine u) else []
  (es.find? (fun e => s.engineFull e (es.filter (· = e)).length)).map (fun e => (e, (es.filter (· = e)).length))
/-- A tier miss of a page: list, counts, event, page-in (R141, R331). -/
def State.tierMiss (s : State) (g : Cur) (u : Master) (k : Ksr) (c : Captured) : State :=
  let s := s.count (some g.ctx) 0x12 1
  let l := (s.ctx g.ctx).tierMiss
  let s := if l.contains (k.addr, c.page) then s
    else if 1024 ≤ l.length then s.count (some g.ctx) 0x13 1
    else s.modCtx g.ctx (fun x => { x with tierMiss := x.tierMiss ++ [(k.addr, c.page)] })
  let s := if (s.ctx g.ctx).desc.eventArea = 0 then s else s.sendEvent g.ctx k.tmev false 1
  if k.flags / 2 ^ 0 % 2 = 0 then s
  else s.addReq g (s.missEngine u c) (.pgmove k.addr c.page 0) .none
/-- ATTN's checks of its tiles, Q image and list offset (R329, checks 1 to 3); the answer is the page list. -/
def State.attnCheck (s : State) (k : CrewKey) (f : Attn) (q b : Nat) : Except Bad (List Nat) := do
  if !s.tileOk k f.o || !s.tileOk k f.s || f.o = f.s || (f.tileQ && (!s.tileOk k f.q || f.q = f.o || f.q = f.s)) then
    .error (bad .accumRange)
  if !f.tileQ && q % 16 ≠ 0 then .error (bad .misaligned)
  if b % 64 ≠ 0 then .error (bad .misaligned)
  if s.scratchSize k < b + 64 then .error (bad .scratchRange)
  -- a list in error gives no pages to check (R93)
  if s.scratchBad k b 64 then .error (bad .uncorrectable)
  match pageList (s.scratchBytes k b 64) with
  | some l => pure l
  | none => .error (bad .kvFormat)
/-- The state's check (R329, check 5). -/
def State.attnState (s : State) (k : CrewKey) (f : Attn) (r : Ksr) (ps : List Nat) : Except Bad Unit := do
  if ps.dedup.length ≠ ps.length then .error (bad .kvFormat)
  let h := s.attnHead k f.s.toNat
  if !f.init && (h.ksr ≠ r.addr || h.nr ≠ f.nr1.toNat + 1 || h.dim ≠ r.dim || 64 < h.ns + ps.length ||
      ps.any (fun p => (s.slotPages k f.s.toNat h.ns).contains p)) then .error (bad .kvFormat)
/-- The words of a state tile that hold something for nr rows and ns slots (Table 16.4): m and l, the slots' pairs where they are
read, the head, the slots' pages and status. -/
def stateWord (nr ns : Nat) (pairs : Bool) (i : Nat) : Bool :=
  let c := i % 256
  if c < 2 then i / 256 < nr
  else if 4 ≤ c && c ≤ 131 then pairs && i / 256 < nr && c < 4 + 2 * ns
  else if c = 252 then i / 256 < 5
  else (c = 253 || c = 255 && pairs) && i / 256 < ns
/-- A word of a state tile that is read holds an error that cannot be corrected (R93, R104). -/
def State.stateWordBad (s : State) (k : CrewKey) (t : Nat) (p : Nat → Bool) : Bool :=
  s.badSpots.any (fun x => match x with | .tile c w => c = k && w / 32768 = t && p (w % 32768) | _ => false)
/-- The state or the Q image of an ATTN holds an error that cannot be corrected (R93, R104, R327). -/
def State.attnBad (s : State) (k : CrewKey) (f : Attn) (dim q : Nat) : Bool :=
  let nr := f.nr1.toNat + 1
  let rows (t : Nat) : Bool := (List.range nr).any (fun i => s.tileBad k t (256 * i) dim)
  (if f.tileQ then rows f.q.toNat else s.scratchBad k q (2 * nr * dim)) ||
    (!f.init && (rows f.o.toNat || s.stateWordBad k f.s.toNat (stateWord nr (min (s.attnHead k f.s.toNat).ns 64) false)))
/-- The words of a state tile that Table 16.4 lists: INIT writes these, and no other word of S (R330; log 76). -/
def listedWord (nr i : Nat) : Bool :=
  let c := i % 256
  if c < 2 || (4 ≤ c && c ≤ 131) then i / 256 < nr else if c = 253 || c = 255 then i / 256 < 64 else true
/-- The words that ATTN leaves in O and S: of a row, where a page is attended by it or INIT sets it, the columns of its
dimension; the further columns of O are kept (R330, R331; log 76). -/
def State.attnWords (s : State) (k : CrewKey) (f : Attn) (r : Ksr) (qs : X) (q : Nat → Nat → X) (cs : List Captured) :
    List (Nat × Word) × List (Nat × Word) :=
  let nr := f.nr1.toNat + 1
  let ns := if f.init then 0 else (s.attnHead k f.s.toNat).ns
  let pages := cs.map (fun c => c.data.map (fun p => (p, (List.range 64).filter (fun t => 64 * c.page + t < r.length))))
  let start (i : Nat) : AttnRow :=
    if f.init then ⟨negInf, zeroX, List.replicate r.dim zeroX, false⟩
    else ⟨f32 (s.st k f.s.toNat i 0), f32 (s.st k f.s.toNat i 1),
      (List.range r.dim).map (fun d => f32 (s.tileWord k f.o.toNat (256 * i + d))), false⟩
  let rows := (List.range nr).map (fun i => attnRow ((List.range r.dim).map (q i)) qs pages (start i))
  let set_ (x : AttnRow) (l : List (Nat × Word)) : List (Nat × Word) := if f.init || x.hit then l else []
  let o := (rows.mapIdx (fun i x => set_ x.1 (x.1.o.mapIdx (fun d v => (256 * i + d, rne v))))).flatten
  let perRow := (rows.mapIdx (fun i x => set_ x.1 [(stKey i 0, rne x.1.m), (stKey i 1, rne x.1.l)] ++
    (x.2.mapIdx (fun j y => [(stKey i (4 + 2 * (ns + j)), rne y.1), (stKey i (5 + 2 * (ns + j)), rne y.2)])).flatten)).flatten
  let slots := (cs.mapIdx (fun j c => [(stKey (ns + j) 253, BitVec.ofNat 32 c.page),
    (stKey (ns + j) 255, if c.data.isSome then 1#32 else 2#32)])).flatten
  let head := [(stKey 0 252, BitVec.ofNat 32 (ns + cs.length)), (stKey 1 252, BitVec.ofNat 32 nr),
    (stKey 2 252, BitVec.ofNat 32 r.addr), (stKey 3 252, BitVec.ofNat 32 (r.addr / 2 ^ 32)), (stKey 4 252, BitVec.ofNat 32 r.dim)]
  let clear := if f.init then ((List.range 32768).filter (listedWord nr)).map (fun i => (i, (0 : Word))) else []
  (o, clear ++ perRow ++ slots ++ head)
/-- ATTN's own checks up to its captures, then what it reads of its tiles and Q image (R329, R211). -/
def State.attnPages (s : State) (g : Cur) (f : Attn) (a b qo : Nat) : Except Bad (Ksr × List (Nat × Pte)) := do
  let k := g.crewK
  let u := s.kvMaster g.warp
  let ps ← s.attnCheck k f qo b
  let r ← s.readKsr u a
  if !f.tileQ && s.scratchSize k < qo + 2 * (f.nr1.toNat + 1) * r.dim then .error (bad .scratchRange)
  s.attnState k f r ps
  let cs ← s.capturePages u r ps
  if s.attnBad k f r.dim qo then .error (bad .uncorrectable)
  pure (r, cs)
/-- ATTN completes: readers are counted, tier misses made, and the tiles' words stay pending (R330, R331). -/
def attnEnd (s : State) (g : Cur) (f : Attn) (lanes : List Nat) (r : Ksr) (qs : X) (qo : Nat) (cs : List Captured) : Out :=
  let k := g.crewK
  let u := s.kvMaster g.warp
  let q (i d : Nat) : X :=
    if f.tileQ then bf16X (f32 (s.tileWord k f.q.toNat (256 * i + d)))
    else dec fBf16 (leNat (s.scratchBytes k (qo + 2 * (i * r.dim + d)) 2))
  let ws := s.attnWords k f r qs q cs
  orRaise s g .read lanes ((s.sawPages u r cs).storeCaptures u (s.coreOf g.warp) cs) fun s1 =>
    let caps := (cs.filter (·.data.isSome)).map (fun c => ⟨r.addr, c.page, c.va, r.dim, f.s.toNat, u.user⟩)
    let s1 := s1.modWarp g.warp (fun x => { x with caps := x.caps ++ caps })
    let s1 := ((cs.filter (·.data.isNone)).foldl (fun s c => s.tierMiss g u r c) s1).ackOut g
    finishPend s1 g { pendOf s1 g (.attn f) [] with tiles := [(k, f.o.toNat, ws.1), (k, f.s.toNat, ws.2)] }
/-- ATTN: every listed page is captured, which waits where its readers are full, skipped pages and all (R329 to R331,
R150). -/
def execAttn (f : Attn) (s : State) : Out :=
  recordOp (.attn f) f.h (fun g s l lanes =>
    let w := s.warp g.warp
    let u := s.kvMaster g.warp
    let qo := (w.rg f.d.toNat l).toNat
    orRaise s g .read lanes (s.attnPages g f (w.pair f.a l).toNat (w.rg f.b.toNat l).toNat qo) fun (r, ps) =>
      match ps.find? (fun p => p.2.readers = 0xFFFF) with
      | some p => hold s g (s.bytesAt u (r.pteVa p.1 + 0x1C) 2 0xFFFF)
      | none =>
        orRaise s g .read lanes (s.loadPages u r ps) fun cs =>
          match s.missFull u r (cs.filter (·.data.isNone)) with
          | some (e, n) => holdQueue s g (.engine e n)
          | none => attnEnd s g f lanes r (f32 (w.rg f.c.toNat l)) qo cs) s

/-! ATTNFIN and SMMERGE (R332, R333). -/

/-- A weight in units of 2^-16, held to 32 bits. -/
def massUnits : X → Nat
  | .nan => 0
  | .inf n => if n then 0 else 0xFFFFFFFF
  | .fin n v e => if n || v = 0 then 0 else min (floorX false v (e + 16)).toNat 0xFFFFFFFF
/-- The mass that a row gives a slot (R332). -/
def massOf (mj lj m l : X) : Nat := massUnits (rneX (divX (rneX (mulX (fexp2X (rneX (subX mj m))) lj)) l))
/-- The captured slots of a state: slot and page. -/
def State.heldSlots (s : State) (k : CrewKey) (t : Nat) : List (Nat × Nat) :=
  (((List.range (min (s.attnHead k t).ns 64)).filter (fun j => (s.st k t j 255).getLsbD 0)).map (fun j => (j, s.slotPage k t j)))
/-- Adds mass to each captured page and releases its capture. -/
def State.finSlots (s : State) (u : Master) (core : Nat) (r : Ksr) (mass : Nat → Nat) : List (Nat × Nat) → Except Bad State
  | [] => .ok s
  | (j, pg) :: ps => do
    let p ← s.readPte u (r.pteVa pg)
    let (s, p) := s.release r.dim { p with mass := min (p.mass + mass j) 0xFFFFFFFF }
    let (_, s) ← s.storePte u (some core) (r.pteVa pg) p
    s.finSlots u core r mass ps
/-- One capture of a page that a crew's warps hold for a state tile is released (R150): a second one, which an ATTN.INIT over
the tile has left, stays. -/
def State.dropCap (s : State) (k : CrewKey) (p : Capture → Bool) : State :=
  match (s.warpsOf k).find? (fun w => (aget s.warps w).isSome && (s.warp w).caps.any p) with
  | some w => s.modWarp w (fun x => { x with caps := x.caps.eraseP p })
  | none => s
/-- The captures of a crew's warps, changed. -/
def State.mapCaps (s : State) (k : CrewKey) (f : List Capture → List Capture) : State :=
  (s.warpsOf k).foldl (fun s w => if (aget s.warps w).isSome then s.modWarp w (fun x => { x with caps := f x.caps }) else s) s
/-- The words of a state that are read hold an error that cannot be corrected: of its tile S, and of O (R93, R104, R327). -/
def State.stateBad (s : State) (k : CrewKey) (o t : Nat) : Bool :=
  let h := s.attnHead k t
  s.stateWordBad k t (stateWord (min h.nr 128) (min h.ns 64) true) || (List.range (min h.nr 128)).any (fun i => s.tileBad k o (256 * i) (min h.dim 256))
/-- ATTNFIN (R332). -/
def execAttnfin (f : Attnfin) (s : State) : Out :=
  recordOp (.attnfin f) f.h (fun g s _ lanes =>
    let k := g.crewK
    let u := s.kvMaster g.warp
    let core := s.coreOf g.warp
    let o := f.o.toNat
    let t := f.s.toNat
    if !s.tileOk k f.o || !s.tileOk k f.s || f.o = f.s then raise s g { code := .accumRange, lanes := lanes }
    else
      let h := s.attnHead k t
      let nr := min h.nr 128
      let x (i c : Nat) : X := f32 (s.st k t i c)
      let mass (j : Nat) : Nat := if f.nomass then 0
        else (List.range nr).foldl (fun n i => n + massOf (x i (4 + 2 * j)) (x i (5 + 2 * j)) (x i 0) (x i 1)) 0
      let held := s.heldSlots k t
      let res : Except Bad State := if held.isEmpty then .ok s else do
        let r ← s.readKsr u h.ksr
        (s.sawKsr u r (held.map (·.2))).finSlots u core r mass held
      orRaise s g .read lanes res fun s1 =>
        if s.stateBad k o t then raise s g { code := .uncorrectable, lanes := lanes }
        else
        let ow := (List.range nr).flatMap (fun i => (List.range (min h.dim 256)).map (fun d =>
          (256 * i + d, rne (divX (f32 (s.tileWord k o (256 * i + d))) (x i 1)))))
        let sw := (stKey 0 252, (0 : Word)) :: (List.range 64).map (fun j => (stKey j 255, (0 : Word)))
        let s1 := held.foldl (fun s p => s.dropCap k (fun c => c.tile = t && c.ksr = h.ksr && c.page = p.2)) s1
        let s1 := if held.isEmpty then s1 else s1.ackOut g
        finishPend s1 g { pendOf s1 g (.attnfin f) [] with tiles := [(k, o, ow), (k, t, sw)] }) s
/-- One row of a merge of two states that both hold something: m, l and O of state 1 (R333). -/
def mergeRow (a b : AttnRow) : AttnRow :=
    let mn := fmaxX a.m b.m
    let x := fexp2X (rneX (subX a.m mn))
    let y := fexp2X (rneX (subX b.m mn))
    let join (p q : X) : X := rneX (addX false (mulX p x) (mulX q y))
    ⟨mn, join a.l b.l, List.zipWith join a.o b.o, true⟩
/-- SMMERGE (R333). -/
def execSmmerge (f : Smmerge) (s : State) : Out :=
  gangOp (.smmerge f) f.h (fun g s _ lanes =>
    let k := g.crewK
    let ts := [f.o1, f.s1, f.o2, f.s2]
    let a := s.attnHead k f.s1.toNat
    let b := s.attnHead k f.s2.toNat
    let p1 := s.slotPages k f.s1.toNat (min a.ns 64)
    let p2 := s.slotPages k f.s2.toNat (min b.ns 64)
    if ts.any (fun t => !s.tileOk k t) || ts.dedup.length ≠ 4 then raise s g { code := .accumRange, lanes := lanes }
    else if a.ksr ≠ b.ksr || a.nr ≠ b.nr || a.dim ≠ b.dim || 64 < a.ns + b.ns || p2.any p1.contains then
      raise s g { code := .kvFormat, lanes := lanes }
    else if s.stateBad k f.o1.toNat f.s1.toNat || s.stateBad k f.o2.toNat f.s2.toNat then
      raise s g { code := .uncorrectable, lanes := lanes }
    else
      let nr := min a.nr 128
      let row (o t i : Nat) : AttnRow := ⟨f32 (s.st k t i 0), f32 (s.st k t i 1),
        (List.range (min a.dim 256)).map (fun d => f32 (s.tileWord k o (256 * i + d))), false⟩
      let empty (t i : Nat) : Bool := f32 (s.st k t i 0) == negInf
      -- the words of a row: O, then m and l; nothing of an empty row of state 2, its words as they are over an empty row of 1
      let words (i : Nat) : List (Nat × Word) × List (Nat × Word) :=
        if empty f.s2.toNat i then ([], [])
        else if empty f.s1.toNat i then
          ((List.range (min a.dim 256)).map (fun d => (256 * i + d, s.tileWord k f.o2.toNat (256 * i + d))),
           [(stKey i 0, s.st k f.s2.toNat i 0), (stKey i 1, s.st k f.s2.toNat i 1)])
        else
          let x := mergeRow (row f.o1.toNat f.s1.toNat i) (row f.o2.toNat f.s2.toNat i)
          (x.o.mapIdx (fun d v => (256 * i + d, rne v)), [(stKey i 0, rne x.m), (stKey i 1, rne x.l)])
      let ow := (List.range nr).flatMap (fun i => (words i).1)
      let ml := (List.range nr).flatMap (fun i => (words i).2)
      let copy (i c d : Nat) : Nat × Word := (stKey i d, s.st k f.s2.toNat i c)
      let slots := (List.range b.ns).flatMap (fun j =>
        [(stKey (a.ns + j) 253, s.st k f.s2.toNat j 253), (stKey (a.ns + j) 255, s.st k f.s2.toNat j 255)] ++
        (List.range nr).flatMap (fun i => [copy i (4 + 2 * j) (4 + 2 * (a.ns + j)), copy i (5 + 2 * j) (5 + 2 * (a.ns + j))]))
      let s1 := s.mapCaps k (fun l => l.map (fun c => if c.tile = f.s2.toNat then { c with tile := f.s1.toNat } else c))
      finishPend s1 g { pendOf s1 g (.smmerge f) [] with
        tiles := [(k, f.o1.toNat, ow), (k, f.s1.toNat, ml ++ slots ++ [(stKey 0 252, BitVec.ofNat 32 (a.ns + b.ns))]),
                  (k, f.s2.toNat, [(stKey 0 252, 0)])] }) s

/-! SELECT (R154, R155, R334). -/

/-- A summary record: centre, radius, VALID (R152). -/
structure Summary where (c : List X) (r : X) (valid : Bool) deriving DecidableEq, Repr, Inhabited
def Ksr.summVa (k : Ksr) (pg : Nat) : Nat := (k.summ + pg * (2 * k.dim + 64)) % 2 ^ 64
def State.readSummaries (s : State) (u : Master) (k : Ksr) : List Nat → Except Bad (List (Nat × Summary))
  | [] => .ok []
  | pg :: pgs => do
    let b ← s.unitRead u (k.summVa pg) (2 * k.dim + 8) false
    let x : Summary := ⟨(List.range k.dim).map (fun j => dec fBf16 (le16 b (2 * j))),
      f32 (BitVec.ofNat 32 (le32 b (2 * k.dim))), le8 b (2 * k.dim + 4) % 2 = 1⟩
    let r ← s.readSummaries u k pgs
    pure ((pg, x) :: r)
/-- The score of a page (R154). -/
def scoreOf (q : List X) (nq : X) (x : Summary) : X :=
  rneX (addX false (chunkSum zeroX (List.zipWith mulX q x.c)) (rneX (mulX x.r nq)))
/-- a ranks before b: by score, NaN last, then by index (R154). -/
def ranksBefore (a b : Nat × X) : Bool :=
  match a.2.isNan, b.2.isNan with
  | true, true => a.1 < b.1
  | true, false => false
  | false, true => true
  | false, false => b.2.lt a.2 || (a.2.eqv b.2 && a.1 < b.1)
def insertRank (x : Nat × X) : List (Nat × X) → List (Nat × X)
  | [] => [x]
  | y :: l => if ranksBefore x y then x :: y :: l else y :: insertRank x l
/-- The chosen pages, ascending (R155). -/
def chosen (k : Ksr) (n : Nat) (score : Summary → X) (l : List (Nat × Summary)) : List Nat :=
  let forced (p : Nat × Summary) : Bool := k.isSink p.1 || k.isRecent p.1 || !p.2.valid
  let ranked := (l.filter (fun p => !forced p)).foldr (fun p r => insertRank (p.1, score p.2) r) []
  let top := (ranked.take n).map (·.1)
  (l.filter (fun p => forced p || top.contains p.1)).map (·.1)
/-- SELECT's output: page indices and terminators (R334). -/
def selectOut (cap : Nat) (l : List Nat) : List Nat :=
  let m := l.take cap
  let pad := if m.isEmpty then 16 else 16 * ceilDiv m.length 16 - m.length
  m ++ List.replicate pad 0xFFFFFFFF
/-- SELECT (R334). -/
def execSelect (f : Select) (s : State) : Out :=
  recordOp (.select f) f.h (fun g s l lanes =>
    let w := s.warp g.warp
    let k := g.crewK
    let u := s.kvMaster g.warp
    let r (x : Reg) : Nat := (w.rg x.toNat l).toNat
    let size := s.scratchSize k
    let res : Except Bad (List Nat × State) := do
      if r f.b % 16 ≠ 0 || r f.f % 64 ≠ 0 then .error (bad .misaligned)
      if r f.g = 0 || r f.g % 16 ≠ 0 then .error (bad .kvFormat)
      let x ← s.readKsr u (w.pair f.a l).toNat
      if size < r f.b + 2 * x.dim || size < r f.f + 4 * r f.g then .error (bad .scratchRange)
      let q := (List.range x.dim).map (fun j => dec fBf16 (leNat (s.scratchBytes k (r f.b + 2 * j) 2)))
      let sums ← s.readSummaries u x ((List.range x.pages).filter x.isLive)
      if s.scratchBad k (r f.b) (2 * x.dim) then .error (bad .uncorrectable)
      let t := (sums.map (·.1)).foldl (fun s pg => s.sawRead u (x.summVa pg) (2 * x.dim + 8)) (s.sawRead u x.addr 64)
      pure (chosen x (r f.e) (scoreOf q (f32 (w.rg f.c.toNat l))) sums, t)
    orRaise s g .read lanes res fun (ps, t) =>
      let s1 := t.scratchPut k (r f.f) ((selectOut (r f.g) ps).flatMap (nbytes 4))
      finishPend s1 g { pendOf s1 g (.select f) [f.d.toNat] with
        writes := lanes.map (fun l => (f.d.toNat, l, BitVec.ofNat 32 ps.length)), assay := true }) s

end Sys2Proof.Machine
end

