-- ==== Sys2Proof/Machine/Home.lean ====
section
/-! DEFINITION. Steps of the homes, of the core's memory side, and of peers: fills, writes, atomics, range loads,
validations, acknowledgements, results that land (spec 05, 06, 09.4, 21 R392). -/

namespace Sys2Proof.Machine

/-- A message must wait: an earlier one of its warp concerns the same line (R109, R112), an earlier write of its core does,
or an earlier one of the device, the line being a peer's (R109). The operations of one gang on a line, which R37 leaves in any
order, so go in ascending lane order (log 85). -/
def State.mustWait (s : State) (m : Msg) : Bool :=
  match m.k.pa? with
  | none => false
  | some (pa, _) =>
    let far := match region pa with | .peer _ => true | _ => false
    s.msgs.any (fun x => x.id < m.id && x.k.touches (pa / 64) &&
      (far || x.warp = m.warp || (x.core = m.core && x.rank = m.rank && x.k.changes)))
/-- The home grants a lease on a line (R85): the record of its version and expiry. A line it did not track starts above every
version that its slices have stopped tracking, so that no captured one matches (R185). -/
def State.grant (s : State) (line len : Nat) : State × LineRec :=
  match aget s.lines line with
  | some r =>
    let r' : LineRec := ⟨r.version, max r.expiry (s.time + len)⟩
    ({ s with lines := aset s.lines line r' }, ⟨r.version, s.time + len⟩)
  | none =>
    let r : LineRec := ⟨s.verCtr + 1, s.time + len⟩
    ({ s with lines := aset s.lines line ⟨r.version, max r.expiry (s.lineExp line)⟩ }, r)
/-- The core's own writes on the way, over a line that an answer brings. -/
def State.overlay (s : State) (core : Nat) (l : L1Line) : L1Line :=
  s.msgs.foldl (fun l m => match m.k with
    | .write pa d _ => if m.core = core && m.rank = core && pa / 64 = l.line then l.put (pa % 64) d else l
    | _ => l) l
/-- The bytes of a line as its core sees them: the home's, and the core's own writes still on the way (R86). -/
def State.lineFor (s : State) (core line : Nat) : L1Line :=
  s.overlay core ⟨core, 0, line, BitVec.ofNat 512 (leNat (s.rdN (line * 64) 64)), 0, 0, []⟩
/-- The core's writes still on the way are in every copy of a line that the core has, or is being brought (R86, R109). -/
def State.overlayAll (s : State) (core line : Nat) : State :=
  let t := s.modL1 core line (s.overlay core)
  { t with msgs := t.msgs.map (fun m => match m.k with
      | .answer e ln ok l => if m.core = core && ln = line then { m with k := .answer e ln ok (s.overlay core l) } else m
      | _ => m) }
/-- HOME_FILL: the home reads the line and grants its lease; the loads that wait for it take their parts, and L1
takes the line (R85, R84). -/
def execHomeFill (id : Nat) (s : State) : Out :=
  match s.msg? id with
  | some { ctx := c, core := core, k := .fill line len parts, warp := wk, rank := rk, sent := t, .. } =>
    if s.mustWait ⟨id, c, core, rk, wk, t, .fill line len parts⟩ then .next s
    else
      let data := s.rdN (line * 64) 64
      let (s, r) := (s.l2Touch line false).grant line len
      let s := s.dropMsg id
      let s := s.install { s.lineFor core line with ctx := c, expiry := r.expiry, version := r.version }
      .next (parts.foldl (fun s p => s.answer p.1 (leNat ((data.drop p.2).take p.1.size))) s)
  | _ => .next s

/-- A write of a warp has been applied; a peer's settle message is still to come (R114, R117). -/
def State.applied (s : State) (m : Msg) (sp : Space) (wct : Nat) : State :=
  let s := s.turnMsg m.id (.ack wct)
  match sp with
  | .peer d => s.send m.ctx m.core m.rank m.warp (.settle d 0)
  | _ => s
/-- Applies a store at its home: on a range an 8-byte store folds the element, sets it and clears its flag
(R122); elsewhere the bytes, with the completion time of R114. -/
def State.applyWrite (s : State) (pa : Nat) (d : List Byte) (sp : Space) : Nat × State :=
  match sp with
  | .range _ => (s.clearElem (pa / 8 * 8)).homeWrite pa d
  | .device => s.homeWrite pa d
  | _ => (0, s.wrN pa d)
/-- HOME_WRITE (R109, R114). -/
def execHomeWrite (id : Nat) (s : State) : Out :=
  match s.msg? id with
  | some m =>
    match m.k with
    | .write pa d sp =>
      if s.mustWait m then .next s
      else
        let (wct, s) := s.applyWrite pa d sp
        .next (s.applied m sp wct)
    | _ => .next s
  | none => .next s
/-- HOME_ATOMIC: one indivisible read and write at the home (R119, R293). -/
def execHomeAtomic (id : Nat) (s : State) : Out :=
  match s.msg? id with
  | some m =>
    if s.mustWait m then .next s
    else
      let run (pa n : Nat) (sp : Space) (dst : Option Part) (f : Nat → Option Nat) : Out :=
        let old := s.rdNat pa n
        let s := match dst with | some p => s.answer p old | none => s
        match f old with
        | some v =>
          let (wct, s) := s.applyWrite pa (nbytes n v) sp
          let s := (s.ownCopy m.core pa (nbytes n v)).overlayAll m.core (pa / 64)
          .next (s.applied m sp wct)
        | none => .next (s.dropMsg id)
      match m.k with
      | .atom pa ty op b dst sp => run pa (atyBytes ty) sp dst (fun old => some (aopNew ty op old (b.toNat % 2 ^ (8 * atyBytes ty))))
      | .cas pa ty b c dst sp => run pa (atyBytes ty) sp (some dst) (fun old =>
          if old = b.toNat % 2 ^ (8 * atyBytes ty) then some c.toNat else none)
      | _ => .next s
  | none => .next s
/-- HOME_LDBY: the value at the home (R113). -/
def execHomeLdby (id : Nat) (s : State) : Out :=
  match s.msg? id with
  | some m =>
    match m.k with
    | .ldby pa ps sp =>
      if s.mustWait m then .next s
      else
        let v (p : Part) : Nat := s.rdNat pa p.size
        let t := if sp == .device then s.l2Touch (pa / 64) false else s
        .next ((ps.foldl (fun t p => t.answer p (v p)) t).dropMsg id)
    | _ => .next s
  | none => .next s
/-- HOME_RANGE_LOAD: folds the element and answers (R122). -/
def execHomeRangeLoad (id : Nat) (s : State) : Out :=
  match s.msg? id with
  | some m =>
    match m.k with
    | .range pa k p =>
      if s.mustWait m then .next s
      else
        let s := s.foldElem (pa / 8 * 8)
        .next ((s.answer p (s.rangeValue pa p.size k)).dropMsg id)
    | _ => .next s
  | none => .next s
/-- WRITE_ACKNOWLEDGEMENT: raises the warp's horizon (R115). -/
def execWriteAck (id : Nat) (s : State) : Out :=
  match s.msg? id with
  | some m =>
    match m.k, m.warp with
    | .ack wct, some k =>
      let s := s.dropMsg id
      .next (if (aget s.warps k).isSome then s.modWarp k (fun w => { w with whz := max w.whz wct }) else s)
    | .ack _, none => .next (s.dropMsg id)
    | _, _ => .next s
  | none => .next s
/-- L1_LEASE_EXPIRY: device time reaches a line's expiry, and the line is Stale (R84). -/
def execL1LeaseExpiry (core line : Nat) (s : State) : Out :=
  match s.l1Line core line with
  | some l => .next (s.elapse (l.expiry - s.time))
  | none => .next s

/-! Validations (R186, R188). -/

/-- LDE_VALIDATION: the home confirms with a new lease, or strikes with new data under one (R186). The line it answers with
holds the core's own writes still on the way (R86). -/
def execLdeValidation (id : Nat) (s : State) : Out :=
  match s.msg? id with
  | some m =>
    match m.k with
    | .valid e line ver len =>
      if s.mustWait m then .next s
      else
        let same := (aget s.lines line).any (fun r => r.version = ver)
        let (s, r) := (s.l2Touch line false).grant line len
        let l : L1Line := { s.lineFor m.core line with ctx := m.ctx, expiry := r.expiry, version := r.version }
        .next (s.turnMsg id (.answer e line same l))
    | _ => .next s
  | none => .next s
/-- What an answer does to the copy of the line that its core holds: a confirm renews its lease, a strike refills it, unless
it has been refilled since with a later version (R188, R112). -/
def State.answerL1 (s : State) (core line : Nat) (ok : Bool) (l : L1Line) : State :=
  match s.l1Line core line with
  | some old =>
    if ok then s.modL1 core line (fun x => { x with expiry := max old.expiry l.expiry })
    else if old.version ≤ l.version then s.install { l with ctx := old.ctx } else s
  | none => s
/-- VALIDATION_ANSWER: acts on its own entry unless that is struck or gone, and on L1 if the line is there (R188). -/
def execValidationAnswer (id : Nat) (s : State) : Out :=
  match s.msg? id with
  | some m =>
    match m.k with
    | .answer n line ok l =>
      let mine (e : ClrEntry) : Bool := e.id = n && e.st == .pending
      let st : EntrySt := if ok then .confirmed else .struck
      let s := if s.clearing.any mine then s.count (some m.ctx) (if ok then 0x0B else 0x0C) 1 else s
      let s := { s with clearing := s.clearing.map (fun e => if mine e then { e with st := st } else e) }
      .next ((s.answerL1 m.core line ok l).dropMsg id)
    | _ => .next s
  | none => .next s

/-! Results that land (R62). -/

/-- LONG_LATENCY_RESULT: a pending result whose accesses have all answered lands. -/
def execLongLatencyResult (id : Nat) (s : State) : Out :=
  match s.pend? id with
  | some p => .next (if p.left = 0 then s.land p else s)
  | none => .next s

/-! Peers (R91, R117, R392). -/

/-- The target number of a Link port's access table (R195). -/
def portTarget (port : Nat) : Nat := 14 + port
/-- A packet that a Link port has taken in may reach its place: the port's own table and the memory's table allow it, and the place
is in HBM4E, which alone a peer address names (R392, R94, R195, R196). -/
def State.portOk (s : State) (port pa : Nat) (rd wr : Bool) : Bool :=
  region pa == .tier 0 && s.physOk pa 3 rd wr false && s.tableAllows (portTarget port) pa 3 rd wr
/-- PEER_PACKET: a peer's access to this device's tier-0 memory, checked at the access tables as a Link port's. A
store or atomic leaves a settle message to the peer; a refused packet changes nothing (R196, R72). -/
def execPeerPacket (p : PeerPacket) (s : State) : Out :=
  let n := match p.op with
    | .load k => k
    | .store d => d.length
    | .atom ty _ _ | .cas ty _ _ => atyBytes ty
  let rd := match p.op with | .store _ => false | _ => true
  let wr := match p.op with | .load _ => false | _ => true
  if !s.portOk p.port p.pa rd wr || p.pa % 4096 + n > 4096 || s.isBad p.pa n then .next s
  else
    let settle (r : Nat × State) : State := r.2.send 64 0 (145 + p.port) none (.settle p.peer r.1)
    let old := s.rdNat p.pa n
    .next (match p.op with
      | .load _ => s.l2Touch (p.pa / 64) false
      | .store d => settle (s.homeWrite p.pa d)
      | .atom ty op b => settle (s.homeWrite p.pa (nbytes n (aopNew ty op old (b.toNat % 2 ^ (8 * n)))))
      | .cas _ b c => if old = b.toNat % 2 ^ (8 * n) then settle (s.homeWrite p.pa (nbytes n c.toNat)) else s)
/-- PEER_SETTLE: a home settles a peer's write when device time reaches its completion time; of this device's
own write to a peer, the peer's settle message arrives, if the peer answers (R117); of one that gives no answer for 10,000,000
ticks it is waited for no longer (R392; log 73). -/
def execPeerSettle (id : Nat) (s : State) : Out :=
  match s.msg? id with
  | some m =>
    match m.k with
    | .settle dev wct =>
      .next (if wct ≤ s.time && (m.ctx = 64 || aget s.peers dev != some .silent || m.sent + 10000000 ≤ s.time) then s.dropMsg id else s)
    | _ => .next s
  | none => .next s
/-- The space of a message to a peer. -/
def MsgKind.toPeer : MsgKind → Bool
  | .write _ _ (.peer _) | .atom _ _ _ _ _ (.peer _) | .cas _ _ _ _ _ (.peer _) | .ldby _ _ (.peer _) | .settle _ _ => true
  | _ => false
/-- PEER_TIMEOUT: an access unanswered for 10,000,000 ticks faults its instruction UNCORRECTABLE (R392, R210). -/
def execPeerTimeout (id : Nat) (s : State) : Out :=
  match s.msg? id with
  | some m =>
    match m.k, m.warp with
    | .unheard _ i, some k =>
      if s.time < m.sent + 10000000 then .next s
      else match ((s.warp k).slice i).wait with
        | .peer a pa len lanes _ =>
          let g : Cur := ⟨k, (s.warp k).gangOf i, len, false⟩
          let s := (s.dropMsg id).modWarp k (fun w => w.modSlices g.slices (fun x => { x with wait := .none }))
          .next (s.takeFault g { code := .uncorrectable, acc := a, addr := pa, lanes := (List.range 32).filter (lanes.getLsbD ·) })
        | _ => .next (s.dropMsg id)
    | _, _ => .next s
  | none => .next s
/-- A peer answers again, or refuses: the accesses that waited for it are made again. -/
def State.peerHeard (s : State) : State :=
  let heard (x : Slice) : Bool := match x.wait with | .peer _ pa _ _ _ => !s.peerSilent pa | _ => false
  { s with
    msgs := s.msgs.filter (fun m => match m.k with | .unheard pa _ => s.peerSilent pa | _ => true),
    warps := s.warps.map (fun p => (p.1, { p.2 with slices := p.2.slices.map (fun x => if heard x then { x with wait := .none } else x) })) }

end Sys2Proof.Machine
end

