-- ==== Sys2Proof/WellFormed.lean ====
section
/-! DEFINITION. Which instructions have an encoding that decodes (R61, R64, R68, R233, R236): the checks of
spec 12 and the opcode's own, each with the name of its rejection. -/

namespace Sys2Proof

/-- The first check that fails. -/
def firstRej : List (Option Rej) → Option Rej
  | [] => none
  | some r :: _ => some r
  | none :: l => firstRej l

/-- A span of two registers starts even, of four at a multiple of 4 (R64, R287, R335, R352); the 64
registers of a fragment may start anywhere (R318). -/
def spanOk (n : Nat) (r : Reg) : Option Rej :=
  if (n = 2 && r.toNat % 2 != 0) || (n = 4 && r.toNat % 4 != 0) then some .pair else none

/-- The checks that every instruction word takes: lookahead, live mask, reuse bits (R230, R233). -/
def Hdr.check (h : Hdr) (w : Row) (u : Use) : List (Option Rej) :=
  [if h.la != 0 && !w.ll then some .lookahead else none,
   if h.mask.isSome && w.form != .f64 then some .safePoint else none,
   match h.mask with
   | some m => if bits m 60 4 = 0#4 then none else some .liveMask
   | none => none,
   if (h.ruA && u.a = 0) || (h.ruB && u.b = 0) || (h.ruC && u.c = 0) then some .reuse else none]

/-- The check that an instruction fails, if any. A row that is a step of another agent has no encoding. -/
def Instr.check (i : Instr) : Option Rej :=
  match i.hdr, i.row with
  | some h, some w =>
    let u := i.use
    let r := i.fields
    firstRej (h.check w u ++ [spanOk u.d r.d, spanOk u.a r.a, spanOk u.b r.b, spanOk u.c r.c] ++ i.own)
  | _, _ => some .unassigned

/-- The instruction is well formed: every check passes. -/
def Instr.wf (i : Instr) : Bool := i.check.isNone

end Sys2Proof
end

