-- ==== Sys2Proof/Decode.lean ====
section
/-! DEFINITION. Decoding of Uaten-3 words (R228 to R233, R236), of Uaten-2 words (R237, R239), and after
it the encoder. Decoding is total: what is not an instruction is rejected by name. -/

namespace Sys2Proof

/-- An instruction's words split into fields (Tables 12.1 and 12.2). -/
structure Raw where
  len : BitVec 2 := 0
  sp : Bool := false
  la : BitVec 4 := 0
  op : BitVec 9 := 0
  ge : Bool := false
  gn : Bool := false
  gb : BitVec 5 := 0
  gr : BitVec 8 := 0
  top : Bool := false
  ruA : Bool := false
  ruB : Bool := false
  ruC : Bool := false
  f : Fields := {}
  deriving DecidableEq, Repr, Inhabited

/-- The words W0 to W3 of an instruction. -/
structure Words where (w0 w1 w2 w3 : Word) deriving DecidableEq, Repr, Inhabited

/-- Tables 12.1 and 12.2. -/
def Words.split (w : Words) : Raw :=
  { len := bits w.w0 0 2, sp := bit w.w0 2, la := bits w.w0 3 4, op := bits w.w0 7 9, ge := bit w.w0 16,
    gn := bit w.w0 17, gb := bits w.w0 18 5, gr := bits w.w0 23 8, top := bit w.w0 31,
    ruA := bit w.w1 24, ruB := bit w.w1 25, ruC := bit w.w1 26,
    f := { mod := bits w.w1 27 5, d := bits w.w1 0 8, a := bits w.w1 8 8, b := bits w.w1 16 8,
           w2 := w.w2, w3 := w.w3 } }

def Raw.join (r : Raw) : Words :=
  { w0 := BitVec.ofBool r.top ++ r.gr ++ r.gb ++ BitVec.ofBool r.gn ++ BitVec.ofBool r.ge ++ r.op ++ r.la ++
      BitVec.ofBool r.sp ++ r.len,
    w1 := r.f.mod ++ BitVec.ofBool r.ruC ++ BitVec.ofBool r.ruB ++ BitVec.ofBool r.ruA ++ r.f.b ++ r.f.a ++ r.f.d,
    w2 := r.f.w2, w3 := r.f.w3 }

def extBare (h : Hdr) (_ : Fields) : Except Rej Bare := pure ⟨h⟩
def extNopI (h : Hdr) (r : Fields) : Except Rej NopI := pure ⟨h, r.w2⟩
def extNopL (h : Hdr) (r : Fields) : Except Rej NopL := pure ⟨h, .ofHalves r.w2 r.w3⟩
def extBin (h : Hdr) (r : Fields) : Except Rej Bin := do
  let t ← tyE (bits r.mod 0 4)
  pure ⟨h, t, bit r.mod 4, r.d, r.a, r.b⟩
def extBinI (h : Hdr) (r : Fields) : Except Rej BinI := do
  let t ← tyE (bits r.mod 0 4)
  pure ⟨h, t, r.d, r.a, r.w2⟩
def extTern (h : Hdr) (r : Fields) : Except Rej Tern := do
  let t ← tyE (bits r.mod 0 4)
  pure ⟨h, t, bit r.w2 8, bit r.w2 9, bit r.w2 10, bits r.w2 11 8, r.d, r.a, r.b, bits r.w2 0 8⟩
def extBinL (h : Hdr) (r : Fields) : Except Rej BinL := do
  let t ← tyE (bits r.mod 0 4)
  pure ⟨h, t, bit r.mod 4, r.d, r.a, .ofHalves r.w2 r.w3⟩
def extUn (h : Hdr) (r : Fields) : Except Rej Un := do
  let t ← tyE (bits r.mod 0 4)
  pure ⟨h, t, bit r.mod 4, r.d, r.a⟩
def extCmp (h : Hdr) (r : Fields) : Except Rej Cmp := pure ⟨h, bits r.mod 1 4, bit r.mod 0, r.d, r.a, r.b⟩
def extCmpI (h : Hdr) (r : Fields) : Except Rej CmpI := pure ⟨h, bits r.mod 1 4, bit r.mod 0, r.d, r.a, r.w2⟩
def extPlop (h : Hdr) (r : Fields) : Except Rej Plop := pure ⟨h, r.mod, popOf (bits r.b 5 3), bits r.b 0 5, r.d, r.a⟩
def extMovi (h : Hdr) (r : Fields) : Except Rej Movi := pure ⟨h, r.d, r.w2⟩
def extMovl (h : Hdr) (r : Fields) : Except Rej Movl := pure ⟨h, r.d, .ofHalves r.w2 r.w3⟩
def extFrnd (h : Hdr) (r : Fields) : Except Rej Frnd := pure ⟨h, rmOf (bits r.b 0 2), r.d, r.a⟩
def extCvt (h : Hdr) (r : Fields) : Except Rej Cvt := do
  let td ← tyE (bits r.mod 0 4)
  let ts ← tyE (bits r.b 0 4)
  pure ⟨h, td, ts, bit r.mod 4, rmOf (bits r.b 4 2), bit r.b 6, r.d, r.a⟩
def extCvtpk (h : Hdr) (r : Fields) : Except Rej Cvtpk := do
  let td ← tyE (bits r.mod 0 4)
  let ts ← tyE (bits r.w2 8 4)
  pure ⟨h, td, ts, bit r.mod 4, rmOf (bits r.w2 12 2), bit r.w2 14, bits r.w2 15 5, bit r.w2 20, r.d, r.a, r.b, bits r.w2 0 8⟩
def extCvtupk (h : Hdr) (r : Fields) : Except Rej Cvtupk := do
  let ts ← tyE (bits r.mod 0 4)
  pure ⟨h, ts, bits r.b 0 2, r.d, r.a⟩
def extLxch (h : Hdr) (r : Fields) : Except Rej Lxch := pure ⟨h, xmodeOf (bits r.w2 8 2), bits r.w2 10 3, r.d, r.a, r.b, bits r.w2 0 8⟩
def extLbit (h : Hdr) (r : Fields) : Except Rej Lbit := pure ⟨h, bit r.mod 0, bits r.b 0 5, r.d, r.a⟩
def extOnlyD (h : Hdr) (r : Fields) : Except Rej OnlyD := pure ⟨h, r.d⟩
def extFold (h : Hdr) (r : Fields) : Except Rej Fold := do
  let t ← tyE (bits r.mod 0 4)
  let op ← foldE (bits r.b 0 3)
  pure ⟨h, t, op, bit r.b 3, bits r.b 4 3, r.d, r.a⟩
def extSregR (h : Hdr) (r : Fields) : Except Rej Sreg := pure ⟨h, r.a, r.d⟩
def extSregW (h : Hdr) (r : Fields) : Except Rej Sreg := pure ⟨h, r.a, r.b⟩
def extXform (h : Hdr) (r : Fields) : Except Rej Xform := do
  let fn ← xfnE (bits r.w2 8 3)
  pure ⟨h, fn, elemOf (bits r.w2 11 3), bit r.w2 14, bits r.w2 15 5, bits r.w2 20 2, r.d, r.a, r.b⟩
def extBra (h : Hdr) (r : Fields) : Except Rej Bra := pure ⟨h, r.w2⟩
def extDbra (h : Hdr) (r : Fields) : Except Rej Dbra := pure ⟨h, r.w2, r.w3⟩
def extOnlyA (h : Hdr) (r : Fields) : Except Rej OnlyA := pure ⟨h, r.a⟩
def extCall (h : Hdr) (r : Fields) : Except Rej Call := pure ⟨h, r.d, r.w2⟩
def extCallX (h : Hdr) (r : Fields) : Except Rej CallX := pure ⟨h, r.d, r.a⟩
def extCode8 (h : Hdr) (r : Fields) : Except Rej Code8 := pure ⟨h, r.b⟩
def extMem (h : Hdr) (r : Fields) : Except Rej Mem := do
  let sz ← szE (bits r.mod 0 3)
  let o ← ordE (bits r.mod 3 2) r.b
  pure ⟨h, sz, o, r.d, r.a⟩
def extMemI (h : Hdr) (r : Fields) : Except Rej MemI := do
  let sz ← szE (bits r.mod 0 3)
  pure ⟨h, sz, r.d, r.a, r.w2⟩
def extClear (h : Hdr) (r : Fields) : Except Rej Clear := pure ⟨h, r.b ++ r.a ++ r.d⟩
def extAtom (h : Hdr) (r : Fields) : Except Rej Atom := do
  let ty ← atyE r.mod
  let op ← aopE (bits r.w2 11 4)
  let sc ← scopeE (bits r.w2 8 3)
  pure ⟨h, ty, op, sc, bit r.w2 15, bits r.w2 16 16, r.d, r.a, r.b⟩
def extAtomc (h : Hdr) (r : Fields) : Except Rej Atomc := do
  let ty ← atyE r.mod
  let sc ← scopeE (bits r.w2 8 3)
  pure ⟨h, ty, sc, bit r.w2 15, bits r.w2 16 16, r.d, r.a, r.b, bits r.w2 0 8⟩
def extRed (h : Hdr) (r : Fields) : Except Rej Red := do
  let ty ← atyE r.mod
  let op ← aopE (bits r.d 3 4)
  let sc ← scopeE (bits r.d 0 3)
  pure ⟨h, ty, op, sc, r.a, r.b⟩
def extRedI (h : Hdr) (r : Fields) : Except Rej RedI := do
  let ty ← atyE r.mod
  let op ← aopE (bits r.d 3 4)
  let sc ← scopeE (bits r.d 0 3)
  pure ⟨h, ty, op, sc, r.a, r.w2⟩
def extRedc (h : Hdr) (r : Fields) : Except Rej Redc := pure ⟨h, r.a, r.b⟩
def extFence (h : Hdr) (r : Fields) : Except Rej Fence := do
  let sc ← scopeE (bits r.b 0 3)
  pure ⟨h, fkOf (bits r.mod 0 2), sc⟩
def extPref (h : Hdr) (r : Fields) : Except Rej Pref := pure ⟨h, bit r.mod 0, r.a⟩
def extPrefI (h : Hdr) (r : Fields) : Except Rej PrefI := pure ⟨h, bit r.mod 0, r.a, r.w2⟩
def extCpa (h : Hdr) (r : Fields) : Except Rej Cpa := pure ⟨h, bits r.mod 0 2, bit r.w2 8, r.d, r.a, r.b⟩
def extCpwait (h : Hdr) (r : Fields) : Except Rej Cpwait := pure ⟨h, bit r.mod 0, r.a⟩
def extTcopy (h : Hdr) (r : Fields) : Except Rej Tcopy := do
  let k ← tkE (bits r.w3 9 2)
  pure ⟨h, k, bit r.w3 11, bits r.w3 12 5, bits r.w3 0 5, bits r.w3 5 4, r.d, r.a, r.b, bits r.w2 0 8, bits r.w2 8 8, bits r.w2 16 8, bits r.w2 24 8⟩
def extTcred (h : Hdr) (r : Fields) : Except Rej Tcred := do
  let k ← tkE (bits r.w3 9 2)
  let ty ← atyE (bits r.w3 20 5)
  let op ← aopE (0#1 ++ bits r.w3 17 3)
  pure ⟨h, ty, op, k, bits r.w3 12 5, bits r.w3 0 5, bits r.w3 5 4, r.d, r.a, r.b, bits r.w2 0 8, bits r.w2 8 8, bits r.w2 16 8, bits r.w2 24 8⟩
def extSpset (h : Hdr) (r : Fields) : Except Rej Spset := pure ⟨h, bits r.w2 8 5, bits r.w2 13 4, bit r.w2 17, r.b⟩
def extSpD (h : Hdr) (r : Fields) : Except Rej SpD := pure ⟨h, bits r.b 0 5, r.d⟩
def extSpK (h : Hdr) (r : Fields) : Except Rej SpK := pure ⟨h, bits r.b 0 5⟩
def extDcopy (h : Hdr) (r : Fields) : Except Rej Dcopy := pure ⟨h, bit r.w2 17, bits r.w2 18 2, bits r.w2 8 5, bits r.w2 13 4, r.d, r.a, r.b⟩
def extPgmove (h : Hdr) (r : Fields) : Except Rej Pgmove := pure ⟨h, bits r.w2 17 2, bits r.w2 8 5, bits r.w2 13 4, r.a, r.b⟩
def extAccx (h : Hdr) (r : Fields) : Except Rej Accx := pure ⟨h, bits r.w2 8 5, bit r.w2 13, bits r.w2 14 7, bits r.w2 21 7, r.a⟩
def extMma (h : Hdr) (r : Fields) : Except Rej Mma := do
  let src ← asrcE (bits r.mod 3 2)
  pure ⟨h, src, elemOf (bits r.mod 0 3), elemOf (bits r.w2 18 3), bits r.w2 25 6, bits r.w2 22 3, bit r.w2 21, bits r.w2 13 5, bits r.w2 8 5, r.a, r.b⟩
def extTile1 (h : Hdr) (r : Fields) : Except Rej Tile1 := pure ⟨h, bits r.d 0 5⟩
def extAccmov (h : Hdr) (r : Fields) : Except Rej Accmov := do
  let m ← amE (bits r.mod 0 2)
  pure ⟨h, m, r.d, r.a, r.b⟩
def extAccscl (h : Hdr) (r : Fields) : Except Rej Accscl := pure ⟨h, r.d, r.a, r.b⟩
def extAttn (h : Hdr) (r : Fields) : Except Rej Attn := pure ⟨h, bits r.w3 0 5, bits r.w3 5 5, bits r.w3 10 5, bit r.w3 15, bit r.w3 23, bits r.w3 16 7, r.d, r.a, r.b, bits r.w2 0 8⟩
def extAttnfin (h : Hdr) (r : Fields) : Except Rej Attnfin := pure ⟨h, bits r.w2 8 5, bits r.w2 13 5, bit r.w2 18⟩
def extSmmerge (h : Hdr) (r : Fields) : Except Rej Smmerge := pure ⟨h, bits r.w2 8 5, bits r.w2 13 5, bits r.w2 18 5, bits r.w2 23 5⟩
def extSelect (h : Hdr) (r : Fields) : Except Rej Select := pure ⟨h, r.d, r.a, r.b, bits r.w2 0 8, bits r.w2 8 8, bits r.w2 16 8, bits r.w2 24 8⟩
def extKvapp (h : Hdr) (r : Fields) : Except Rej Kvapp := pure ⟨h, r.a, r.b, bits r.w2 0 8⟩
def extKvAB (h : Hdr) (r : Fields) : Except Rej KvAB := pure ⟨h, r.a, r.b⟩
def extKvinfo (h : Hdr) (r : Fields) : Except Rej Kvinfo := pure ⟨h, bit r.mod 0, r.d, r.a, r.b⟩
def extCbar (h : Hdr) (r : Fields) : Except Rej Cbar := pure ⟨h, bits r.d 0 3⟩
def extGbar (h : Hdr) (r : Fields) : Except Rej Gbar := pure ⟨h, bits r.d 0 2⟩
def extEv (h : Hdr) (r : Fields) : Except Rej Ev := do
  let nm ← nameE (bit r.mod 4) r.d r.a
  pure ⟨h, nm, r.b⟩
def extEvI (h : Hdr) (r : Fields) : Except Rej EvI := do
  let nm ← nameE (bit r.mod 4) r.d r.a
  pure ⟨h, nm, r.w2⟩
def extEvwait (h : Hdr) (r : Fields) : Except Rej Evwait := do
  let nm ← nameE (bit r.mod 4) r.d r.a
  pure ⟨h, bit r.mod 0, nm⟩
def extEvtest (h : Hdr) (r : Fields) : Except Rej Evtest := do
  let nm ← nameE (bit r.mod 4) r.b r.a
  pure ⟨h, bit r.mod 0, nm, r.d⟩
def extTaskput (h : Hdr) (r : Fields) : Except Rej Taskput := do
  let nm ← nameE (bit r.mod 4) r.d r.a
  pure ⟨h, nm, bits r.w2 8 4, r.b⟩
def extTaskpop (h : Hdr) (r : Fields) : Except Rej Taskpop := pure ⟨h, bits r.b 0 4, r.d⟩
def extSibpost (h : Hdr) (r : Fields) : Except Rej Sibpost := pure ⟨h, bits r.b 0 2, r.d, r.a⟩
def extSibpostC (h : Hdr) (r : Fields) : Except Rej SibpostC := pure ⟨h, bits r.b 0 2, bits r.w2 8 9, r.d, r.a, bits r.w2 0 8⟩
def extSibqry (h : Hdr) (r : Fields) : Except Rej Sibqry := pure ⟨h, bit r.mod 0, bits r.a 0 2, r.d, r.b⟩
def extSibcancel (h : Hdr) (r : Fields) : Except Rej Sibcancel := pure ⟨h, bit r.mod 0, bits r.d 0 2, r.b⟩
def extDAB (h : Hdr) (r : Fields) : Except Rej DAB := pure ⟨h, r.d, r.a, r.b⟩
def extOnlyB (h : Hdr) (r : Fields) : Except Rej OnlyB := pure ⟨h, r.b⟩
def extPerf (h : Hdr) (r : Fields) : Except Rej Perf := pure ⟨h, bit r.mod 0, r.b, r.d⟩
def extRte (h : Hdr) (r : Fields) : Except Rej Rte := do
  let m ← rteE (bits r.mod 0 2)
  pure ⟨h, m, r.b⟩
def extCacheop (h : Hdr) (r : Fields) : Except Rej Cacheop := pure ⟨h, cacheOf (bits r.mod 0 2), r.a, r.b⟩
def extTlbop (h : Hdr) (r : Fields) : Except Rej Tlbop := pure ⟨h, tlbOf (bits r.mod 0 2), r.a, r.b⟩
def extCtxop (h : Hdr) (r : Fields) : Except Rej Ctxop := do
  let op ← ctxE (bits r.mod 0 3)
  pure ⟨h, op, r.d, r.a, r.b⟩

/-- The instruction of an opcode in a form, its operands read from the fields (R229, R236). -/
def extract (code : Nat) (k : Form) (h : Hdr) (r : Fields) : Except Rej Instr :=
  match code, k with
  | 0x000, .f64 => .nop <$> extBare h r
  | 0x000, .f96i => .nop96i <$> extNopI h r
  | 0x000, .f128i => .nop128i <$> extNopL h r
  | 0x001, .f64 => .iadd <$> extBin h r
  | 0x001, .f96i => .iadd96i <$> extBinI h r
  | 0x002, .f64 => .isub <$> extBin h r
  | 0x002, .f96i => .isub96i <$> extBinI h r
  | 0x003, .f64 => .imul <$> extBin h r
  | 0x003, .f96i => .imul96i <$> extBinI h r
  | 0x004, .f64 => .imulhi <$> extBin h r
  | 0x005, .f96c => .imad <$> extTern h r
  | 0x006, .f96c => .imadw <$> extTern h r
  | 0x007, .f64 => .iadd64 <$> extBin h r
  | 0x007, .f128i => .iadd64128i <$> extBinL h r
  | 0x008, .f64 => .isub64 <$> extBin h r
  | 0x009, .f96c => .lea <$> extTern h r
  | 0x00A, .f64 => .imin <$> extBin h r
  | 0x00A, .f96i => .imin96i <$> extBinI h r
  | 0x00B, .f64 => .imax <$> extBin h r
  | 0x00B, .f96i => .imax96i <$> extBinI h r
  | 0x00C, .f64 => .iabs <$> extUn h r
  | 0x00D, .f96c => .isad <$> extTern h r
  | 0x00E, .f96c => .iclamp <$> extTern h r
  | 0x00F, .f64 => .shl <$> extBin h r
  | 0x00F, .f96i => .shl96i <$> extBinI h r
  | 0x010, .f64 => .shr <$> extBin h r
  | 0x010, .f96i => .shr96i <$> extBinI h r
  | 0x011, .f64 => .sar <$> extBin h r
  | 0x011, .f96i => .sar96i <$> extBinI h r
  | 0x012, .f64 => .rot <$> extBin h r
  | 0x012, .f96i => .rot96i <$> extBinI h r
  | 0x013, .f96c => .fshf <$> extTern h r
  | 0x014, .f64 => .and <$> extBin h r
  | 0x014, .f96i => .and96i <$> extBinI h r
  | 0x015, .f64 => .or <$> extBin h r
  | 0x015, .f96i => .or96i <$> extBinI h r
  | 0x016, .f64 => .xor <$> extBin h r
  | 0x016, .f96i => .xor96i <$> extBinI h r
  | 0x017, .f64 => .not <$> extUn h r
  | 0x018, .f96c => .bool3 <$> extTern h r
  | 0x019, .f64 => .popc <$> extUn h r
  | 0x01A, .f64 => .clz <$> extUn h r
  | 0x01B, .f64 => .brev <$> extUn h r
  | 0x01C, .f64 => .bfe <$> extBin h r
  | 0x01C, .f96i => .bfe96i <$> extBinI h r
  | 0x01D, .f96c => .bfi <$> extTern h r
  | 0x01E, .f96c => .bysel <$> extTern h r
  | 0x01F, .f64 => .icmp <$> extCmp h r
  | 0x01F, .f96i => .icmp96i <$> extCmpI h r
  | 0x020, .f64 => .icmp64 <$> extCmp h r
  | 0x021, .f64 => .plop <$> extPlop h r
  | 0x022, .f96c => .isel <$> extTern h r
  | 0x023, .f64 => .mov <$> extUn h r
  | 0x024, .f96i => .movi <$> extMovi h r
  | 0x025, .f128i => .movi64 <$> extMovl h r
  | 0x026, .f96c => .idp4 <$> extTern h r
  | 0x027, .f96c => .idp2 <$> extTern h r
  | 0x040, .f64 => .fadd <$> extBin h r
  | 0x040, .f96i => .fadd96i <$> extBinI h r
  | 0x041, .f64 => .fsub <$> extBin h r
  | 0x041, .f96i => .fsub96i <$> extBinI h r
  | 0x042, .f64 => .fmul <$> extBin h r
  | 0x042, .f96i => .fmul96i <$> extBinI h r
  | 0x043, .f96c => .ffma <$> extTern h r
  | 0x044, .f64 => .fmin <$> extBin h r
  | 0x045, .f64 => .fmax <$> extBin h r
  | 0x046, .f64 => .fcmp <$> extCmp h r
  | 0x046, .f96i => .fcmp96i <$> extCmpI h r
  | 0x047, .f96c => .fclamp <$> extTern h r
  | 0x048, .f64 => .frcp <$> extUn h r
  | 0x049, .f64 => .frsq <$> extUn h r
  | 0x04A, .f64 => .fsqrt <$> extUn h r
  | 0x04B, .f64 => .fexp2 <$> extUn h r
  | 0x04C, .f64 => .flog2 <$> extUn h r
  | 0x04D, .f64 => .ftanh <$> extUn h r
  | 0x04E, .f64 => .frnd <$> extFrnd h r
  | 0x04F, .f64 => .fscale <$> extBin h r
  | 0x050, .f64 => .fclass <$> extUn h r
  | 0x051, .f96c => .fdot2 <$> extTern h r
  | 0x052, .f64 => .padd2 <$> extBin h r
  | 0x052, .f96i => .padd296i <$> extBinI h r
  | 0x053, .f64 => .pmul2 <$> extBin h r
  | 0x053, .f96i => .pmul296i <$> extBinI h r
  | 0x054, .f96c => .pfma2 <$> extTern h r
  | 0x055, .f64 => .pmin2 <$> extBin h r
  | 0x056, .f64 => .pmax2 <$> extBin h r
  | 0x080, .f64 => .cvt <$> extCvt h r
  | 0x081, .f96c => .cvtpk <$> extCvtpk h r
  | 0x082, .f64 => .cvtupk <$> extCvtupk h r
  | 0x083, .f96c => .lxch <$> extLxch h r
  | 0x084, .f64 => .lpoll <$> extLbit h r
  | 0x085, .f64 => .lmask <$> extLbit h r
  | 0x086, .f64 => .lpeer <$> extUn h r
  | 0x087, .f64 => .lfirst <$> extOnlyD h r
  | 0x088, .f64 => .ifold <$> extFold h r
  | 0x089, .f64 => .ffold <$> extFold h r
  | 0x08A, .f64 => .scan <$> extFold h r
  | 0x08B, .f64 => .fscan <$> extFold h r
  | 0x08C, .f64 => .sreg <$> extSregR h r
  | 0x08D, .f64 => .sregw <$> extSregW h r
  | 0x08E, .f96c => .xform <$> extXform h r
  | 0x0C0, .f96i => .bra <$> extBra h r
  | 0x0C1, .f128i => .dbra <$> extDbra h r
  | 0x0C2, .f64 => .join <$> extBare h r
  | 0x0C3, .f64 => .brx <$> extOnlyA h r
  | 0x0C4, .f96i => .call <$> extCall h r
  | 0x0C5, .f64 => .callx <$> extCallX h r
  | 0x0C6, .f64 => .ret <$> extOnlyA h r
  | 0x0C7, .f64 => .exit <$> extBare h r
  | 0x0C8, .f64 => .regang <$> extOnlyA h r
  | 0x0C9, .f64 => .yield <$> extBare h r
  | 0x0CA, .f64 => .canpt <$> extBare h r
  | 0x0CB, .f64 => .heart <$> extBare h r
  | 0x0CC, .f64 => .trap <$> extCode8 h r
  | 0x0CD, .f64 => .bkpt <$> extBare h r
  | 0x100, .f64 => .ld <$> extMem h r
  | 0x100, .f96i => .ld96i <$> extMemI h r
  | 0x101, .f64 => .st <$> extMem h r
  | 0x101, .f96i => .st96i <$> extMemI h r
  | 0x102, .f64 => .ldby <$> extMem h r
  | 0x102, .f96i => .ldby96i <$> extMemI h r
  | 0x103, .f64 => .lde <$> extMem h r
  | 0x103, .f96i => .lde96i <$> extMemI h r
  | 0x104, .f64 => .clear <$> extClear h r
  | 0x105, .f64 => .cldrop <$> extBare h r
  | 0x106, .f64 => .lds <$> extMem h r
  | 0x106, .f96i => .lds96i <$> extMemI h r
  | 0x107, .f64 => .sts <$> extMem h r
  | 0x107, .f96i => .sts96i <$> extMemI h r
  | 0x108, .f64 => .ldl <$> extMem h r
  | 0x108, .f96i => .ldl96i <$> extMemI h r
  | 0x109, .f64 => .stl <$> extMem h r
  | 0x109, .f96i => .stl96i <$> extMemI h r
  | 0x10A, .f64 => .ldc <$> extMem h r
  | 0x10A, .f96i => .ldc96i <$> extMemI h r
  | 0x10B, .f96c => .atom <$> extAtom h r
  | 0x10C, .f96c => .atomc <$> extAtomc h r
  | 0x10D, .f64 => .red <$> extRed h r
  | 0x10D, .f96i => .red96i <$> extRedI h r
  | 0x10E, .f64 => .redc <$> extRedc h r
  | 0x10F, .f64 => .fence <$> extFence h r
  | 0x110, .f64 => .pref <$> extPref h r
  | 0x110, .f96i => .pref96i <$> extPrefI h r
  | 0x140, .f96c => .cpa <$> extCpa h r
  | 0x141, .f64 => .cpclose <$> extOnlyD h r
  | 0x142, .f64 => .cpwait <$> extCpwait h r
  | 0x143, .f128x => .tcopy <$> extTcopy h r
  | 0x144, .f128x => .tcred <$> extTcred h r
  | 0x145, .f96c => .spset <$> extSpset h r
  | 0x146, .f64 => .spwait <$> extSpD h r
  | 0x147, .f64 => .sprel <$> extSpK h r
  | 0x148, .f64 => .spqry <$> extSpD h r
  | 0x149, .f96c => .dcopy <$> extDcopy h r
  | 0x14A, .f96c => .pgin <$> extPgmove h r
  | 0x14B, .f96c => .pgmove <$> extPgmove h r
  | 0x14C, .f64 => .crcchk <$> extCallX h r
  | 0x14D, .f96c => .accld <$> extAccx h r
  | 0x14E, .f96c => .accst <$> extAccx h r
  | 0x180, .f96c => .mma <$> extMma h r
  | 0x181, .f96c => .mma2 <$> extMma h r
  | 0x182, .f96c => .mmab <$> extMma h r
  | 0x183, .f64 => .accz <$> extTile1 h r
  | 0x184, .f64 => .accmov <$> extAccmov h r
  | 0x185, .f64 => .accscl <$> extAccscl h r
  | 0x186, .f128x => .attn <$> extAttn h r
  | 0x187, .f96c => .attnfin <$> extAttnfin h r
  | 0x188, .f96c => .smmerge <$> extSmmerge h r
  | 0x189, .f128x => .select <$> extSelect h r
  | 0x18A, .f96c => .kvapp <$> extKvapp h r
  | 0x18B, .f64 => .kvcommit <$> extKvAB h r
  | 0x18C, .f64 => .kvroll <$> extOnlyA h r
  | 0x18D, .f64 => .kvclose <$> extKvAB h r
  | 0x18E, .f64 => .kvstep <$> extKvAB h r
  | 0x18F, .f64 => .demreq <$> extKvAB h r
  | 0x190, .f64 => .kvpin <$> extKvAB h r
  | 0x191, .f64 => .kvunpin <$> extKvAB h r
  | 0x192, .f64 => .kvinfo <$> extKvinfo h r
  | 0x1C0, .f64 => .cbar <$> extCbar h r
  | 0x1C1, .f64 => .gbar <$> extGbar h r
  | 0x1C2, .f64 => .evadd <$> extEv h r
  | 0x1C2, .f96i => .evadd96i <$> extEvI h r
  | 0x1C3, .f64 => .evset <$> extEv h r
  | 0x1C3, .f96i => .evset96i <$> extEvI h r
  | 0x1C4, .f64 => .evwait <$> extEvwait h r
  | 0x1C5, .f64 => .evtest <$> extEvtest h r
  | 0x1C6, .f96c => .taskput <$> extTaskput h r
  | 0x1C7, .f64 => .taskpop <$> extTaskpop h r
  | 0x1C8, .f64 => .sibpost <$> extSibpost h r
  | 0x1C8, .f96c => .sibpost96c <$> extSibpostC h r
  | 0x1C9, .f64 => .sibqry <$> extSibqry h r
  | 0x1CA, .f64 => .sibcancel <$> extSibcancel h r
  | 0x1CB, .f64 => .launch <$> extDAB h r
  | 0x1CC, .f64 => .sleep <$> extOnlyB h r
  | 0x1CC, .f96i => .sleep96i <$> extNopI h r
  | 0x1CD, .f64 => .perf <$> extPerf h r
  | 0x1CE, .f64 => .svc <$> extCode8 h r
  | 0x1CF, .f64 => .rte <$> extRte h r
  | 0x1D0, .f64 => .cacheop <$> extCacheop h r
  | 0x1D1, .f64 => .tlbop <$> extTlbop h r
  | 0x1D2, .f64 => .ctxop <$> extCtxop h r
  | _, _ => .error .noForm

/-- Tables 12.7 to 12.14: the forms of each assigned opcode, and whether it is long-latency. -/
def opForms : Nat → Option (List Form × Bool)
  | 0x000 => some ([.f64, .f96i, .f128i], false)
  | 0x001 => some ([.f64, .f96i], false)
  | 0x002 => some ([.f64, .f96i], false)
  | 0x003 => some ([.f64, .f96i], false)
  | 0x004 => some ([.f64], false)
  | 0x005 => some ([.f96c], false)
  | 0x006 => some ([.f96c], false)
  | 0x007 => some ([.f64, .f128i], false)
  | 0x008 => some ([.f64], false)
  | 0x009 => some ([.f96c], false)
  | 0x00A => some ([.f64, .f96i], false)
  | 0x00B => some ([.f64, .f96i], false)
  | 0x00C => some ([.f64], false)
  | 0x00D => some ([.f96c], false)
  | 0x00E => some ([.f96c], false)
  | 0x00F => some ([.f64, .f96i], false)
  | 0x010 => some ([.f64, .f96i], false)
  | 0x011 => some ([.f64, .f96i], false)
  | 0x012 => some ([.f64, .f96i], false)
  | 0x013 => some ([.f96c], false)
  | 0x014 => some ([.f64, .f96i], false)
  | 0x015 => some ([.f64, .f96i], false)
  | 0x016 => some ([.f64, .f96i], false)
  | 0x017 => some ([.f64], false)
  | 0x018 => some ([.f96c], false)
  | 0x019 => some ([.f64], false)
  | 0x01A => some ([.f64], false)
  | 0x01B => some ([.f64], false)
  | 0x01C => some ([.f64, .f96i], false)
  | 0x01D => some ([.f96c], false)
  | 0x01E => some ([.f96c], false)
  | 0x01F => some ([.f64, .f96i], false)
  | 0x020 => some ([.f64], false)
  | 0x021 => some ([.f64], false)
  | 0x022 => some ([.f96c], false)
  | 0x023 => some ([.f64], false)
  | 0x024 => some ([.f96i], false)
  | 0x025 => some ([.f128i], false)
  | 0x026 => some ([.f96c], false)
  | 0x027 => some ([.f96c], false)
  | 0x040 => some ([.f64, .f96i], false)
  | 0x041 => some ([.f64, .f96i], false)
  | 0x042 => some ([.f64, .f96i], false)
  | 0x043 => some ([.f96c], false)
  | 0x044 => some ([.f64], false)
  | 0x045 => some ([.f64], false)
  | 0x046 => some ([.f64, .f96i], false)
  | 0x047 => some ([.f96c], false)
  | 0x048 => some ([.f64], true)
  | 0x049 => some ([.f64], true)
  | 0x04A => some ([.f64], true)
  | 0x04B => some ([.f64], true)
  | 0x04C => some ([.f64], true)
  | 0x04D => some ([.f64], true)
  | 0x04E => some ([.f64], false)
  | 0x04F => some ([.f64], false)
  | 0x050 => some ([.f64], false)
  | 0x051 => some ([.f96c], false)
  | 0x052 => some ([.f64, .f96i], false)
  | 0x053 => some ([.f64, .f96i], false)
  | 0x054 => some ([.f96c], false)
  | 0x055 => some ([.f64], false)
  | 0x056 => some ([.f64], false)
  | 0x080 => some ([.f64], false)
  | 0x081 => some ([.f96c], false)
  | 0x082 => some ([.f64], false)
  | 0x083 => some ([.f96c], false)
  | 0x084 => some ([.f64], false)
  | 0x085 => some ([.f64], false)
  | 0x086 => some ([.f64], false)
  | 0x087 => some ([.f64], false)
  | 0x088 => some ([.f64], false)
  | 0x089 => some ([.f64], false)
  | 0x08A => some ([.f64], false)
  | 0x08B => some ([.f64], false)
  | 0x08C => some ([.f64], false)
  | 0x08D => some ([.f64], false)
  | 0x08E => some ([.f96c], true)
  | 0x0C0 => some ([.f96i], false)
  | 0x0C1 => some ([.f128i], false)
  | 0x0C2 => some ([.f64], false)
  | 0x0C3 => some ([.f64], false)
  | 0x0C4 => some ([.f96i], false)
  | 0x0C5 => some ([.f64], false)
  | 0x0C6 => some ([.f64], false)
  | 0x0C7 => some ([.f64], false)
  | 0x0C8 => some ([.f64], false)
  | 0x0C9 => some ([.f64], false)
  | 0x0CA => some ([.f64], false)
  | 0x0CB => some ([.f64], false)
  | 0x0CC => some ([.f64], false)
  | 0x0CD => some ([.f64], false)
  | 0x100 => some ([.f64, .f96i], true)
  | 0x101 => some ([.f64, .f96i], false)
  | 0x102 => some ([.f64, .f96i], true)
  | 0x103 => some ([.f64, .f96i], true)
  | 0x104 => some ([.f64], false)
  | 0x105 => some ([.f64], false)
  | 0x106 => some ([.f64, .f96i], true)
  | 0x107 => some ([.f64, .f96i], false)
  | 0x108 => some ([.f64, .f96i], true)
  | 0x109 => some ([.f64, .f96i], false)
  | 0x10A => some ([.f64, .f96i], true)
  | 0x10B => some ([.f96c], true)
  | 0x10C => some ([.f96c], true)
  | 0x10D => some ([.f64, .f96i], false)
  | 0x10E => some ([.f64], false)
  | 0x10F => some ([.f64], false)
  | 0x110 => some ([.f64, .f96i], false)
  | 0x140 => some ([.f96c], true)
  | 0x141 => some ([.f64], true)
  | 0x142 => some ([.f64], true)
  | 0x143 => some ([.f128x], true)
  | 0x144 => some ([.f128x], true)
  | 0x145 => some ([.f96c], true)
  | 0x146 => some ([.f64], true)
  | 0x147 => some ([.f64], true)
  | 0x148 => some ([.f64], true)
  | 0x149 => some ([.f96c], true)
  | 0x14A => some ([.f96c], true)
  | 0x14B => some ([.f96c], true)
  | 0x14C => some ([.f64], true)
  | 0x14D => some ([.f96c], true)
  | 0x14E => some ([.f96c], true)
  | 0x180 => some ([.f96c], true)
  | 0x181 => some ([.f96c], true)
  | 0x182 => some ([.f96c], true)
  | 0x183 => some ([.f64], false)
  | 0x184 => some ([.f64], false)
  | 0x185 => some ([.f64], false)
  | 0x186 => some ([.f128x], true)
  | 0x187 => some ([.f96c], true)
  | 0x188 => some ([.f96c], true)
  | 0x189 => some ([.f128x], true)
  | 0x18A => some ([.f96c], false)
  | 0x18B => some ([.f64], false)
  | 0x18C => some ([.f64], false)
  | 0x18D => some ([.f64], false)
  | 0x18E => some ([.f64], false)
  | 0x18F => some ([.f64], false)
  | 0x190 => some ([.f64], false)
  | 0x191 => some ([.f64], false)
  | 0x192 => some ([.f64], true)
  | 0x1C0 => some ([.f64], false)
  | 0x1C1 => some ([.f64], false)
  | 0x1C2 => some ([.f64, .f96i], false)
  | 0x1C3 => some ([.f64, .f96i], false)
  | 0x1C4 => some ([.f64], false)
  | 0x1C5 => some ([.f64], false)
  | 0x1C6 => some ([.f96c], false)
  | 0x1C7 => some ([.f64], true)
  | 0x1C8 => some ([.f64, .f96c], true)
  | 0x1C9 => some ([.f64], false)
  | 0x1CA => some ([.f64], false)
  | 0x1CB => some ([.f64], false)
  | 0x1CC => some ([.f64, .f96i], false)
  | 0x1CD => some ([.f64], false)
  | 0x1CE => some ([.f64], false)
  | 0x1CF => some ([.f64], false)
  | 0x1D0 => some ([.f64], false)
  | 0x1D1 => some ([.f64], false)
  | 0x1D2 => some ([.f64], false)
  | _ => none

/-- The form of LEN without SP, among the forms of the opcode (R229). -/
def formOf (forms : List Form) (len : Nat) : Option Form :=
  match len with
  | 0 => if forms.contains .f64 then some .f64 else none
  | 1 => if forms.contains .f96c then some .f96c else if forms.contains .f96i then some .f96i else none
  | 2 => if forms.contains .f128i then some .f128i else if forms.contains .f128x then some .f128x else none
  | _ => none

/-- The guard of W0 (R65): with GE = 0 the guard fields are 0. -/
def Raw.guard (r : Raw) : Except Rej (Option Guard) :=
  if r.ge then .ok (some ⟨r.gr, r.gb, r.gn⟩)
  else if r.gn || r.gb != 0 || r.gr != 0 then .error .guard else .ok none

/-- R233 from the opcode on: the form, the checks of W0, the operands, unused bits, the own checks. -/
def Raw.decode (r : Raw) : Except Rej Instr := do
  let code := r.op.toNat
  let some (forms, _) := opForms code | .error .unassigned
  if r.sp && (r.len != 2#2 || !forms.contains .f64) then .error .safePoint
  let some k := (if r.sp then some .f64 else formOf forms r.len.toNat) | .error .noForm
  if r.top then .error .reserved
  let gd ← r.guard
  let h : Hdr := ⟨gd, r.la, if r.sp then some (r.f.w3 ++ r.f.w2) else none, r.ruA, r.ruB, r.ruC⟩
  let f := if r.sp then { r.f with w2 := 0, w3 := 0 } else r.f
  let i ← extract code k h f
  if i.fields != f then .error .unused
  match i.check with
  | some e => .error e
  | none => .ok i

/-- Little-endian word k of a list of bytes (R228); absent bytes count as 0. -/
def wordAt (l : List Byte) (k : Nat) : Word :=
  l.getD (4 * k + 3) 0 ++ l.getD (4 * k + 2) 0 ++ l.getD (4 * k + 1) 0 ++ l.getD (4 * k) 0

/-- The bytes of an instruction whose first word is w0; 0 for LEN = 11. -/
def lenOf (w0 : Word) : Nat := if bits w0 0 2 = 3#2 then 0 else 8 + 4 * (bits w0 0 2).toNat

/-- Decodes the instruction whose bytes start the list and whose address is `off` modulo 32 (R231, R233);
the answer holds its length in bytes. -/
def decode (off : Nat) (l : List Byte) : Except Rej (Instr × Nat) := do
  let w0 := wordAt l 0
  let n := lenOf w0
  if off % 4 != 0 then .error .boundary
  if n = 0 then .error .noLength
  if off % 32 + n > 32 then .error .boundary
  if l.length < n then .error .short
  let l := l.take n
  let i ← (Words.split ⟨w0, wordAt l 1, wordAt l 2, wordAt l 3⟩).decode
  pure (i, n)

/-! Uaten-2 (R239). -/

/-- The opcodes with a 64 form that have no Uaten-2 counterpart (Table 12.16, last row). -/
def noU2 (code : Nat) : Bool :=
  (0x103 ≤ code && code ≤ 0x105) || code == 0x10E || code == 0x0C8 || code == 0x0CA || code == 0x0CB ||
    code == 0x08D || (0x140 ≤ code && code < 0x1C0) || (0x1C8 ≤ code && code ≤ 0x1CA)

/-- The fields of the counterpart of a Uaten-2 word (Table 12.16). Bits [58:56] are checked where the row
gives them no other role; the offsets of BRA, CALL, DBRA and MOVI cover them (log 22). -/
def u2Raw (w : DWord) : Except Rej Raw := do
  let r := Words.split ⟨w.lo, w.hi, 0, 0⟩
  if bits w 0 7 != 0 || bit w 31 then .error .unused
  let code := r.op.toNat
  let s24 : Word := (bits w 40 24).signExtend 32
  let r0 := { r with ruA := false, ruB := false, ruC := false }
  match code with
  | 0x0C0 => pure { r0 with len := 1, f := { w2 := w.hi <<< 3 } }
  | 0x0C4 => pure { r0 with len := 1, f := { d := r.f.d, w2 := s24 <<< 3 } }
  | 0x0C1 => pure { r0 with len := 2, f := { w2 := (bits w 32 16).signExtend 32 <<< 3,
                                             w3 := (bits w 48 16).signExtend 32 <<< 3 } }
  | 0x024 => pure { r0 with len := 1, f := { d := r.f.d, w2 := s24 } }
  | _ =>
    match opForms code with
    | some (forms, _) =>
      if !forms.contains .f64 || noU2 code then .error .noCounterpart
      else if bits w 56 3 != 0 then .error .unused else pure r0
    | none => .error .noCounterpart

/-- The Uaten-3 counterpart of a Uaten-2 word. -/
def decodeU2 (w : DWord) : Except Rej Instr := u2Raw w >>= Raw.decode

/-! The encoder. -/

/-- LEN and SP of a form (Table 12.3). -/
def Form.len : Form → BitVec 2
  | .f64 => 0
  | .f96c | .f96i => 1
  | .f128i | .f128x => 2

/-- The fields of an instruction's words; none for a step of another agent. -/
def Instr.raw (i : Instr) : Option Raw :=
  match i.hdr, i.row with
  | some h, some w =>
    let g := h.guard.getD ⟨0, 0, false⟩
    let r : Raw := { op := BitVec.ofNat 9 w.code, la := h.la, ge := h.guard.isSome, gn := g.neg, gb := g.bit,
                     gr := g.reg, ruA := h.ruA, ruB := h.ruB, ruC := h.ruC, len := w.form.len, f := i.fields }
    match h.mask with
    | none => some r
    | some m => some { r with sp := true, len := 2, f := { i.fields with w2 := DWord.lo m, w3 := DWord.hi m } }
  | _, _ => none

/-- The words of an instruction, as many as its form has. -/
def encode (i : Instr) : List Word :=
  match i.raw with
  | some r =>
    let w := r.join
    match r.len.toNat with
    | 0 => [w.w0, w.w1]
    | 1 => [w.w0, w.w1, w.w2]
    | _ => [w.w0, w.w1, w.w2, w.w3]
  | none => []

/-- The bytes of a word, lowest address first (R3). -/
def Word.bytes (w : Word) : List Byte := [bits w 0 8, bits w 8 8, bits w 16 8, bits w 24 8]
def encodeBytes (i : Instr) : List Byte := (encode i).flatMap Word.bytes

/-- The low n bytes of a number, lowest first. -/
def natBytes : Nat → Nat → List Byte
  | 0, _ => []
  | n + 1, w => BitVec.ofNat 8 w :: natBytes n (w / 256)

/-- The instruction whose bits are w, numbered from the least significant bit of its first word; bits at
and above nbits are 0. -/
def decodeTableWord (nbits w : Nat) : Option Instr :=
  match decode 0 (natBytes 16 (w % 2 ^ nbits)) with
  | .ok (i, _) => some i
  | .error _ => none

end Sys2Proof
end

