-- ==== Sys2Proof/Machine/Kv.lean ====
section
/-! DEFINITION. Group 6: the KV record instructions (spec 08.5, 08.7, 08.8, 16.6). -/

namespace Sys2Proof.Machine

/-! An operation on records: one sequence at the records' homes, wholly or not at all (R145, R162, R337). -/

/-- What an operation comes to: done, or what its warp waits for. -/
abbrev KvEnd := Except Bad (Option Block × State)
/-- An instruction that holds its warp until its changes are applied (R312, R315); their acknowledgement carries
their completion time (R114). -/
def kvOp (i : Instr) (h : Hdr) (f : Cur → State → Nat → KvEnd) (s : State) : Out :=
  recordOp i h (whole := true) (s := s) (fun g s l lanes =>
    match f g s l with
    | .error b => raise s g (b.fx .read lanes) true
    | .ok (none, s) => finish (s.ackOut g) g
    | .ok (some (.engine e n), s) => holdQueue s g (.engine e n) true
    | .ok (some b, s) => hold s g b true)
/-- A u32 field of a record is stored. -/
def State.putField (s : State) (u : Master) (core : Option Nat) (va v : Nat) : Except Bad State := do
  let (_, s) ← s.unitStore u core (va % 2 ^ 64) (nbytes 4 v)
  pure s
/-- An entry that changed is stored. -/
def State.savePte (s : State) (u : Master) (core : Option Nat) (va : Nat) (old new : Pte) : Except Bad State :=
  if new = old then .ok s else (·.2) <$> s.storePte u core va new

/-! Appends (R162, R164, R336). -/

/-- Writes into frames: each protected block is checked, merged and sealed (R102). -/
def State.frameWrite (s : State) (ctx : Nat) : List (Nat × List (Nat × List Byte)) → Except Bad State
  | [] => .ok s
  | (pg, ps) :: l => do
    let pa := 4096 * pg
    if !s.physOk pa 1 false true false then .error { s.denial pa 1 false true with store := true }
    match s.protWrite ctx pa ps with
    | .error b => .error { b with store := true }
    | .ok (_, s) => s.frameWrite ctx l
/-- The pages an append touches, with their entries: each is BF16 in tier 0, or is entered (R162, R148). -/
def State.appendPages (s : State) (u : Master) (k : Ksr) : List Nat → Except Bad (List (Nat × Pte))
  | [] => .ok []
  | pg :: pgs => do
    if k.pageBad pg then .error (bad .kvFormat)
    let p ← s.readPte u (k.pteVa pg)
    if fwBad p.cur || (fwValid p.cur && (fwFormat p.cur ≠ 0 || fwTier p.cur ≠ 0)) ||
        (!fwValid p.cur && 64 * pg < k.tent && 0 < k.tent % 64 && pg = k.tent / 64) then .error (bad .kvFormat)
    let r ← s.appendPages u k pgs
    pure ((pg, p) :: r)
/-- An append to a page needs a run: the page is entered, or its run has other references. -/
def State.needsRun (s : State) (p : Pte) : Bool := !fwValid p.cur || 1 < s.refOf 0 (fwFrame p.cur)
/-- The frame that an append writes, and the page's entry with it. -/
def State.appendFrame (s : State) (ctx dim : Nat) (p : Pte) (run : Option Nat) : Except Bad (State × Pte) :=
  let n := frameUnits 0 dim
  match run with
  | none => .ok (s.dedupForget (fwFrame p.cur) n, p)
  | some f =>
    if !fwValid p.cur then .ok (s, { p with cur := fwMake 0 false false 0 0 f, mass := 0, flags := p.flags &&& 2#16 })
    else do
      let b ← s.readRun ctx 0 (fwFrame p.cur) n
      let (_, s) ← s.writeRun ctx 0 f n b
      pure ((s.count (some ctx) 0x18 1).releaseRun 0 (fwFrame p.cur) n,
        { p with cur := fwMake (fwVersion p.cur) false (fwPinned p.cur) 0 0 f })
/-- Writes the tokens of an append that lie in one page. -/
def State.appendTo (s : State) (u : Master) (core : Nat) (c : CrewKey) (k : Ksr) (off n : Nat) (x : (Nat × Pte) × Option Nat) : Except Bad State := do
  let pg := x.1.1
  let (s, p) ← s.appendFrame u.ctx k.dim x.1.2 x.2
  let a := max k.tent (64 * pg)
  let m := min (k.tent + n) (64 * pg + 64) - a
  let row := 2 * k.dim
  let part (o pa : Nat) : List (Nat × List Byte) := cutPages (m * row / 4096 + 2) pa (s.scratchBytes c (o + (a - k.tent) * row) (m * row))
  let pa := framePa 0 (fwFrame p.cur) + (a - 64 * pg) * row
  let s ← s.frameWrite u.ctx (byPage (part off pa ++ part (off + n * row) (pa + 64 * row)))
  s.savePte u (some core) (k.pteVa pg) x.1.2 p
/-- Sets or clears EVICTED on pages (R162). -/
def State.evict (s : State) (u : Master) (core : Nat) (k : Ksr) (v : Bool) : List Nat → Except Bad State
  | [] => .ok s
  | pg :: pgs => do
    let p ← s.readPte u (k.pteVa pg)
    let s ← s.savePte u (some core) (k.pteVa pg) p (p.flag 3 v)
    s.evict u core k v pgs
/-- Tokens that a member appended (R184). -/
def State.addTokens (s : State) (c : CrewKey) (n : Nat) : State :=
  match s.memberOf c with
  | some (t, m) => s.modTeller t (fun x => x.modMember m (fun y => { y with tokens := (y.tokens + n) % 2 ^ 64 }))
  | none => s
/-- KVAPP: its checks, then its writes, which the engine of its core makes (R162, R102): it waits for the engine's queue and for its
turn there (R139, Table 07.1). -/
def State.kvapp (s : State) (g : Cur) (a off n : Nat) : KvEnd := do
  let u := s.kvMaster g.warp
  let core := s.coreOf g.warp
  let k ← s.readKsr u a
  if n = 0 || 1024 < n then .error (bad .kvFormat)
  if off % 16 ≠ 0 then .error (bad .misaligned)
  if s.scratchSize g.crewK < off + 4 * k.dim * n then .error (bad .scratchRange)
  let t := k.tent + n
  if 64 * k.pages < t then .error (bad .kvFormat)
  let first := k.tent / 64
  let ps ← s.appendPages u k ((List.range ((t - 1) / 64 + 1 - first)).map (first + ·))
  if s.scratchBad g.crewK off (4 * k.dim * n) then .error (bad .uncorrectable)
  if let some b := ps.findSome? (fun p => if fwValid p.2.cur then s.refBad 0 (fwFrame p.2.cur) else none) then .error b
  let need := (ps.filter (fun p => s.needsRun p.2)).map (·.1)
  let e := engineOf core
  let asked := s.poolQ.any (fun a => a.who.ofWarp g.warp)
  if !asked && s.engineFull e 1 then pure (some (.engine e 1), s)
  else if !asked && s.engineBusy e then pure (some (.turn e), s)
  else match ← s.allocAll g.warp g.ctx 0 (frameUnits 0 k.dim) (List.range need.length) with
  | (none, s) => pure (some .frames, s)
  | (some us, s) => do
    let s := s.sawKsr u k (ps.map (·.1))
    let runs := need.zip us
    let s ← ps.foldlM (fun s p => s.appendTo u core g.crewK k off n (p, aget runs p.1)) s
    let s ← s.putField u (some core) (k.addr + 0x18) t
    let s ← if k.window = 0 then pure s
      else s.evict u core k true ((List.range ((t - 1) / 64 + 1 - k.window)).filter (fun pg => !k.isSink pg))
    pure (none, s.addTokens g.crewK n)
/-- KVAPP (R336, R162). -/
def execKvapp (f : Kvapp) : State → Out :=
  kvOp (.kvapp f) f.h (fun g s l =>
    let w := s.warp g.warp
    s.kvapp g (w.pair f.a l).toNat (w.rg f.b.toNat l).toNat (w.rg f.c.toNat l).toNat)

/-! Summaries (R152, R153). -/

/-- The upward-rounded Euclidean distance of R153. -/
def radiusOf (xs cs : List X) : X :=
  let q := f32 (toF32 .ru (sumX false (List.zipWith (fun x c => let d := subX x c; mulX d d) xs cs)))
  f32 (toF32 .ru (sqrtX q))
/-- Centre, radius, and that an element is not finite. -/
def summaryOf (p : Page) : List X × X × Bool :=
  let none (nf : Bool) : List X × X × Bool := (List.replicate p.dim zeroX, .inf false, nf)
  let key (t : Nat) : List X := (List.range p.dim).map (p.dec false t)
  if !(List.range 64).all (fun t => (key t).all X.isFin) then none true
  else
    let cs := (List.range p.dim).map (fun j =>
      bf16X (rneX (((List.range 64).foldl (fun a t => rneX (addX false a (p.dec false t j))) zeroX).scale (-6))))
    let r := (List.range 64).foldl (fun r t => fmaxX r (radiusOf (key t) cs)) zeroX
    if cs.all X.isFin && r.isFin then (cs, r, false) else none false
/-- The record: the centre, the radius, VALID, and 56 reserved bytes, which read 0 (R152, R5). -/
def summaryBytes (x : List X × X × Bool) : List Byte :=
  x.1.flatMap (fun c => nbytes 2 (enc fBf16 (.rm .rne) false c)) ++ nbytes 4 (rne x.2.1).toNat ++ nbytes 4 1 ++ nbytes 56 0
/-- Captures a page, writes its summary record, releases the capture; it waits where readers is full (R150, R337). -/
def State.summarise (s : State) (u : Master) (core : Nat) (k : Ksr) (pg : Nat) : KvEnd := do
  let p ← s.kvPage u k pg
  if !fwValid p.cur || fwTier p.cur = 7 then .error (bad .kvFormat)
  if p.readers = 0xFFFF then pure (some (s.bytesAt u (k.pteVa pg + 0x1C) 2 0xFFFF), s)
  else
    let d ← s.loadPage u k p
    let x := summaryOf d
    let s := (s.sawKsr u k [pg]).touchLines (framePa (fwTier p.cur) (fwFrame p.cur)) (frameBytes (fwFormat p.cur) k.dim)
    let (_, s) ← s.unitStore u (some core) (k.summVa pg) (summaryBytes x)
    let s ← s.savePte u (some core) (k.pteVa pg) p (if x.2.2 then p.flag 0 true else p)
    pure (none, s)
def State.summariseAll (s : State) (u : Master) (core : Nat) (k : Ksr) : List Nat → KvEnd
  | [] => .ok (none, s)
  | pg :: pgs => do
    match ← s.summarise u core k pg with
    | (some b, s) => pure (some b, s)
    | (none, s) => s.summariseAll u core k pgs
/-- KVCLOSE (R337). -/
def execKvclose (f : KvAB) : State → Out :=
  kvOp (.kvclose f) f.h (fun g s l => do
    let w := s.warp g.warp
    let u := s.kvMaster g.warp
    let pg := (w.rg f.b.toNat l).toNat
    let k ← s.readKsr u (w.pair f.a l).toNat
    if !k.isFull pg then .error (bad .kvFormat)
    s.summarise u (s.coreOf g.warp) k pg)

/-! Releases, commits and rollbacks (R162, R163). -/

/-- Releases a page's cur word where it is valid; it waits while the page holds another retained frame (R163). A word that
R148 forbids is not released; of a page that is live in its record, `live`, a word that is not valid is one of those. -/
def State.releasePage (s : State) (u : Master) (core : Option Nat) (live : Bool) (dim va : Nat) : KvEnd := do
  let p0 ← s.readPte u va
  if fwBad p0.cur || (live && !fwValid p0.cur) then .error (bad .kvFormat)
  if !fwValid p0.cur then pure (none, s)
  else
    let (s, p) := s.settleRetained dim p0
    if p.retained then pure (some (s.bytesAt u (va + 0x1C) 4 (p0.readers + 65536 * p0.flags.toNat)), s)
    else
      let (s, p) := s.releaseCur dim p
      let s ← s.savePte u core va p0 p
      pure (none, s)
/-- The same of pages in order; KVROLL alone passes by a word that is not valid (R162). -/
def State.releasePages (s : State) (u : Master) (core : Nat) (k : Ksr) (roll : Bool) : List Nat → KvEnd
  | [] => .ok (none, s)
  | pg :: pgs => do
    match ← s.releasePage u (some core) (!roll && k.isLive pg) k.dim (k.pteVa pg) with
    | (some b, s) => pure (some b, s)
    | (none, s) => s.releasePages u core k roll pgs
/-- A wait leaves the state as it was: a release with its other changes is one sequence (R162). -/
def KvEnd.orWait (s : State) (r : KvEnd) (k : State → KvEnd) : KvEnd := do
  match ← r with
  | (some b, _) => pure (some b, s)
  | (none, s) => k s
/-- first_live_page after a commit of a length (R162); of length 0, which has no last page, it stays (log 77). -/
def Ksr.firstAt (k : Ksr) (length : Nat) : Nat :=
  if k.window = 0 || length = 0 then k.first else max k.first (max k.sinks ((length - 1) / 64 + 1 - k.window))
def State.kvcommit (s0 : State) (g : Cur) (a n : Nat) : KvEnd := do
  let s := s0
  let u := s.kvMaster g.warp
  let core := s.coreOf g.warp
  let k ← s.readKsr u a
  if k.tent < k.length + n then .error (bad .kvFormat)
  let len := k.length + n
  let first := k.firstAt len
  let dead := ((List.range (min first k.pages)).filter (fun pg => k.first ≤ pg && !k.isSink pg))
  let s ← (s.sawKsr u k dead).putField u (some core) (k.addr + 0x14) len
  let s ← if first = k.first then pure s else s.putField u (some core) (k.addr + 0x24) first
  let new := { k with length := len }
  let full := if k.flags / 2 % 2 = 0 then []
    else (List.range (len / 64 - k.length / 64)).map (k.length / 64 + ·) |>.filter (fun pg => !dead.contains pg)
  KvEnd.orWait s0 (s.summariseAll u core new full) fun s => KvEnd.orWait s0 (s.releasePages u core k false dead) fun s => pure (none, s)
/-- KVCOMMIT (R337, R162). -/
def execKvcommit (f : KvAB) : State → Out :=
  kvOp (.kvcommit f) f.h (fun g s l => s.kvcommit g ((s.warp g.warp).pair f.a l).toNat ((s.warp g.warp).rg f.b.toNat l).toNat)
/-- Clears the summary status of pages. -/
def State.unsummarise (s : State) (u : Master) (core : Nat) (k : Ksr) : List Nat → Except Bad State
  | [] => .ok s
  | pg :: pgs => do
    let s ← s.putField u (some core) (k.summVa pg + 2 * k.dim + 4) 0
    s.unsummarise u core k pgs
def State.kvroll (s0 : State) (g : Cur) (a : Nat) : KvEnd := do
  let s := s0
  let u := s.kvMaster g.warp
  let core := s.coreOf g.warp
  let k ← s.readKsr u a
  let lo := ceilDiv k.length 64
  let dead := (List.range (ceilDiv k.tent 64 - lo)).map (lo + ·)
  let s ← (s.sawKsr u k (List.range k.pages)).putField u (some core) (k.addr + 0x18) k.length
  KvEnd.orWait s0 (s.releasePages u core k true dead) fun s => do
    let s ← s.unsummarise u core k dead
    let s ← s.evict u core k false (List.range k.pages)
    pure (none, s)
/-- KVROLL (R337, R162). -/
def execKvroll (f : OnlyA) : State → Out :=
  kvOp (.kvroll f) f.h (fun g s l => s.kvroll g ((s.warp g.warp).pair f.a l).toNat)

/-! Pins and demotion requests (R337, R160). -/

/-- Writes the pinned bit of a page's cur word. -/
def State.setPin (s : State) (g : Cur) (v : Bool) (a pg : Nat) : KvEnd := do
  let u := s.kvMaster g.warp
  let k ← s.readKsr u a
  let p ← s.kvPage u k pg
  if !fwValid p.cur then .error (bad .kvFormat)
  let s ← s.savePte u (some (s.coreOf g.warp)) (k.pteVa pg) p { p with cur := fwPin p.cur v }
  pure (none, s.sawKsr u k [pg])
/-- KVPIN (R337). -/
def execKvpin (f : KvAB) : State → Out :=
  kvOp (.kvpin f) f.h (fun g s l => s.setPin g true ((s.warp g.warp).pair f.a l).toNat ((s.warp g.warp).rg f.b.toNat l).toNat)
/-- KVUNPIN (R337). -/
def execKvunpin (f : KvAB) : State → Out :=
  kvOp (.kvunpin f) f.h (fun g s l => s.setPin g false ((s.warp g.warp).pair f.a l).toNat ((s.warp g.warp).rg f.b.toNat l).toNat)
def State.demreq (s : State) (g : Cur) (a pg : Nat) : KvEnd := do
  let u := s.kvMaster g.warp
  let k ← s.readKsr u a
  if k.pages ≤ pg then .error (bad .kvFormat)
  let p ← s.readPte u (k.pteVa pg)
  let die := s.pageDie u (k.pteVa pg)
  if s.demreqs.any (fun d => d.ctx = g.ctx && d.ksr = a && d.page = pg) then pure (none, s)
  else if s.demandsFull die then pure (some (.demands die), s)
  else
    let s ← s.savePte u (some (s.coreOf g.warp)) (k.pteVa pg) p (p.flag 2 true)
    pure (none, { s.sawKsr u k [pg] with demreqs := s.demreqs ++ [⟨g.ctx, die, a, pg, u.user, g.crewK.launch, g.crewK.crew⟩] })
/-- DEMREQ (R337, R160). -/
def execDemreq (f : KvAB) : State → Out :=
  kvOp (.demreq f) f.h (fun g s l => s.demreq g ((s.warp g.warp).pair f.a l).toNat ((s.warp g.warp).rg f.b.toNat l).toNat)

/-! KVSTEP (R156, R157, R338). -/

/-- A sweep or publication that stops at a record reports it (R144, R214). -/
def State.sweepReport (s : State) (u : Master) (launch crew ksr : Nat) (b : Bad) : State :=
  s.reportFor { id := 0, code := b.code, kind := .e, ctx := u.ctx, die := s.pageDie u ksr, level := b.level, access := .engine, launch := launch, crew := crew, addr := ksr }
/-- The pages of one record in order, until one fails. -/
def overPages (f : State → Nat → Except Bad State) : List Nat → State → State × Option Bad
  | [], s => (s, none)
  | pg :: pgs, s =>
    match f s pg with
    | .error b => (s, some b)
    | .ok s => overPages f pgs s
/-- The records of a list; one that fails its checks, or a page of it, is reported and left (R144, R214). The
answer names the records that did not fail. -/
def overKsrs (u : Master) (c : CrewKey) (f : Ksr → State → Nat → Except Bad State) : List Nat → State → List Nat × State
  | [], s => ([], s)
  | a :: as, s =>
    let (s, r) := match s.readKsr u a with
      | .error b => (s, some b)
      | .ok k => overPages (f k) (List.range k.pages) s
    match r with
    | some b => overKsrs u c f as (s.sweepReport u c.launch c.crew a b)
    | none => let x := overKsrs u c f as s; (a :: x.1, x.2)
/-- The Clipper reads a page's entry: none where cur names no frame (R148). -/
def State.clipPte (s : State) (u : Master) (k : Ksr) (pg : Nat) : Except Bad (Option Pte) := do
  let p ← s.readPte u (k.pteVa pg)
  if !fwValid p.cur then pure none
  else if fwBad p.cur || k.pageBad pg then .error (bad .kvFormat)
  else pure (some p)
/-- Publishes a page's staged word (R157). -/
def State.publishPage (u : Master) (core : Nat) (k : Ksr) (s : State) (pg : Nat) : Except Bad State := do
  match ← s.clipPte u k pg with
  | none => pure s
  | some p =>
    if !fwValid p.next then pure s
    else
      let (s, q) := (s.count (some u.ctx) 0x15 1).publish k.dim p
      s.savePte u (some core) (k.pteVa pg) p q
/-- M of R156, and the mass after the decay. -/
def decayed (s mass : Nat) : Nat := mass - mass / 2 ^ s
/-- Decays a page's mass and records M for the sweep (R156). -/
def State.decayPage (u : Master) (core sh : Nat) (k : Ksr) (s : State) (pg : Nat) : Except Bad State := do
  match ← s.clipPte u k pg with
  | none => pure s
  | some p =>
    let m := decayed sh p.mass
    let s ← s.savePte u (some core) (k.pteVa pg) p { p with mass := m }
    pure (s.modCtx u.ctx (fun c => { c with sweep := c.sweep.map (fun w => { w with ms := w.ms ++ [(k.addr, pg, m)] }) }))
/-- The list of a KVSTEP, with what its read leaves: as it read it when it issued, or as its lane reads it now, 8 bytes at a time
(R338, R195, R122). -/
def State.stepList (s : State) (g : Cur) (a n : Nat) : Except Bad (List Nat × State) :=
  match (s.ctx g.ctx).steps.find? (fun r => r.warp = g.warp) with
  | some r => .ok (r.list, s)
  | none => do
    if a % 8 ≠ 0 then .error (bad .misaligned)
    if 4096 < n then .error (bad .kvFormat)
    let vas := (List.range n).map (fun i => a + 8 * i)
    match firstBad (badsOf (s.ldby8 g.warp) vas) with
    | some b => .error b
    | none =>
      pure (vas.filterMap (fun v => (s.ldby8 g.warp v).toOption),
        vas.foldl (fun s v => s.sawRead ⟨s.coreOf g.warp, g.ctx, !s.privOf g.warp, 0⟩ v 8) s)
/-- A record of a list, or an entry of it, lies at a peer that does not answer, or to which earlier accesses are on their way
(R109, R392). -/
def State.stepPeer (s : State) (u : Master) (l : List Nat) : Option Bad :=
  let far {α : Type} (r : Except Bad α) : Option Bad :=
    match r with | .error b => if b.busy || (b.code = .uncorrectable && s.peerSilent b.addr) then some b else none | .ok _ => none
  l.findSome? (fun a => (far (s.readKsr u a)).or (match s.readKsr u a with
    | .ok k => (List.range k.pages).findSome? (fun pg => far (s.readPte u (k.pteVa pg)))
    | .error _ => none))
/-- A KVSTEP joins those of its context that wait for the Clipper, in the order they arrived (R338). -/
def State.stepQueue (s : State) (g : Cur) (list : List Nat) : State :=
  s.modCtx g.ctx (fun c => if c.steps.any (fun r => r.warp = g.warp) then c else { c with steps := c.steps ++ [⟨g.warp, list⟩] })
/-- Steps 2 to 4 of a KVSTEP: publication of the previous list, the count, and the sweep's start, with a decay at each
listing of a page (R157, R156; log 78). -/
def State.stepGo (s : State) (g : Cur) (list : List Nat) : State :=
  let u := s.kvMaster g.warp
  let core := s.coreOf g.warp
  let (_, s) := overKsrs u g.crewK (State.publishPage u core) (s.ctx g.ctx).sweepList s
  let w : Sweep := { list := list, decay := s.scr.clpDecay, thBf16 := s.scr.clpBf16.toNat, thE4m3 := s.scr.clpE4m3.toNat,
                     thE2m3 := s.scr.clpE2m3.toNat, cold := s.scr.clpCold.toNat, user := u.user,
                     launch := g.crewK.launch, crew := g.crewK.crew }
  let s := s.modCtx g.ctx (fun c => { c with kvstep := c.kvstep + 1, sweepList := list, sweepUser := u.user, stepped := true,
                                             sweep := some w, steps := c.steps.filter (fun r => r.warp ≠ g.warp) })
  let (ok, s) := overKsrs u g.crewK (State.decayPage u core w.decay) list s
  s.modCtx g.ctx (fun c => { c with sweep := c.sweep.map (fun w => { w with list := ok }) })
def State.kvstep (s : State) (g : Cur) (a n : Nat) : KvEnd := do
  let (list, s) ← s.stepList g a n
  if s.stepWaits g.warp then pure (some .clipper, s.stepQueue g list)
  else match s.stepPeer (s.kvMaster g.warp) ((s.ctx g.ctx).sweepList ++ list) with
    | some b => .error b
    | none => pure (none, s.stepGo g list)
/-- KVSTEP (R338, R157). -/
def execKvstep (f : KvAB) : State → Out :=
  kvOp (.kvstep f) f.h (fun g s l => s.kvstep g ((s.warp g.warp).pair f.a l).toNat ((s.warp g.warp).rg f.b.toNat l).toNat)

/-! KVINFO (R339). -/

/-- Four registers of every taking-part lane. -/
def fourWrites (d : Reg) (lanes : List Nat) (vs : List Word) : List (Nat × Nat × Word) :=
  lanes.flatMap (fun l => vs.mapIdx (fun i v => (d.toNat + i, l, v)))
/-- KVINFO (R339). -/
def execKvinfo (f : Kvinfo) (s : State) : Out :=
  recordOp (.kvinfo f) f.h (fun g s l lanes =>
    let w := s.warp g.warp
    let u := s.kvMaster g.warp
    let dest := (List.range 4).map (f.d.toNat + ·)
    let done (s : State) (vs : List Word) : Out :=
      finishPend s g { pendOf s g (.kvinfo f) dest with writes := fourWrites f.d lanes vs }
    if f.tmiss then
      match (s.ctx g.ctx).tierMiss with
      | [] => done s [0, 0, 0, 0]
      | (a, pg) :: r =>
        done (s.modCtx g.ctx (fun c => { c with tierMiss := r })) [BitVec.ofNat 32 a, BitVec.ofNat 32 (a / 2 ^ 32), BitVec.ofNat 32 pg, 1]
    else
      let pg := (w.rg f.b.toNat l).toNat
      let res : Except Bad (Ksr × Pte) := do
        let k ← s.readKsr u (w.pair f.a l).toNat
        let p ← s.kvPage u k pg
        pure (k, p)
      orRaise s g .read lanes res fun (k, p) =>
        done (s.sawKsr u k [pg]) [p.cur.lo, p.cur.hi, BitVec.ofNat 32 p.mass, BitVec.ofNat 32 (p.readers + 65536 * p.flags.toNat)]) s

end Sys2Proof.Machine
end

