-- ==== Sys2Proof/Machine/Events.lean ====
section
/-! DEFINITION. Event tables, ready-task queues, the Teller's posts and releases of holdings (spec 09.2, 09.3, 17.3). -/

namespace Sys2Proof.Machine

/-! Updates and conditions (R172, R174). -/

/-- EVADD and EVSET on a value (R172). -/
def EvVal.update (v : EvVal) (set_ : Bool) (x : Word) : EvVal :=
  let c := if set_ then x else v.count + x
  { v with count := c, zseq := if c = 0 then v.zseq + 1 else v.zseq, lseq := if c.toInt ≤ 0 then v.lseq + 1 else v.lseq }
/-- A wait's condition on a count (R174). -/
def EvVal.holds (v : EvVal) (eq : Bool) : Bool := if eq then v.count = 0 else decide (v.count.toInt ≤ 0)

/-! Ready tasks (R127, R175). -/

def State.taskVa (s : State) (ctx cls i : Nat) : Nat := ((s.ctx ctx).desc.taskArea + 32768 * cls + 8 * (i % 4096)) % 2 ^ 64
def State.taskQ (s : State) (ctx cls : Nat) : TaskQ := (s.ctx ctx).tasks.getD cls ⟨0, 0, []⟩
def State.setTaskQ (s : State) (ctx cls : Nat) (q : TaskQ) : State := s.modCtx ctx (fun c => { c with tasks := lset c.tasks cls q })
/-- A payload enters its class's queue, which has room. -/
def State.taskEnter (s : State) (ctx cls : Nat) (p : DWord) : Except Bad State := do
  let q := s.taskQ ctx cls
  let (_, s) ← s.unitStore ⟨128, ctx, false, 1⟩ none (s.taskVa ctx cls (q.head + q.count)) (nbytes 8 p.toNat)
  pure (s.setTaskQ ctx cls { q with count := q.count + 1 })
/-- An event's task: whether it has one, its class and payload; the event without it (Table 09.2). -/
def EvVal.hasTask (v : EvVal) : Bool := v.task.getLsbD 63
def EvVal.taskClass (v : EvVal) : Nat := v.task.toNat / 2 ^ 59 % 16
def EvVal.payload (v : EvVal) : DWord := v.task &&& 0x07FFFFFFFFFFFFFF#64
def EvVal.untask (v : EvVal) : EvVal := { v with task := v.task &&& 0x7FFFFFFFFFFFFFFF#64 }
/-- A task that the new count makes ready enters its queue, and TASK is cleared; where the queue is full the task stays
attached to its event, which takes its place in the order of the ready tasks (R127, R175). -/
def State.taskReady (s : State) (ctx name : Nat) (v : EvVal) : Except Bad (EvVal × State) :=
  let cls := v.taskClass
  let q := s.taskQ ctx cls
  if !v.hasTask || decide (0 < v.count.toInt) then .ok (v, s)
  else if 4096 ≤ q.count then
    .ok (v, if q.late.contains name then s else s.setTaskQ ctx cls { q with late := q.late ++ [name] })
  else do
    let s ← s.taskEnter ctx cls v.payload
    pure (v.untask, s)
/-- A slot of a class has freed: the event whose task has been ready longest gives it up (R127). -/
def State.taskLate (s : State) (ctx cls : Nat) : Except Bad State :=
  let q := s.taskQ ctx cls
  match q.late with
  | [] => .ok s
  | name :: l => do
    let v ← s.evRead ctx name
    let s ← (s.setTaskQ ctx cls { q with late := l }).taskEnter ctx cls v.payload
    s.evWrite ctx name v.untask
/-- Takes the oldest payload of a class (R350). -/
def State.taskTake (s : State) (ctx cls : Nat) : Except Bad (DWord × State) :=
  let q := s.taskQ ctx cls
  if q.count = 0 then .ok (0x8000000000000000, s)
  else do
    let u : Master := ⟨128, ctx, false, 1⟩
    let v ← s.unitNat u (s.taskVa ctx cls q.head) 8
    let s ← ((s.sawRead u (s.taskVa ctx cls q.head) 8).setTaskQ ctx cls { q with head := (q.head + 1) % 4096, count := q.count - 1 }).taskLate ctx cls
    pure (BitVec.ofNat 64 v, s)

/-! Waiters (R173, R174). -/

/-- A waiting gang is released: it goes on after its EVWAIT. -/
def State.evGo (s : State) (g : GangKey) : State :=
  match ((s.warp g.warp).slice g.slice).wait with
  | .event _ _ len => s.endWait g.warp g.slice len
  | _ => s
/-- An update of an event: new value, tasks, direct waiters released together, watchdog progress of the launches
that wait there (R172 to R175, R201). -/
def State.evUpdate (s : State) (ctx name : Nat) (set_ : Bool) (x : Word) : Except Bad State := do
  let v ← s.evRead ctx name
  let v := v.update set_ x
  let (v, s) ← s.taskReady ctx name v
  let s ← s.evWrite ctx name v
  let ws := ((s.evEntry ctx name).map (·.waiters)).getD []
  let far := (s.evOver.filter (fun o => o.ctx = ctx && o.name = name)).map (·.w)
  let s := (ws ++ far).foldl (fun s w => s.progress w.gang.warp.crew.ctx w.gang.warp.crew.launch) s
  let go := ws.filter (fun w => v.holds w.eq)
  let stay (e : EvEntry) : EvEntry :=
    if e.ctx = ctx && e.name = name then { e with waiters := e.waiters.filter (fun w => !v.holds w.eq) } else e
  let s : State := { s with evEntries := s.evEntries.map stay }
  (go.foldl (fun s w => s.evGo w.gang) s).evFree ctx name
/-- EVENT_UPDATE: an update reaches its event's home (R172). -/
def execEventUpdate (id : Nat) (s : State) : Out :=
  match s.msg? id with
  | some m =>
    match m.k with
    | .event name set_ v =>
      if (match m.warp with | some w => s.evBefore w name id | none => false) then .next s
      else if s.noEvents m.ctx then .next (s.dropMsg id)
      else match ((s.dropMsg id).evSeen m.ctx name).evUpdate m.ctx name set_ v with
        | .ok s => .next (s.answered (.msg id))
        | .error b => match s.later (.msg id) b with
          | some s => .next s
          | none => .next (((s.answered (.msg id)).dropMsg id).unitReport m.ctx (name % 4) .write b)
    | _ => .next s
  | none => .next s
/-- A waiter's gang is held at the fault that its EVWAIT met; where a table refused the event unit, the context has the report, and
the gang waits on (R196; log 89). -/
def State.evFault (s : State) (k : WarpKey) (name i : Nat) (b : Bad) : State :=
  if b.refused then s.unitReport k.crew.ctx (name % 4) .engine b
  else match ((s.warp k).slice i).wait with
  | .event _ _ len =>
    let g : Cur := ⟨k, (s.warp k).gangOf i, len, false⟩
    (s.modWarp k (fun w => w.modSlices g.slices (fun x => { x with wait := .none }))).takeFault g (b.fx .read ((s.warp k).active g.slices))
  | _ => s
/-- The overflow path's test (R174). -/
def Waiter.met (w : Waiter) (v : EvVal) : Bool :=
  v.holds w.eq || (if w.eq then v.zseq.toNat ≠ w.zseq else v.lseq.toNat ≠ w.lseq)
/-- Places a waiter: in the event's entry, in a new entry, or on the overflow path (R173). -/
def State.evPlace (s : State) (ctx name : Nat) (v : EvVal) (w : Waiter) : State :=
  match s.evEntry ctx name with
  | some e =>
    if e.waiters.length < 32 then
      { s with evEntries := s.evEntries.map (fun x => if x.ctx = ctx && x.name = name then { x with waiters := x.waiters ++ [w] } else x) }
    else { (s.count (some ctx) 0x10 1) with evOver := s.evOver ++ [⟨ctx, name, w⟩] }
  | none =>
    if (s.evEntries.filter (fun e => e.name % 4 = name % 4)).length < 1024 then
      { s with evEntries := s.evEntries ++ [⟨ctx, name, v.count, v.zseq, v.lseq, v.task, [w]⟩] }
    else { (s.count (some ctx) 0x10 1) with evOver := s.evOver ++ [⟨ctx, name, w⟩] }
/-- EVENT_WAIT_ARRIVAL: an EVWAIT reaches the event's home (R173, R174, R217). -/
def execEventWaitArrival (id : Nat) (s : State) : Out :=
  match s.msg? id with
  | some m =>
    match m.k, m.warp with
    | .evwait name eq i seq, some k =>
      if s.evBefore k name id then .next s
      else
        let t := s.dropMsg id
        match t.evRead m.ctx name with
        | .error b => match s.later (.msg id) b with
          | some s => .next s
          | none => .next ((t.answered (.msg id)).evFault k name i b)
        | .ok v =>
          let t := (t.answered (.msg id)).evSeen m.ctx name
          let w : Waiter := ⟨id, ⟨k, i⟩, eq, (seq.getD (v.zseq.toNat, v.lseq.toNat)).1, (seq.getD (v.zseq.toNat, v.lseq.toNat)).2⟩
          if w.met v then .next (t.evGo w.gang)
          else if seq.isSome then .next { t with evOver := t.evOver ++ [⟨m.ctx, name, w⟩] }
          else .next (t.evPlace m.ctx name v w)
    | _, _ => .next s
  | none => .next s
/-- EVENT_OVERFLOW_REREAD: a waiter on the overflow path reads its event again (R173, R174). -/
def execEventReread (id : Nat) (s : State) : Out :=
  match s.evOver.find? (fun o => o.w.id = id) with
  | some o =>
    let t := { s with evOver := s.evOver.filter (fun x => x.w.id ≠ id) }
    match s.evRead o.ctx o.name with
    | .error b => match s.later (.over id) b with
      | some s => .next s
      | none => .next ((t.answered (.over id)).evFault o.w.gang.warp o.name o.w.gang.slice b)
    | .ok v =>
      if o.w.met v then .next (((t.answered (.over id)).evSeen o.ctx o.name).evGo o.w.gang)
      else .next ((s.answered (.over id)).evSeen o.ctx o.name)
  | none => .next s

/-! The Teller (R177 to R180, R351). -/

/-- TELLER_POST: a SIBPOST reaches the Teller, and its status its gang's lanes (R177, R351). -/
def execTellerPost (id : Nat) (s : State) : Out :=
  match s.msg? id with
  | some m => .next (s.postLands id m.k)
  | none => .next s

/-! Holdings (R180, R181). -/

/-- A member has drained: its warps have exited or been cancelled, its requests and batches, open ones included, have
ended, and its captures have been released (R181). -/
def State.drained (s : State) (k : CrewKey) : Bool :=
  let mine := s.warps.filter (fun p => p.1.crew = k)
  mine.all (fun p => (p.2.exited || p.2.cancelled) && p.2.caps.isEmpty && p.2.batches.all (fun b => b.done || b.left = 0)) &&
    !s.reqs.any (fun r => match r.warp with | some w => w.crew = k | none => false) && !s.orphans.any (fun x => x.1.crew = k)
/-- HOLDING_RELEASE: the Teller releases a holding of a member that is not the representative (R180). -/
def execHoldingRelease (g i : Nat) (s : State) : Out :=
  match aget s.teller g with
  | none => .next s
  | some t =>
    let m := t.members.getD i { crew := 0 }
    match m.holds with
    | [] => .next s
    | va :: r =>
      if !t.decided || t.outcome == .none || t.winner = some i || !m.over || !s.drained ⟨t.ctx, t.launch, m.crew⟩ then .next s
      else
        let t1 := t.modMember i (fun x => { x with holds := r })
        let keep (s : State) (t : Teller) : State :=
          (({ s.answered (.holding g i) with teller := aset s.teller g t }).tryClose g m.crew).launchOver t.ctx t.launch
        match s.releasePage (unitOf t.ctx t.user va) none false 64 va with
        | .ok (some _, _) => .next s
        | .ok (none, s) => .next (keep s { t1 with pages := t1.pages + 1 })
        | .error b =>
          match s.later (.holding g i) b with
          | some s => .next s
          | none =>
            let r : Report := { id := 0, code := b.code, kind := .e, ctx := t.ctx, die := g % 4, level := b.level, access := .engine, launch := t.launch, crew := m.crew, addr := b.addr }
            .next ((keep s t1).reportFor r)

end Sys2Proof.Machine
end

