-- ==== Sys2Proof/Machine/Launch.lean ====
section
/-! DEFINITION. Launches: the packet and its enqueue, group tables, admission, placement and the return of saved
crews to cores (spec 02.2, 02.3, 07.2 to 07.4, 09.1, R81, R134, R223). -/

namespace Sys2Proof.Machine

/-! The packet (R128). -/

def packetOf (b : List Byte) : Packet :=
  { entry := BitVec.ofNat 64 (le64 b 0), kernarg := BitVec.ofNat 64 (le64 b 8), crewCount := le32 b 0x10, warps := le8 b 0x14,
    vregsDiv8 := le8 b 0x15, carve := le8 b 0x16, tiles := le8 b 0x17, groupTable := BitVec.ofNat 64 (le64 b 0x18),
    groupCount := le16 b 0x20, priority := le8 b 0x22, flags := BitVec.ofNat 8 (le8 b 0x23), waitEvent := le16 b 0x24,
    doneEvent := le16 b 0x26, heartbeatUs := le32 b 0x28, dieMask := BitVec.ofNat 32 (le32 b 0x2C),
    cancelEntry := BitVec.ofNat 64 (le64 b 0x30), localBytes := le32 b 0x38, rsv := BitVec.ofNat 32 (le32 b 0x3C) }
/-- The warps of a crew that go to quarter q, the crew's first quarter being off (R132). -/
def warpsIn (off warps q : Nat) : Nat := ((List.range warps).filter (fun w => (off + w) % 4 = q)).length
/-- The lane-registers that n warps hold. -/
def laneRegs (p : Packet) (n : Nat) : Nat := n * (256 * p.vregsDiv8)
/-- A crew fits an empty core. -/
def Packet.fitsEmpty (p : Packet) : Bool :=
  (List.range 4).all (fun q => warpsIn 0 p.warps q ≤ 16 && laneRegs p (warpsIn 0 p.warps q) ≤ 65536)
/-- Table 07.2: the refusal of a packet, in ascending field offset; `sup` is the right to set SUPERVISOR. -/
def Packet.refusal (p : Packet) (noEvents sup : Bool) : Option Nat :=
  let checks : List (Bool × Nat) := [
    (p.entry.toNat % 4 ≠ 0 || !canonical p.entry.toNat, 1),
    (p.kernarg.toNat % 64 ≠ 0, 1),
    (p.crewCount = 0, 1),
    (p.warps = 0 || 32 < p.warps, 1),
    (p.vregsDiv8 < 2 || 32 < p.vregsDiv8, 1),
    (p.carve = 7, 4), (7 < p.carve, 1),
    (24 < p.tiles, 1),
    (p.groupTable.toNat % 64 ≠ 0, 1),
    (256 < p.groupCount || (p.groupCount ≠ 0 && p.groupTable = 0), 1),
    (7 < p.priority, 1),
    (p.flags.toNat / 32 ≠ 0, 1), (p.flags.getLsbD 3 && !sup, 3),
    (p.waitEvent ≠ 0 && noEvents, 0x0B), (p.doneEvent ≠ 0 && noEvents, 0x0B),
    (p.dieMask.toNat % 16 = 0 || p.dieMask.toNat / 16 ≠ 0, 1),
    (p.cancelEntry.toNat % 4 ≠ 0, 1),
    (p.localBytes % 16 ≠ 0, 5),
    (p.rsv ≠ 0, 1),
    (!p.fitsEmpty, 1)]
  (checks.find? (·.1)).map (·.2)

/-! Queues (R130, R131). -/

/-- A launch is in its queue until its last crew has been placed (R131). -/
def Launch.inQueue (l : Launch) : Bool := l.stage != .admitted || l.placed + l.extra.length < l.packet.crewCount
def State.queueOf (s : State) (c q : Nat) : List ((Nat × Nat) × Launch) :=
  s.launches.filter (fun p => p.1.1 = c && p.2.queue = q && p.2.inQueue)
/-- Enqueues a packet, or refuses it with a code (R128 to R130): 0 and the launch id, or the code. -/
def State.enqueue (s : State) (c : Nat) (p : Packet) (dev sup : Bool) (dst : Nat → StatusTo) : Nat × Nat × State :=
  let q := 2 * p.priority + dev.toNat
  match p.refusal (s.noEvents c) sup with
  | some e => (e, 0xFFFFFFFF, s)
  | none =>
    if 64 ≤ (s.queueOf c q).length then (2, 0xFFFFFFFF, s)
    else
      let id := (s.ctx c).nextLaunch.toNat
      let s := s.modCtx c (fun x => { x with nextLaunch := x.nextLaunch + 1 })
      (0, id, { s with launches := s.launches ++ [((c, id), { packet := p, stamp := s.time, queue := q, status := dst id })] })

/-! The group table (R168, R169, R22). -/

def insertAsc (x : Nat) : List Nat → List Nat
  | [] => [x]
  | y :: l => if x < y then x :: y :: l else if x = y then y :: l else y :: insertAsc x l
def unionAsc (a b : List Nat) : List Nat := a.foldl (fun l x => insertAsc x l) b
/-- A hold list's entries: KVPTE address and member; none where one is malformed (R179). -/
def holdsOf (n : Nat) : Nat → List Byte → Option (List (Nat × Nat))
  | 0, _ => some []
  | k + 1, b =>
    if le64 b 0 % 64 ≠ 0 || n ≤ le16 b 8 || leNat ((b.drop 10).take 6) ≠ 0 then none
    else (holdsOf n k (b.drop 16)).map (fun l => (le64 b 0, le16 b 8) :: l)
/-- One entry of the group table (Table 09.1), and its hold list's address and count. -/
def groupEntry (crews : Nat) (b : List Byte) : Option (Group × Nat × Nat) :=
  let sib := le8 b 0 = 2
  let rc := le8 b 1
  let rs := (List.range 3).map (fun i => (le32 b (8 + 8 * i), le32 b (12 + 8 * i)))
  let used := rs.take rc
  let m := unionAsc (used.flatMap (fun r => (List.range r.2).map (r.1 + ·))) []
  let hc := le32 b 4
  let hl := le64 b 0x20
  let acct := le64 b 0x28
  if !(le8 b 0 = 1 || sib) || rc = 0 || 3 < rc then none
  else if used.any (fun r => crews < r.1 + r.2 || r.2 = 0) || (rs.drop rc).any (fun r => r.1 ≠ 0 || r.2 ≠ 0) then none
  else if (if sib then m.length < le16 b 2 || 256 < m.length else le16 b 2 ≠ 0) then none
  else if (if sib then 4096 < hc else hc ≠ 0) then none
  else if (hc = 0 && hl ≠ 0) || (hc ≠ 0 && hl = 0) || hl % 16 ≠ 0 then none
  else if (!sib && acct ≠ 0) || acct % 64 ≠ 0 || leNat ((b.drop 0x30).take 16) ≠ 0 then none
  else some ({ sibling := sib, members := m, quorum := if le16 b 2 = 0 then m.length / 2 + 1 else le16 b 2,
               acct := BitVec.ofNat 64 acct }, hl, hc)
/-- Admission reads a launch's tables with no crew's rights (R168, R401). -/
def admitMaster (c : Nat) : Master := ⟨128, c, false, 1⟩
/-- Admission's read of a table: what it met, with the fault where it met one. -/
def tableRead (r : Except Bad (List Byte × State)) : Except (Option Bad) (List Byte × State) :=
  match r with | .ok x => .ok x | .error b => .error (some b)
/-- What the bytes of a table say, or no group where they are malformed. -/
def tableSays {α : Type} (r : Option α) : Except (Option Bad) α := match r with | some x => .ok x | none => .error none
/-- The groups of a table; an entry or a hold list that is malformed fails, and so does a read, with its fault (R168, R131). -/
def State.readGroups (s : State) (c crews base : Nat) : Nat → Except (Option Bad) (List Group × State)
  | 0 => .ok ([], s)
  | n + 1 => do
    let (gs, s) ← s.readGroups c crews base n
    let (b, s) ← tableRead (s.takeRead (admitMaster c) ((base + 64 * n) % 2 ^ 64) 64 false)
    let (g, hl, hc) ← tableSays (groupEntry crews b)
    if hc = 0 then pure (gs ++ [g], s)
    else
      let (hb, s) ← tableRead (s.takeRead (admitMaster c) hl (16 * hc) false)
      let hs ← tableSays (holdsOf g.members.length hc hb)
      if (List.range g.members.length).any (fun i => 256 < (hs.filter (fun h => h.2 = i)).length) then .error none
      else pure (gs ++ [{ g with holds := hs }], s)
/-- R22: a crew in more than four groups, or in two SIBLING groups. -/
def groupLimit (gs : List Group) : Bool :=
  let all := gs.flatMap (·.members)
  let sib := (gs.filter (·.sibling)).flatMap (·.members)
  all.any (fun c => 4 < (all.filter (· = c)).length) || sib.any (fun c => 1 < (sib.filter (· = c)).length)
/-- The group in a slot of a crew, by its index in the launch (R22). -/
def State.groupAt (s : State) (k : CrewKey) (slot : Nat) : Option Nat :=
  let gs := (s.launch k.ctx k.launch).groups
  ((List.range gs.length).filter (fun i => ((gs.getD i { sibling := false, members := [] }).members).contains k.crew))[slot]?
def State.group (s : State) (k : CrewKey) (i : Nat) : Group := ((s.launch k.ctx k.launch).groups).getD i { sibling := false, members := [] }

/-! Placement units (R20, R23, R24, R132). -/

def Packet.coresident (p : Packet) : Bool := p.flags.getLsbD 0
def Packet.paired (p : Packet) : Bool := p.flags.getLsbD 2
/-- One round of closing a set of crews under BARRIER groups and pairs. -/
def Launch.grow (l : Launch) (m : List Nat) : List Nat :=
  let m := l.groups.foldl (fun m g => if !g.sibling && g.members.any m.contains then unionAsc g.members m else m) m
  if l.packet.paired then m.foldl (fun r c => let p := c ^^^ 1; if p < l.packet.crewCount then insertAsc p r else r) m else m
/-- The placement unit that a crew belongs to, ascending. -/
def Launch.unit (l : Launch) (c : Nat) : List Nat :=
  if l.packet.coresident then List.range l.packet.crewCount
  else (List.range (2 * l.groups.length + 2)).foldl (fun m _ => l.grow m) [c]

/-! Cores (R26, R132). -/

def State.crewsOn (s : State) (core : Nat) : List (CrewKey × Crew) := s.crews.filter (fun p => p.2.core? = some core)
/-- Warp slots of a core that are occupied; an exited warp's slot is free (Table 07.5). -/
def State.slotsOn (s : State) (core : Nat) : List Nat :=
  (s.warps.filter (fun p => !p.2.exited && (s.crew p.1.crew).core? = some core && (aget s.crews p.1.crew).isSome)).map (fun p => p.2.slot)
def State.seqOn (s : State) (core : Nat) : Nat := if (s.crewsOn core).isEmpty then 0 else (aget s.coreSeq core).getD 0
/-- A core fits one more crew of a packet. -/
def State.fits (s : State) (p : Packet) (core : Nat) : Bool :=
  let cs := s.crewsOn core
  let ps := cs.map (fun x => s.packetOf x.1)
  let off := s.seqOn core
  ps.all (fun x => x.carve = p.carve) && cs.length < carveMax p.carve &&
  ps.foldl (fun n x => n + x.tiles) 0 + p.tiles ≤ 24 &&
  (List.range 4).all (fun q =>
    let n := warpsIn off p.warps q
    ((s.slotsOn core).filter (fun x => x / 16 = q)).length + n ≤ 16 &&
    cs.foldl (fun r x => r + laneRegs (s.packetOf x.1) (warpsIn x.2.qoff (s.packetOf x.1).warps q)) 0 + laneRegs p n ≤ 65536)
/-- The cores of the dies a packet allows. -/
def Packet.cores (p : Packet) : List Nat := (List.range 128).filter (fun c => p.dieMask.getLsbD (c / 32))
/-- The least by a measure, ties to the first. -/
def leastBy (f : Nat → Nat) : List Nat → Option Nat
  | [] => none
  | x :: xs => some (xs.foldl (fun m y => if f y < f m then y else m) x)
/-- Free slots of a core's quarter, ascending. -/
def State.freeSlot (s : State) (core q : Nat) : Nat :=
  let used := s.slotsOn core
  ((List.range 16).find? (fun i => !used.contains (16 * q + i))).elim (16 * q) (fun i => 16 * q + i)
/-- A warp takes a slot: a new one as R18 says, or at cancel_entry where its sibling was cancelled before (R181); one that
returns with its state, its first acquire held where the crew comes from another core (R223). Its age stamp is that of this
placement, and what R135 calls the global crew order is the order in which crews are placed, a running number (R135; log 81). -/
def State.seatWarp (s : State) (k : WarpKey) (core off ord : Nat) (cancelled far : Bool) : State :=
  let p := s.packetOf k.crew
  let slot := s.freeSlot core ((off + k.warp) % 4)
  match aget s.warps k with
  | some w =>
    s.setWarp k { w with slot := if w.exited then w.slot else slot, place := .creel, readyAt := none, age := (s.time, ord, k.warp),
                         flushWait := far, passedIssue := 0, passedSwap := 0,
                         slices := w.slices.map (fun x => { x with stop := none }) }
  | none =>
    let e := if cancelled then p.cancelEntry else p.entry
    s.setWarp k { slot := slot, age := (s.time, ord, k.warp), cancelled := cancelled, slices := List.replicate 8 { pc := e } }
/-- The member of a crew has become CANCELLED. -/
def State.crewCancelled (s : State) (k : CrewKey) : Bool :=
  match s.memberOf k with
  | some (t, m) => (match aget s.teller t with | some x => (x.members.getD m { crew := 0 }).st == .cancelled | none => false)
  | none => false

/-- A word of the registers, the scratchpad or the tiles of a crew: each is written as a new crew is placed (R18). -/
def Spot.ofCrew (k : CrewKey) : Spot → Bool
  | .reg w _ => w.crew = k
  | .scratch c _ | .tile c _ => c = k
  | .l1 _ _ => false

/-! Records of saved crews (R222). Their layout is private to the device; this one is the model's (log 14). -/

/-- Where a record holds the registers of a warp, the scratchpad, and the tiles. -/
def recordRegs (p : Packet) (w : Nat) : Nat := 4096 + w * (1024 * p.vregsDiv8)
def recordScratch (p : Packet) : Nat := recordRegs p p.warps
def recordTiles (p : Packet) : Nat := recordScratch p + carveBytes p.carve
/-- The physical address of a record at an offset of the save window. -/
def State.recordAt (s : State) (k : CrewKey) (off : Nat) : Nat := (s.ctx k.ctx).desc.saveBase + off
/-- n words of a sparse array, as bytes. -/
def wordBytes (m : Sparse 32) (n : Nat) : List Byte := (sgetList m 0 n).flatMap (fun v => nbytes 4 v.toNat)
/-- The bytes of a crew's record after its header. -/
def State.recordBytes (s : State) (k : CrewKey) : List Byte :=
  let p := s.packetOf k
  (s.warpsOf k).flatMap (fun w => wordBytes (s.warp w).regs (256 * p.vregsDiv8)) ++
    sgetList (s.crew k).scratch 0 (carveBytes p.carve) ++ wordBytes (s.crew k).tiles (32768 * p.tiles)
/-- A crew's registers, scratchpad and tiles go to its record. -/
def State.storeRecord (s : State) (k : CrewKey) (off : Nat) : State :=
  let s := s.put (s.recordAt k off + 4096) (s.recordBytes k)
  let s := s.modCrew k (fun c => { c with scratch := [], tiles := [] })
  (s.warpsOf k).foldl (fun s w => s.modWarp w (fun x => { x with regs := [] })) s
/-- n words at an address, as a sparse array. -/
def State.recordWords (s : State) (a n : Nat) : Sparse 32 :=
  ((List.range n).map (fun i => (i, BitVec.ofNat 32 (s.rdNat (a + 4 * i) 4)))).filter (·.2 != 0)
/-- Those of n units of a size at an address that cannot be read: they stand in a line with an uncorrectable error, or the access
table refuses them (R93, R196). -/
def State.badUnits (s : State) (a n size : Nat) : List Nat :=
  (List.range n).filter (fun i => (s.rawBad (a + size * i) size true false).isSome)
/-- What an access to the lines of a crew's record meets (R195, R215). -/
def State.recordBad (s : State) (k : CrewKey) (off : Nat) (rd wr : Bool) : Option Bad :=
  let p := s.packetOf k
  (List.range (ceilDiv (recordTiles p + 131072 * p.tiles) 64)).findSome? (fun i => s.rawBad (s.recordAt k off + 64 * i) 64 rd wr)
/-- A warp's registers come back from the record; a word that cannot be read is in error. -/
def State.loadRegs (s : State) (a : Nat) (w : WarpKey) : State :=
  let p := s.packetOf w.crew
  let n := 256 * p.vregsDiv8
  let s := s.modWarp w (fun x => { x with regs := s.recordWords (a + recordRegs p w.warp) n })
  { s with badSpots := s.badSpots ++ (s.badUnits (a + recordRegs p w.warp) n 4).map (.reg w) }
/-- A crew resumes with the bytes that its record holds (R222); what cannot be read of it is reported to the context, and is in
error in the crew (R93, R196; log 14). -/
def State.loadRecord (s : State) (k : CrewKey) (off : Nat) : State :=
  let p := s.packetOf k
  let s := match s.recordBad k off true false with | some b => s.meet k.ctx b | none => s
  let a := s.recordAt k off
  let scratch : Sparse 8 := ((List.range (carveBytes p.carve)).map (fun i => (i, s.rd (a + recordScratch p + i)))).filter (·.2 != 0)
  let s := s.modCrew k (fun c => { c with scratch := scratch, tiles := s.recordWords (a + recordTiles p) (32768 * p.tiles) })
  let s := { s with badSpots := s.badSpots ++ (s.badUnits (a + recordScratch p) (carveBytes p.carve / 8) 8).map (Spot.scratch k) ++
                      (s.badUnits (a + recordTiles p) (32768 * p.tiles) 4).map (Spot.tile k) }
  (s.warpsOf k).foldl (fun s w => s.loadRegs a w) s
/-- A request that fills the crew's scratchpad, a tile or a spool slot: a save waits for its end, or, where it is held on a
fault, keeps it, to be replayed after the return (R220). -/
def Req.fills (r : Req) : Bool :=
  (match r.sink with | .slot _ _ => true | _ => false) ||
    (match r.op with | .cpa _ _ _ _ => true | .tcopy _ k st _ _ => !st && k != .glb | _ => false)
/-- Replays the requests of a crew that its save has kept. -/
def State.replayKept (s : State) (k : CrewKey) (core : Nat) : State :=
  let kept (r : Req) : Bool := (match r.warp with | some w => w.crew = k | none => false) && r.st == .faulted && r.fills
  { s with reqs := s.reqs.map (fun r => if kept r then
      { r with st := .queued, core := core, engine := (match r.op with | .pgmove _ _ _ => r.engine | _ => engineOf core) } else r) }
/-- Places a crew on a core: all its warps become resident (R20); a saved crew returns with its state (R222, R223), and its
requests that were held on a fault are replayed. Array space that becomes its scratchpad leaves L1 (R26). Copies that the L1 of
another core than its last holds may be older than its own stores (R36, R112; log 87). -/
def State.placeOn (s : State) (core : Nat) (k : CrewKey) : State :=
  let off := s.seqOn core % 4
  let s := { s with coreSeq := aset s.coreSeq core (s.seqOn core + 1), nextId := s.nextId + 1 }
  let dead := s.crewCancelled k
  let back := aget s.crews k
  let far := match back with | some c => c.left != some core | none => false
  let s := match back with
    | some c =>
      let s := match c.seat with | .saved o _ => s.loadRecord k o | _ => s
      s.modCrew k (fun c => { c with seat := .on core, preempt := none, stamp := s.time, qoff := off })
    | none => (s.heal (Spot.ofCrew k)).setCrew k { seat := .on core, priv := (s.packetOf k).flags.getLsbD 3, stamp := s.time, qoff := off }
  let s := if far then s.markL1 core k (fun _ => true) else s
  let s := (s.warpsOf k).foldl (fun s w => s.seatWarp w core off (s.nextId - 1) dead far) s
  (s.replayKept k core).handOver core
/-- Spools that a returning crew has configured are free on a core (R223). -/
def State.spoolsFree (s : State) (core : Nat) (k : CrewKey) : Bool :=
  match aget s.crews k with
  | some c => c.spools.all (fun x => !s.spoolTaken core k x.1)
  | none => true
/-- Places crews of one launch in order: pairs on a core pair, an odd last crew on a leader, the rest on the least loaded
core that fits (R132, R24); none where one finds no core. A crew of a pair that goes alone, its partner having retired, goes
to a leader core like an odd last crew (log 82); a lone crew's leader is chosen by that core's own load (log 83). -/
def State.placeAll (s : State) (c l : Nat) (p : Packet) : Nat → List Nat → Option State
  | 0, _ => some s
  | _, [] => some s
  | n + 1, x :: xs =>
    let k : CrewKey := ⟨c, l, x⟩
    let load (s : State) (core : Nat) : Nat := (s.slotsOn core).length
    let ok (core : Nat) : Bool := s.fits p core && s.spoolsFree core k
    if p.paired then
      let two := xs.head? = some (x + 1) && x % 2 = 0
      let ok2 (core : Nat) : Bool := s.fits p (core + 1) && s.spoolsFree (core + 1) ⟨c, l, x + 1⟩
      match leastBy (fun a => load s a + if two then load s (a + 1) else 0) (p.cores.filter (fun a => a % 2 = 0 && ok a && (!two || ok2 a))) with
      | none => none
      | some a =>
        if two then ((s.placeOn a k).placeOn (a + 1) ⟨c, l, x + 1⟩).placeAll c l p n (xs.drop 1)
        else (s.placeOn a k).placeAll c l p n xs
    else
      match leastBy (load s) (p.cores.filter ok) with
      | none => none
      | some a => (s.placeOn a k).placeAll c l p n xs
/-- The unit could be resident were the device empty (R23). -/
def State.couldReside (s : State) (c l : Nat) (p : Packet) (u : List Nat) : Bool :=
  (State.placeAll { s with crews := [], warps := [], coreSeq := [] } c l p u.length u).isSome

/-! Admission (R131, R176, R81). -/

/-- Bytes of local memory that a launch reserves (R81). -/
def Packet.local (p : Packet) : Nat := p.crewCount * p.warps * 32 * p.localBytes
/-- The lowest 64 KiB-aligned offset of a window of n units at which a run of m units is free, given the runs in use. -/
def lowestGap (used : List (Nat × Nat)) (m : Nat) : Nat → Nat → Option Nat
  | 0, _ => none
  | n + 1, o =>
    if used.all (fun u => o + m ≤ u.1 || u.1 + u.2 ≤ o) then (if m ≤ n + 1 then some o else none) else lowestGap used m n (o + 1)
/-- The offset at which a launch's local memory fits now. -/
def State.localGap (s : State) (c n : Nat) : Option Nat :=
  if n = 0 then some 0
  else
    let used := (s.launches.filter (fun p => p.1.1 = c && p.2.stage == .admitted && p.2.packet.local ≠ 0)).map (fun p =>
      (p.2.localOff / 65536, ceilDiv p.2.packet.local 65536))
    (lowestGap used (ceilDiv n 65536) (s.ctx c).desc.localSize 0).map (· * 65536)
/-- What admission of a launch comes to: a failure with a status, a wait, or the launch with its groups. -/
inductive Admit where
  | fail (code : Nat) (s : State) | wait (s : State) | ok (s : State)
/-- Gives a launch's SIBLING groups free Teller entries, in ascending group index (R176). -/
def State.giveTeller (s : State) (c l : Nat) (user : Bool) : List Group → Nat → Option (List Group × State)
  | [], _ => some ([], s)
  | g :: gs, i =>
    if !g.sibling then (s.giveTeller c l user gs (i + 1)).map (fun r => (g :: r.1, r.2))
    else
      match (List.range 64).find? (fun e => (aget s.teller e).isNone) with
      | none => none
      | some e =>
        let hold (j : Nat) : List Nat := (g.holds.filter (fun h => h.2 = j)).map (·.1)
        let t : Teller := { ctx := c, launch := l, group := i, q := g.quorum, acct := g.acct, user := user,
                            members := g.members.mapIdx (fun j m => { crew := m, holds := hold j }) }
        match ({ s with teller := aset s.teller e t } : State).giveTeller c l user gs (i + 1) with
        | some (r, s) => some ({ g with teller := some e } :: r, s)
        | none => none
/-- The checks of R131 that follow the reading of a launch's tables: the status with which it fails. -/
def State.groupsFail (s : State) (c l : Nat) (gs : List Group) : Option Nat :=
  let x := s.launch c l
  let p := x.packet
  let y := { x with groups := gs }
  if 64 < (gs.filter (·.sibling)).length then some 8
  else if groupLimit gs then some 6
  else if !(if p.coresident then s.couldReside c l p (y.unit 0)
      else (gs.filter (fun g => !g.sibling)).all (fun g => s.couldReside c l p (y.unit (g.members.headD 0)))) then some 7
  else if (s.ctx c).desc.localSize * 65536 < p.local then some 5
  else none
/-- The last steps of R131: a launch that has passed every check takes its Teller entries and its local memory, or waits
for them. -/
def State.reserve (s : State) (c l : Nat) : Admit :=
  let x := s.launch c l
  let p := x.packet
  match s.giveTeller c l (!p.flags.getLsbD 3) x.groups 0 with
  | none => .wait s
  | some (gs, t) =>
    match s.localGap c p.local with
    | none => .wait s
    | some off =>
      let us := if p.heartbeatUs = 0 then s.scr.heartbeatUs else p.heartbeatUs
      .ok (t.setLaunch c l { x with groups := gs, stage := .admitted, localOff := off, timer := 0, limit := 1000 * us })
/-- The steps of R131 for one launch, from where it stands. Its tables are read, once, and checked (R21, R168): a launch whose
tables stand at a peer that does not answer waits for them, until the access fails (R392; log 73). -/
def State.tryAdmit (s : State) (c l : Nat) : Admit :=
  let p := (s.launch c l).packet
  if (s.launch c l).stage == .checked then s.reserve c l
  else match s.readGroups c p.crewCount p.groupTable.toNat p.groupCount with
    | .error b => match b.bind (s.later (.tables c l)) with
      | some t => .wait t
      | none => .fail 8 (s.answered (.tables c l))
    | .ok (gs, t) =>
      let t := t.answered (.tables c l)
      match t.groupsFail c l gs with
      | some code => .fail code t
      | none => (t.modLaunch c l (fun x => { x with groups := gs, stage := .checked })).reserve c l
/-- R131's order of launches. -/
def launchBefore (a b : (Nat × Nat) × Launch) : Bool :=
  let key (x : (Nat × Nat) × Launch) : List Nat := [7 - x.2.packet.priority, x.2.stamp, x.1.1, x.2.queue, x.1.2]
  let rec lt : List Nat → List Nat → Bool
    | p :: ps, q :: qs => p < q || (p = q && lt ps qs)
    | _, _ => false
  lt (key a) (key b)
def insertLaunch (x : (Nat × Nat) × Launch) : List ((Nat × Nat) × Launch) → List ((Nat × Nat) × Launch)
  | [] => [x]
  | y :: l => if launchBefore x y then x :: y :: l else y :: insertLaunch x l
def State.ranked (s : State) : List ((Nat × Nat) × Launch) := s.launches.foldl (fun l x => insertLaunch x l) []
/-- A launch at the head of its queue whose event allows it, or which has been eligible before and waits (R130, R131). Where
reading the event meets a fault the launch is not eligible, and nothing is reported (log 80). -/
def State.launchEligible (s : State) (x : (Nat × Nat) × Launch) : Bool :=
  x.2.stage != .admitted && !s.killing x.1.1 && ((s.queueOf x.1.1 x.2.queue).head?.map (·.1)) = some x.1 &&
    (x.2.stage == .checked || x.2.packet.waitEvent = 0 || (match s.evRead x.1.1 x.2.packet.waitEvent with
      | .ok v => decide (v.count.toInt ≤ 0)
      | .error _ => false))
/-- Admits the first launch that need not wait. -/
def State.admitFirst (s : State) : List ((Nat × Nat) × Launch) → State
  | [] => s
  | x :: xs =>
    match s.tryAdmit x.1.1 x.1.2 with
    | .fail code t => t.endLaunch x.1.1 x.1.2 code
    | .ok t => t
    | .wait t => t.admitFirst xs
/-- LAUNCH_ADMISSION (R131). -/
def execLaunchAdmission (s : State) : Out := .next (s.admitFirst (s.ranked.filter s.launchEligible))

/-! Placement of units, and returns (R132, R134, R223). -/

/-- A launch may have crews placed. -/
def State.placing (s : State) (x : (Nat × Nat) × Launch) : Bool := x.2.stage == .admitted && !x.2.fired && !s.killing x.1.1
/-- The next unit of a launch: that of its lowest crew not placed. -/
def Launch.nextUnit (l : Launch) : Option (List Nat) :=
  if l.packet.crewCount ≤ l.placed then none else some (l.unit l.placed)
/-- Crews below `placed` and those of `extra` have been placed. -/
def Launch.took (l : Launch) (u : List Nat) : Launch :=
  let e := unionAsc u l.extra
  let rec go : Nat → Nat → List Nat → Nat × List Nat
    | 0, n, e => (n, e)
    | k + 1, n, e => if e.contains n then go k (n + 1) (e.filter (· ≠ n)) else (n, e)
  let r := go (e.length + 1) l.placed e
  { l with placed := r.1, extra := r.2 }
/-- A crew retires without having been placed: its sibling was cancelled and no cancel_entry is given (R181). -/
def State.retireUnplaced (s : State) (k : CrewKey) : State :=
  ((s.retireMember k).modLaunch k.ctx k.launch (fun x => { x with retired := x.retired + 1 })).launchOver k.ctx k.launch
/-- Places the next unit of a launch, if it fits now. -/
def State.placeUnit (s : State) (c l : Nat) : Option State := do
  let x := s.launch c l
  let u ← x.nextUnit
  let gone (i : Nat) : Bool := s.crewCancelled ⟨c, l, i⟩ && x.packet.cancelEntry = 0
  let t ← s.placeAll c l x.packet u.length (u.filter (fun i => !gone i))
  pure ((u.filter gone).foldl (fun t i => t.retireUnplaced ⟨c, l, i⟩) (t.modLaunch c l (fun y => y.took u)))
/-- The unit of the first crew on a launch's resume list returns, if it fits now (R134, R223). -/
def State.returnUnit (s : State) (c l : Nat) : Option State := do
  let x := s.launch c l
  let i ← x.resume.head?
  let u := (x.unit i).filter x.resume.contains
  let t ← s.placeAll c l x.packet u.length u
  pure (t.modLaunch c l (fun y => { y with resume := y.resume.filter (fun j => !u.contains j) }))
/-- Resume-list crews go first among launches of equal or lower priority (R134). -/
def State.returnsFirst (s : State) (pr : Nat) : Bool :=
  s.launches.any (fun x => s.placing x && !x.2.resume.isEmpty && pr ≤ x.2.packet.priority && (s.returnUnit x.1.1 x.1.2).isSome)
/-- A launch of higher priority has an unplaced unit that fits now: it goes before any return (R132, R134). -/
def State.higherUnit (s : State) (pr : Nat) : Bool :=
  s.launches.any (fun x => s.placing x && pr < x.2.packet.priority && x.2.resume.isEmpty && (s.placeUnit x.1.1 x.1.2).isSome)
/-- PLACEMENT: the next unit of the first launch whose unit fits now (R132). -/
def execPlacement (s : State) : Out :=
  let try1 (x : (Nat × Nat) × Launch) : Option State :=
    if x.2.resume.isEmpty && !s.returnsFirst x.2.packet.priority then s.placeUnit x.1.1 x.1.2 else none
  .next (((s.ranked.filter s.placing).findSome? try1).getD s)
/-- CREW_RESUMPTION: the first crew of a resume list that fits a core returns with its unit, where no unit of a launch of
higher priority goes first (R134, R223). -/
def execCrewResumption (s : State) : Out :=
  .next (((s.ranked.filter s.placing).findSome? (fun x => if s.higherUnit x.2.packet.priority then none else s.returnUnit x.1.1 x.1.2)).getD s)

end Sys2Proof.Machine
end

