-- ==== Sys2Proof/Machine/Sync.lean ====
section
/-! DEFINITION. Group 7: barriers, events, tasks, the sibling ballot, launches, sleep and counters (spec 17.2 to 17.5). -/

namespace Sys2Proof.Machine

/-! Barriers (R343 to R345). -/

/-- A warp arrives at a barrier, once in a generation (R344). -/
def Barrier.arrive (b : Barrier) (k : WarpKey) : Barrier := if b.arrived.contains k then b else { b with arrived := b.arrived ++ [k] }
/-- CBAR (R343). -/
def execCbar (f : Cbar) (s : State) : Out :=
  gangOp (.cbar f) f.h (fun g s _ _ => cancelPoint s g (
    let n := f.n.toNat
    let s := s.modCrew g.crewK (fun c => { c with bars := lset c.bars n ((c.bars.getD n ⟨0, []⟩).arrive g.warp) })
    .next (s.waitIn g (.cbar n g.len)))) s
/-- The group in a slot, if it is there and of the kind an instruction needs (R170). -/
def State.groupOf (s : State) (k : CrewKey) (slot : Nat) (sibling : Bool) : Option Nat :=
  (s.groupAt k slot).filter (fun i => (s.group k i).sibling = sibling)
/-- GBAR (R343). -/
def execGbar (f : Gbar) (s : State) : Out :=
  gangOp (.gbar f) f.h (fun g s _ lanes => cancelPoint s g (
    match s.groupOf g.crewK f.g.toNat false with
    | none => raise s g { code := .groupSlot, lanes := lanes }
    | some i =>
      let s := s.modLaunch g.ctx g.crewK.launch (fun x => { x with groups := x.groups.mapIdx (fun j y =>
        if j = i then { y with bar := y.bar.arrive g.warp } else y) })
      .next (s.waitIn g (.gbar i g.len)))) s

/-! Events and tasks (R342, R346 to R350). -/

/-- The name of an event operand (R342). -/
def eventName (w : Warp) (l : Nat) : EvName → Nat
  | .imm n => n.toNat
  | .reg r => (w.rg r.toNat l).toNat % 65536
/-- An event instruction in a context with no event area faults (R342, R171). -/
def withEvents (s : State) (g : Cur) (lanes : List Nat) (k : Out) : Out :=
  if s.noEvents g.ctx then raise s g { code := .eventArea, lanes := lanes } else k
/-- EVADD and EVSET: a device-scope release, then the update sets out (R346, R172). -/
def eventOp (i : Instr) (h : Hdr) (nm : EvName) (set_ : Bool) (v : Warp → Nat → Word) : State → Out :=
  gangOp i h (fun g s l lanes => withEvents s g lanes (
    withRelease s g .device (whole := true) (fun s =>
      let w := s.warp g.warp
      let core := s.coreOf g.warp
      finish (s.send g.ctx core core (some g.warp) (.event (eventName w l nm) set_ (v w l))) g)))
/-- EVADD (R346). -/
def execEvadd (f : Ev) : State → Out := eventOp (.evadd f) f.h f.nm false (fun w l => w.rg f.b.toNat l)
/-- EVADD, 96I (R346). -/
def execEvadd96i (f : EvI) : State → Out := eventOp (.evadd96i f) f.h f.nm false (fun _ _ => f.imm)
/-- EVSET (R346). -/
def execEvset (f : Ev) : State → Out := eventOp (.evset f) f.h f.nm true (fun w l => w.rg f.b.toNat l)
/-- EVSET, 96I (R346). -/
def execEvset96i (f : EvI) : State → Out := eventOp (.evset96i f) f.h f.nm true (fun _ _ => f.imm)
/-- EVWAIT: the gang waits at the event's home (R347). -/
def execEvwait (f : Evwait) (s : State) : Out :=
  gangOp (.evwait f) f.h (fun g s l lanes => cancelPoint s g (withEvents s g lanes (
    let w := s.warp g.warp
    let n := eventName w l f.nm
    let core := s.coreOf g.warp
    .next ((s.send g.ctx core core (some g.warp) (.evwait n f.eq g.gang.slice (w.slice g.gang.slice).evSeq)).waitIn g (.event f.eq n g.len))))) s
/-- One word for every taking-part lane. -/
def lanesWord (d : Nat) (lanes : List Nat) (v : Word) : List (Nat × Nat × Word) := lanes.map (fun l => (d, l, v))
/-- EVTEST (R348). -/
def execEvtest (f : Evtest) (s : State) : Out :=
  gangOp (.evtest f) f.h (fun g s l lanes => withEvents s g lanes (
    let n := eventName (s.warp g.warp) l f.nm
    if s.evSent g.warp n then hold s g (.event n)
    else orRaise s g .read lanes (s.evRead g.ctx n) fun v =>
      finish ((s.evSeen g.ctx n).wrLanes g.warp (lanesWord f.d.toNat lanes (if v.holds f.eq then 1 else 0))) g)) s
/-- TASKPUT's effect at the event's home (R349, R175). -/
def State.taskPut (s : State) (ctx n cls : Nat) (p : DWord) : Except Bad State := do
  let v ← s.evRead ctx n
  if v.hasTask then .error (bad .eventArea)
  let (v, s) ← s.taskReady ctx n { v with task := BitVec.ofNat 64 (2 ^ 63 + cls * 2 ^ 59 + p.toNat % 2 ^ 59) }
  s.evWrite ctx n v
/-- TASKPUT (R349). -/
def execTaskput (f : Taskput) (s : State) : Out :=
  gangOp (.taskput f) f.h (fun g s l lanes => withEvents s g lanes (
    withRelease s g .device (whole := true) (fun s =>
      let w := s.warp g.warp
      let n := eventName w l f.nm
      if (s.ctx g.ctx).desc.taskArea = 0 then raise s g { code := .eventArea, lanes := lanes }
      else if s.evSent g.warp n then hold s g (.event n) (whole := true)
      else orRaise s g .read lanes (s.evRead g.ctx n) (whole := true) fun v =>
        if v.hasTask then raise s g { code := .eventArea, lanes := lanes }
        else orRaise s g .read lanes ((s.evSeen g.ctx n).taskPut g.ctx n f.cls.toNat (w.pair f.b l)) (whole := true) fun s => finish s g))) s
/-- Takes one payload for each lane, in ascending order. -/
def State.taskTakes (s : State) (ctx cls d : Nat) : List Nat → Except Bad (List (Nat × Nat × Word) × State)
  | [] => .ok ([], s)
  | l :: ls => do
    let (v, s) ← s.taskTake ctx cls
    let (ws, s) ← s.taskTakes ctx cls d ls
    pure ((d, l, v.lo) :: (d + 1, l, v.hi) :: ws, s)
/-- TASKPOP (R350). -/
def execTaskpop (f : Taskpop) (s : State) : Out :=
  gangOp (.taskpop f) f.h (fun g s _ lanes => withEvents s g lanes (
    if (s.ctx g.ctx).desc.taskArea = 0 then raise s g { code := .eventArea, lanes := lanes }
    else orRaise s g .read lanes (s.taskTakes g.ctx f.cls.toNat f.d.toNat lanes) fun r =>
      finishPend r.2 g { pendOf r.2 g (.taskpop f) [f.d.toNat, f.d.toNat + 1] with writes := r.1 })) s

/-! The sibling ballot (R351 to R353). -/

/-- The Teller entry of the group in a slot, and the caller's member index. -/
def State.ballot (s : State) (k : CrewKey) (slot : Nat) : Option (Nat × Teller × Nat) :=
  match s.groupOf k slot true with
  | none => none
  | some i =>
    match (s.group k i).teller with
    | none => none
    | some t => (aget s.teller t).map (fun x => (t, x, x.members.findIdx (fun m => m.crew = k.crew)))
/-- Holdings that posts on their way to a Teller entry will register (R179). -/
def State.holdsOut (s : State) (t : Nat) : Nat :=
  s.msgs.foldl (fun n x => match x.k with | .post a _ _ hs _ _ _ => if a = t then n + hs.length else n | _ => n) 0
/-- SIBPOST: after its checks the post leaves for the Teller (R351, R177, R179). -/
def postOp (i : Instr) (h : Hdr) (slot : Nat) (d a : Reg) (n : Nat) (off : Warp → Nat → Nat) : State → Out :=
  gangOp i h (fun g s l lanes =>
    let w := s.warp g.warp
    let k := g.crewK
    match s.ballot k slot with
    | none => raise s g { code := .groupSlot, lanes := lanes }
    | some (t, x, m) =>
      let o := off w l
      if n ≠ 0 && o % 8 ≠ 0 then raise s g { code := .misaligned, lanes := lanes }
      else if n ≠ 0 && s.scratchSize k < o + 8 * n then raise s g { code := .scratchRange, lanes := lanes }
      else cancelPoint s g (
        let b := s.scratchBytes k o (8 * n)
        let hs := (List.range n).map (fun j => le64 b (8 * j))
        let me := x.members.getD m { crew := 0 }
        let total := x.members.foldl (fun c y => c + y.holds.length) (s.holdsOut t)
        if n ≠ 0 && me.st == .running && !s.posting t m && s.scratchBad k o (8 * n) then raise s g { code := .uncorrectable, lanes := lanes }
        else if me.st != .running || s.posting t m || hs.any (fun v => v % 64 ≠ 0) || 256 < me.holds.length + n || 4096 < total + n then
          raise s g { code := .sibState, lanes := lanes }
        else
          let p := { pendOf s g i [d.toNat] with left := 1 }
          let core := s.coreOf g.warp
          let s := { s with nextId := s.nextId + 1 }
          let s := s.send g.ctx core core (some g.warp) (.post t m (w.pair a l) hs p.id lanes d.toNat)
          finishPend s g p))
/-- SIBPOST (R351). -/
def execSibpost (f : Sibpost) : State → Out := postOp (.sibpost f) f.h f.g.toNat f.d f.a 0 (fun _ _ => 0)
/-- SIBPOST with a list of holdings (R351). -/
def execSibpost96c (f : SibpostC) : State → Out :=
  postOp (.sibpost96c f) f.h f.g.toNat f.d f.a f.n.toNat (fun w l => (w.rg f.c.toNat l).toNat)
/-- SIBQRY.GROUP's four words (R352). -/
def Teller.groupWords (t : Teller) : List Word :=
  let o := match t.outcome with | .none => 0 | .quorum => 1 | .plurality => 2
  let h := if t.decided then t.hash else 0
  [BitVec.ofNat 32 (t.decided.toNat + 2 * o + 65536 * (t.winner.getD 0xFFFF)), h.lo, h.hi, BitVec.ofNat 32 (t.members.length + 65536 * t.q)]
/-- SIBQRY.MEMBER's four words (R352). -/
def State.memberWords (s : State) (t : Teller) (m : Member) : List Word :=
  let st := match m.st with | .running => 0 | .posted => 1 | .cancelled => 2 | .retired => 3
  let k : CrewKey := ⟨t.ctx, t.launch, m.crew⟩
  let pend := s.warps.any (fun p => p.1.crew = k && p.2.pending)
  let h := m.hash.getD 0
  [BitVec.ofNat 32 (st + 8 * pend.toNat), h.lo, h.hi, BitVec.ofNat 32 m.holds.length]
/-- SIBQRY: it follows the member's own post to the Teller (R352; log 51). -/
def execSibqry (f : Sibqry) (s : State) : Out :=
  gangOp (.sibqry f) f.h (fun g s l lanes =>
    match s.ballot g.crewK f.g.toNat with
    | none => raise s g { code := .groupSlot, lanes := lanes }
    | some (e, t, me) =>
      let i := ((s.warp g.warp).rg f.b.toNat l).toNat
      if s.posting e me then hold s g (.post e me)
      else if f.member && t.members.length ≤ i then raise s g { code := .sibState, lanes := lanes }
      else
        let vs := if f.member then s.memberWords t (t.members.getD i { crew := 0 }) else t.groupWords
        finish (s.wrLanes g.warp (fourWrites f.d lanes vs)) g) s
/-- Cancels a member that has not ended (R182). -/
def State.cancelMember (s : State) (t i : Nat) : State :=
  match aget s.teller t with
  | none => s
  | some x =>
    let m := x.members.getD i { crew := 0 }
    if m.over then s else (s.setPending ⟨x.ctx, x.launch, m.crew⟩).finishVote t
/-- SIBCANCEL: it follows the member's own post to the Teller (R353, R182; log 51). -/
def execSibcancel (f : Sibcancel) (s : State) : Out :=
  gangOp (.sibcancel f) f.h (fun g s _ lanes =>
    match s.ballot g.crewK f.g.toNat with
    | none => raise s g { code := .groupSlot, lanes := lanes }
    | some (t, x, me) =>
      let idx (l : Nat) : Nat := if f.self then me else ((s.warp g.warp).rg f.b.toNat l).toNat
      if s.posting t me then hold s g (.post t me) (whole := true)
      else match lanes.filter (fun l => x.members.length ≤ idx l) with
      | [] => finish (lanes.foldl (fun s l => s.cancelMember t (idx l)) s) g
      | b => raise s g { code := .sibState, lanes := b }) s

/-! Launches, sleep, counters (R354 to R356). -/

/-- LAUNCH: every lane's packet is read, then enqueued in ascending lane order (R354). -/
def execLaunch (f : DAB) (s : State) : Out :=
  gangOp (.launch f) f.h (fun g s _ lanes =>
    let w := s.warp g.warp
    let pk (l : Nat) : Nat := (w.pair f.a l).toNat
    let st (l : Nat) : Nat := (w.pair f.b l).toNat
    match lanes.filter (fun l => pk l % 64 ≠ 0 || st l % 4 ≠ 0) with
    | b :: bs => raise s g { code := .misaligned, lanes := b :: bs }
    | [] =>
      withRelease s g .device (whole := true) (fun s =>
        inOrder s g (whole := true) (
          match gather .read (lanes.map (fun l => (l, s.recordRead g.warp (pk l) 64))) with
          | .error fx => raise s g fx (whole := true)
          | .ok bs =>
            let s := s.sawRecords g.warp (lanes.map pk)
            let one (r : List (Nat × Nat × Word) × State) (x : Nat × List Byte) : List (Nat × Nat × Word) × State :=
              let e := r.2.enqueue g.ctx (packetOf x.2) true (s.privOf g.warp) (fun _ => .store (st x.1))
              (r.1 ++ [(f.d.toNat, x.1, BitVec.ofNat 32 e.1), (f.d.toNat + 1, x.1, BitVec.ofNat 32 e.2.1)], e.2.2)
            let r := bs.foldl one ([], s)
            finish (r.2.wrLanes g.warp r.1) g))) s
/-- SLEEP: the gang waits for its deadline (R355). -/
def sleepOp (i : Instr) (h : Hdr) (t : Warp → Nat → Nat) : State → Out :=
  gangOp i h (fun g s l _ =>
    let n := t (s.warp g.warp) l
    if n = 0 then finish s g else .next (s.waitIn g (.sleep (s.time + n) g.len)))
/-- SLEEP (R355). -/
def execSleep (f : OnlyB) : State → Out := sleepOp (.sleep f) f.h (fun w l => (w.rg f.b.toNat l).toNat)
/-- SLEEP, 96I (R355). -/
def execSleep96i (f : NopI) : State → Out := sleepOp (.sleep96i f) f.h (fun _ _ => f.imm.toNat)
/-- SLEEP_WAKE: device time reaches a gang's deadline (R355). -/
def execSleepWake (k : GangKey) (s : State) : Out :=
  match ((s.warp k.warp).slice k.slice).wait with
  | .sleep d len => .next ((s.elapse (d - s.time)).endWait k.warp k.slice len)
  | _ => .next s
/-- PERF (R356, R202, R203). -/
def execPerf (f : Perf) (s : State) : Out :=
  gangOp (.perf f) f.h (fun g s _ lanes =>
    let v : DWord := BitVec.ofNat 64 (if f.dev then s.scr.prfCnt.getD (f.code.toNat % 8) 0
      else (aget (s.ctx g.ctx).counts f.code.toNat).getD 0)
    finish (s.wrLanes g.warp (lanes.flatMap (fun l => [(f.d.toNat, l, v.lo), (f.d.toNat + 1, l, v.hi)]))) g) s

end Sys2Proof.Machine
end

