-- ==== Sys2Proof/Machine/Preempt.lean ====
section
/-! DEFINITION. Pre-emption, the watchdog, delivery of fault reports, and the end of a kill (spec 11.1, 11.5 to 11.7,
R133, R142). -/

namespace Sys2Proof.Machine

/-! Requests (R220). -/

/-- The crews of a crew's pair or placement set (R220). -/
def State.unitOfCrew (s : State) (k : CrewKey) : List CrewKey :=
  ((s.launch k.ctx k.launch).unit k.crew).map (fun i => { k with crew := i })
/-- A pre-emption is requested for a crew with its pair or placement set. -/
def State.askStop (s : State) (k : CrewKey) (force resume byPrio : Bool) : State :=
  (s.unitOfCrew k).foldl (fun s x => s.askCrew x force resume byPrio) s
/-! The save window (R222). -/

def recordSize (p : Packet) : Nat :=
  ceilDiv (4096 + p.warps * 1024 * p.vregsDiv8 + carveBytes p.carve + p.tiles * 131072) 65536 * 65536
/-- The runs of a context's save window in use, in 64 KiB units. -/
def State.windowUsed (s : State) (c : Nat) : List (Nat × Nat) :=
  s.crews.filterMap (fun p => match p.2.seat with
    | .saved off size => if p.1.ctx = c then some (off / 65536, size / 65536) else none
    | _ => none)
/-- Offsets for the records of some crews, each at the lowest free one; none where one does not fit. -/
def State.saveSpots (s : State) : List (CrewKey × Nat) → List CrewKey → Option (List (CrewKey × Nat))
  | done, [] => some done
  | done, k :: ks =>
    let mine := (done.filter (fun d => d.1.ctx = k.ctx)).map (fun d => (d.2 / 65536, recordSize (s.packetOf d.1) / 65536))
    match lowestGap (s.windowUsed k.ctx ++ mine) (recordSize (s.packetOf k) / 65536) (s.ctx k.ctx).desc.saveSize 0 with
    | some o => s.saveSpots (done ++ [(k, o * 65536)]) ks
    | none => none

/-! The save (R217 to R222). -/

def State.warpStopped (s : State) (k : WarpKey) : Bool :=
  let w := s.warp k
  w.exited || w.held.isSome || w.slices.all (fun x => x.exited || x.stop.isSome)
/-- A request whose end the save waits for (R220). -/
def Req.drains (r : Req) : Bool := r.st != .faulted && r.fills
/-- Every warp of a crew has stopped, its issued instructions have completed, its stores have been acknowledged and its drain
has ended (R220, R223). -/
def State.crewIdle (s : State) (k : CrewKey) : Bool :=
  (s.warpsOf k).all s.warpStopped && !s.pends.any (fun p => p.warp.crew = k) && !(s.warpsOf k).any s.writesOut &&
    !s.reqs.any (fun r => r.drains && (match r.warp with | some w => w.crew = k | none => false))
/-- The live masks at which a warp's gangs stopped, combined; all ones for a held or exited warp (R218, R219). -/
def Warp.stopMask (w : Warp) : DWord :=
  if w.exited || w.held.isSome then BitVec.allOnes 64
  else w.slices.foldl (fun m x => if x.exited then m else m ||| x.stop.getD 0) 0
/-- Some words of a register file that a live mask names; of an array of tiles; a bit that names none of
the crew's finds nothing there (R218, R219, R63, R89). -/
def liveRegs (m : DWord) (l : Sparse 32) : Sparse 32 := l.filter (fun e => m.getLsbD (e.1 / 256))
def liveTiles (m : DWord) (l : Sparse 32) : Sparse 32 := l.filter (fun e => m.getLsbD (32 + e.1 / 32768))
/-- What a warp keeps across a save: the registers of live groups (R219, R63), no latch (R68), no captured time (R70). -/
def Warp.saved (w : Warp) : Warp :=
  { w with regs := liveRegs w.stopMask w.regs, latch := [none, none, none], gtimeCap := none, whzCap := none, place := .creel }
/-- A word of a crew in error, which its save keeps (R219): of a live register group, of a live tile, of the scratchpad. -/
def State.keepsSpot (s : State) (k : CrewKey) (m : DWord) : Spot → Bool
  | .reg w n => w.crew = k && (s.warp w).stopMask.getLsbD (n / 256)
  | .tile c n => c = k && m.getLsbD (32 + n / 32768)
  | .scratch c _ => c = k
  | .l1 _ _ => false
/-- Errors of the words of a crew as it is saved: a word that the save keeps stays in error, and the context hears that the save met
it; a dead one reads 0 after the return, and its error has gone (R93, R219; log 14). -/
def State.saveSpotsOf (s : State) (k : CrewKey) (m : DWord) : State :=
  let t : State := { s with badSpots := s.badSpots.filter (fun x => !x.ofCrew k || s.keepsSpot k m x) }
  if s.badSpots.any (s.keepsSpot k m) then t.meet k.ctx (bad .uncorrectable) else t
/-- The core drops the context's lines; partials go to their slots (R220, R87). -/
def State.flushL1 (s : State) (core ctx : Nat) : State :=
  let s := s.spill (fun k p => k.1 = core && p.ctx = ctx)
  { s with l1 := s.l1.filter (fun l => !(l.core = core && l.ctx = ctx)) }
/-- A crew leaves its core with its state saved in its record (R220, R222). -/
def State.saveCrew (s : State) (k : CrewKey) (off : Nat) : State :=
  let c := s.crew k
  let ws := s.warpsOf k
  let m := ws.foldl (fun m w => m ||| (s.warp w).stopMask) 0
  let core := c.core?.getD 0
  let forced := (c.preempt.map (·.force)).getD false
  let joins := (c.preempt.map (·.resume)).getD false
  let s := ws.foldl (fun s w => (s.strikeWarp w).modWarp w Warp.saved) (s.saveSpotsOf k m)
  let s := s.setCrew k { c with seat := .saved off (recordSize (s.packetOf k)), preempt := none, left := some core, tiles := liveTiles m c.tiles }
  let s := (s.storeRecord k off).flushL1 core k.ctx
  let s := if joins then s.modLaunch k.ctx k.launch (fun l => { l with resume := l.resume.filter (· ≠ k.crew) ++ [k.crew] }) else s
  s.count (some k.ctx) (if forced then 0x1C else 0x1B) 1
/-- A crew without room in the save window, or whose record cannot be written, stops in place (R222, R227; log 14). -/
def State.parkCrew (s : State) (k : CrewKey) : State :=
  let c := s.crew k
  let s := (s.warpsOf k).foldl (fun s w => (s.strikeWarp w).modWarp w (fun x =>
    { x with latch := [none, none, none], gtimeCap := none, whzCap := none, place := .creel })) s
  s.setCrew k { c with seat := .stopped (c.core?.getD 0), preempt := none }
/-- A crew issues again where it stands: its stops end (R361). -/
def State.goInPlace (s : State) (k : CrewKey) : State :=
  let c := s.crew k
  let s := s.setCrew k { c with seat := .on (c.core?.getD 0), preempt := none }
  (s.warpsOf k).foldl (fun s w => s.modWarp w (fun x =>
    { x with slices := x.slices.map (fun y => { y with stop := none }) })) s
/-- Crews that do not leave: where R133 alone has asked for them they issue again, else they stop in place (R222). -/
def State.stayAll (s : State) (u : List CrewKey) : State :=
  if u.all (fun x => ((s.crew x).preempt.map (·.byPrio)).getD false) then u.foldl State.goInPlace s else u.foldl State.parkCrew s
/-- PREEMPTION_SAVE: once every warp of the set has stopped and the drains have ended, the crews leave together. Those whose records
no longer fit do not leave; nor do those whose records cannot be written, of which the context has a report (R220, R222, R196;
log 14). -/
def execPreemptionSave (k : CrewKey) (s : State) : Out :=
  let u := (s.unitOfCrew k).filter (fun x => match aget s.crews x with | some c => c.running | none => false)
  if u.isEmpty || s.killing k.ctx || !u.all (fun x => (s.crew x).preempt.isSome && s.crewIdle x) then .next s
  else match s.saveSpots [] u with
    | some spots => match spots.findSome? (fun p => s.recordBad p.1 p.2 false true) with
      | some b => .next ((s.meet k.ctx b).stayAll u)
      | none => .next (spots.foldl (fun s p => s.saveCrew p.1 p.2) s)
    | none => .next (s.stayAll u)
/-- FORCED_PREEMPTION: the limit has passed since the request, and every warp stops at its next instruction (R221). -/
def execForcedPreemption (k : CrewKey) (s : State) : Out :=
  match (s.crew k).preempt with
  | some p =>
    if p.at_ + p.limit ≤ s.time && (s.crew k).running then .next (s.modCrew k (fun c => { c with preempt := some { p with force := true } }))
    else .next s
  | none => .next s

/-! Pre-emption by priority (R133). -/

/-- The state as it would be with some crews removed. -/
def State.without (s : State) (ks : List CrewKey) : State :=
  { s with crews := s.crews.filter (fun p => !ks.contains p.1), warps := s.warps.filter (fun p => !ks.contains p.1.crew) }
/-- The next unit of a launch fits: that of its resume list, else of its crews not placed. -/
def State.nextFits (s : State) (c l : Nat) : Bool :=
  if (s.launch c l).resume.isEmpty then (s.placeUnit c l).isSome else (s.returnUnit c l).isSome
/-- A launch has a unit still to place. -/
def Launch.waits (l : Launch) : Bool := !l.resume.isEmpty || l.nextUnit.isSome
/-- The order of victims: lowest priority, without NOPREEMPT_HINT, most recently placed; of two crews placed in one tick the one
that the device lists first goes first (log 92). -/
def State.victimLt (s : State) (a b : CrewKey × Crew) : Bool :=
  let key (x : CrewKey × Crew) : Nat × Nat := ((s.packetOf x.1).priority, ((s.packetOf x.1).flags.getLsbD 4).toNat)
  let ka := key a
  let kb := key b
  ka.1 < kb.1 || (ka.1 = kb.1 && (ka.2 < kb.2 || (ka.2 = kb.2 && b.2.stamp < a.2.stamp)))
def insertVictim (s : State) (x : CrewKey × Crew) : List (CrewKey × Crew) → List (CrewKey × Crew)
  | [] => [x]
  | y :: l => if s.victimLt x y then x :: y :: l else y :: insertVictim s x l
/-- Victims on a core, taken with their sets until the unit fits; a crew whose record would not fit is passed by. -/
def State.takeVictims (s : State) (c l : Nat) : List CrewKey → List CrewKey → Option (List CrewKey)
  | acc, [] => if (s.without acc).nextFits c l then some acc else none
  | acc, k :: ks =>
    if (s.without acc).nextFits c l then some acc
    else
      let u := (s.unitOfCrew k).filter (fun x => match aget s.crews x with | some c => c.running | none => false)
      if acc.contains k || (s.saveSpots [] (acc ++ u)).isNone then s.takeVictims c l acc ks
      else s.takeVictims c l (acc ++ u) ks
/-- The victims that one core would give up for a launch of a priority. -/
def State.victimsOn (s : State) (c l pr core : Nat) : Option (List CrewKey) :=
  let on := s.crews.filter (fun p => p.2.seat == .on core && (s.packetOf p.1).priority < pr)
  s.takeVictims c l [] ((on.foldl (fun r x => insertVictim s x r) []).map (·.1))
def State.liveWarps (s : State) (ks : List CrewKey) : Nat :=
  (s.warps.filter (fun p => ks.contains p.1.crew && !p.2.exited)).length
/-- The victims for a launch: of the core that needs the fewest warps, ties to the lowest core. -/
def State.victims (s : State) (c l : Nat) : Option (List CrewKey) :=
  let p := (s.launch c l).packet
  let all := (p.cores.filterMap (fun x => s.victimsOn c l p.priority x)).filter (fun v => !v.isEmpty)
  match all with
  | [] => none
  | v :: vs => some (vs.foldl (fun m x => if s.liveWarps x < s.liveWarps m then x else m) v)
/-- PREEMPTION_BY_PRIORITY: for the first admitted launch whose next unit fits nowhere, not even once the crews leave
whose pre-emption has been requested (R133). -/
def execPreemptByPriority (s : State) : Out :=
  let asked := (s.crews.filter (fun p => p.2.preempt.isSome)).map (·.1)
  let t := s.without asked
  let pick (x : (Nat × Nat) × Launch) : Option (List CrewKey) :=
    if x.2.waits && !t.nextFits x.1.1 x.1.2 then t.victims x.1.1 x.1.2 else none
  match (s.ranked.filter s.placing).findSome? pick with
  | some v => .next (v.foldl (fun s k => s.askCrew k false true true) s)
  | none => .next s

/-! The watchdog (R201, R227). -/

/-- WATCHDOG_FIRE: a launch's timer has reached its limit. -/
def execWatchdogFire (c l : Nat) (s : State) : Out := .next (s.fire c l)

/-! Delivery of reports (R207, R208, R212, R213). -/

/-- The 128 bytes of a report (Table 11.2). A PAGE_FAULT of a Shuttle request, kind H, has no core, slot, slices, lanes or pc
(log 84). -/
def reportBytes (r : Report) (seq : Nat) : List Byte :=
  let core := r.kind == .p || r.kind == .h && r.warp.isSome
  nbytes 1 r.code.num ++ nbytes 1 r.kind.num ++ nbytes 1 r.ctx ++ nbytes 1 r.level ++
    nbytes 1 (if core then r.core else 0xFF) ++ nbytes 1 (if core then r.slot else 0xFF) ++ nbytes 1 r.slices ++ nbytes 1 r.access.num ++
    nbytes 4 r.lanes ++ nbytes 4 r.launch ++ nbytes 4 r.crew ++ nbytes 4 0 ++
    nbytes 8 r.pc ++ nbytes 8 r.addr ++ nbytes 8 r.time ++ nbytes 8 seq ++
    nbytes 8 (leNat (r.masks.map (BitVec.ofNat 8))) ++
    (List.range 8).flatMap (fun i => nbytes 8 (r.spcs.getD i 0))
/-- The order in which reports were raised; ties go to the lower die, then to the lower core (R207, R142). -/
def Report.before (a b : Report) : Bool :=
  a.time < b.time || (a.time = b.time && (a.die < b.die || (a.die = b.die && a.core < b.core)))
def insertReport (r : Report) : List Report → List Report
  | [] => [r]
  | x :: l => if r.before x then r :: x :: l else x :: insertReport r l
/-- The reports of some kind, in that order. -/
def State.reports (s : State) (p : Report → Bool) : List Report := (s.faultQ.filter p).foldl (fun l r => insertReport r l) []
/-- The report of a context that goes first: those of other contexts in a die's queue do not hold it back (R207; log 86). -/
def State.firstReport (s : State) (c : Nat) : Option Report := (s.reports (fun r => r.ctx = c)).head?
/-- The earlier accesses of a faulting warp have ended (R213). -/
def State.reportReady (s : State) (r : Report) : Bool :=
  match r.warp with
  | some k => !s.pends.any (fun p => p.warp = k && p.load) && !s.writesOut k && decide ((s.warp k).whz ≤ s.time) && !s.entriesPending k
  | none => true
/-- A report enters its die's fault queue once its warp is drained and the queue has room (R213, R142). -/
def State.enterReport (s : State) (r : Report) : State :=
  if s.reportReady r && (s.faultQ.filter (fun x => x.die = r.die && x.entered)).length < 4096 then
    { s with faultQ := s.faultQ.map (fun x => if x.id = r.id then { x with entered := true } else x) }
  else s
def State.enterReports (s : State) : State := (s.reports (fun r => !r.entered)).foldl State.enterReport s
/-- Signals on the fault event that are on their way to it. -/
def State.signalsOut (s : State) (c ev : Nat) : Nat :=
  (s.msgs.filter (fun m => m.ctx = c && m.warp.isNone && m.k == .event ev false (BitVec.allOnes 32))).length
/-- Fewer than 256 reports of a context are not acknowledged (R207); while the event's count cannot be read there is no room. -/
def State.reportRoom (s : State) (c : Nat) : Bool :=
  let ev := (s.ctx c).desc.faultEvent
  match s.evRead c ev with
  | .ok v => decide (1 - v.count.toInt + s.signalsOut c ev < 256)
  | .error _ => false
/-- FAULT_REPORT_DELIVERY: the context's first report, once it stands in its die's queue, is written to its ring slot, then
signalled; a write that fails kills the context, one to a peer that does not answer only after 10,000,000 ticks (R392; log 73). -/
def execFaultDelivery (c : Nat) (s : State) : Out :=
  match s.firstReport c with
  | none => .next s
  | some r =>
    if !s.hasCtx c || s.killing c || !r.entered || !s.reportRoom c then .next s
    else
      let x := s.ctx c
      let n := x.nextSeq
      let va := (x.desc.faultRing + 128 * (n % 256)) % 2 ^ 64
      match s.unitStore (unitOf c false va) none va (reportBytes r n) with
      | .error b => match s.later (.ring c) b with
        | some s => .next s
        | none => .next ((s.answered (.ring c)).killFor c b.code)
      | .ok (_, s) =>
        let s := (s.evSeen c x.desc.faultEvent).answered (.ring c)
        let s := { s with faultQ := s.faultQ.filter (fun q => q.id ≠ r.id) }
        let s := s.modCtx c (fun y => { y with nextSeq := n + 1, delivered := y.delivered ++ [(n, r)] })
        .next (s.sendEvent c x.desc.faultEvent false (BitVec.allOnes 32))

/-! The end of a kill (R225, R226, R386). -/

/-- Nothing of a context is on its way to memory, nor waits to be settled. -/
def State.drainedCtx (s : State) (c : Nat) : Bool :=
  !s.msgs.any (fun m => m.ctx = c && (m.k.isWrite || m.k.toPeer)) && !s.orphans.any (fun x => x.1.crew.ctx = c) &&
    !s.reqs.any (fun r => r.ctx = c && !r.isDone)
/-- An access that waits for a peer's answer is one of a context. -/
def Caller.ofCtx (s : State) (c : Nat) : Caller → Bool
  | .lane _ | .demand _ | .msg _ | .store _ => false
  | .holding e _ => (match aget s.teller e with | some t => decide (t.ctx = c) | none => false)
  | .over id => s.evOver.any (fun o => o.w.id = id && o.ctx = c)
  | .ring x | .tables x _ | .sweep x | .entry x _ => x = c
  | .orphan w _ => w.crew.ctx = c
/-- What a killed context leaves is dropped. -/
def State.wipeCtx (s : State) (c : Nat) : State :=
  let mine (k : WarpKey) : Bool := k.crew.ctx = c
  let gone := (s.pends.filter (fun p => mine p.warp)).map (·.id)
  { s with unheard := s.unheard.filter (fun x => !x.1.ofCtx s c), stores := s.stores.filter (fun x => x.ctx ≠ c),
           ghosts := s.ghosts.filter (fun p => p.1.ctx ≠ c),
           launches := s.launches.filter (fun p => p.1.1 ≠ c), crews := s.crews.filter (fun p => p.1.ctx ≠ c),
           warps := s.warps.filter (fun p => !mine p.1), pends := s.pends.filter (fun p => !mine p.warp),
           xq := s.xq.filter (fun r => !gone.contains r.pend), reqs := s.reqs.filter (fun r => r.ctx ≠ c),
           msgs := s.msgs.filter (fun m => m.ctx ≠ c), evEntries := s.evEntries.filter (fun e => e.ctx ≠ c),
           evOver := s.evOver.filter (fun o => o.ctx ≠ c), teller := s.teller.filter (fun p => p.2.ctx ≠ c),
           faultQ := s.faultQ.filter (fun r => r.ctx ≠ c), clearing := s.clearing.filter (fun e => !mine e.warp),
           l1 := s.l1.filter (fun l => l.ctx ≠ c), ctxs := adel s.ctxs c }
/-- KILL_DONE: the drain of a kill has ended. -/
def execKillDone (c : Nat) (s : State) : Out :=
  match (s.ctx c).kill with
  | none => .next s
  | some k =>
    if !s.hasCtx c || !s.drainedCtx c then .next s
    else
      let code := (k.code.map Code.num).getD 0x17
      let ls := (s.launches.filter (fun p => p.1.1 = c)).map (·.1.2)
      let s := ls.foldl (fun s l => s.endLaunch c l 0x0A) s
      let s := { s.wipeCtx c with dead := aset s.dead c code }
      let s := s.modScr (fun r => { r with killDone := true })
      let s := k.lanes.foldl (fun s x => s.complete ⟨x.2, 5, 0, 0, x.1, 0, 0⟩) s
      .next (s.notice code c)

end Sys2Proof.Machine
end

