-- ==== Sys2Proof/Machine/Issue.lean ====
section
/-! DEFINITION. How a gang comes to execute its next instruction: fetch (R231, R237), safe points (R217, R218),
the scoreboard (R62, R125, R137), the passing of device time (R198), and what happens next. -/

namespace Sys2Proof.Machine

/-! Fetch (R231, R232, R237). -/

/-- A fetch that faults: code, level, address, and the length of the instruction: 0 for a fault of the fetch, which has none
(R231, R358). -/
structure FetchBad where (bad : Bad) (len : Nat) deriving DecidableEq, Repr, Inhabited

/-- The place of a block of code, which a core may fetch for a user or not (R231, R193, R196, R72). -/
def State.codeAt (s : State) (core ctx va : Nat) (user : Bool) : Except Bad Tr := do
  let w ← s.walk core ctx va
  if user && region w.pa == .window then .error (bad .privilege)
  let t ← s.xlate core ctx va user .fetch
  if !s.physOk t.pa 0 true false false then .error (bad .accessDenied)
  pure t
/-- The 32 bytes of a block of code in memory (R93, R392). -/
def State.codeBytes (s : State) (t : Tr) : Except Bad (List Byte) :=
  if s.isBad t.pa 1 || s.peerSilent t.pa then .error (badAt .uncorrectable t.pa) else .ok (s.rdN (t.pa / 32 * 32) 32)
/-- The instruction cache's block of an address, of the place that the address is translated to. -/
def State.cached (s : State) (core ctx va : Nat) (t : Tr) : Option IBlock :=
  s.icache.find? (fun b => b.core = core && b.ctx = ctx && b.block = va / 32 && b.pa = t.pa / 32)
/-- The 32-byte block that holds pc, and whether its page is Uaten-2: its bytes come from the instruction cache, or from
memory; every fetch is translated and checked. -/
def State.fetchBlock (s : State) (k : WarpKey) (pc : Nat) : Except Bad (List Byte × Bool) := do
  let t ← s.codeAt (s.coreOf k) k.crew.ctx pc (!s.privOf k)
  match s.cached (s.coreOf k) k.crew.ctx pc t with
  | some b => pure (nbytes 32 b.data.toNat, b.x2)
  | none => do
    let d ← s.codeBytes t
    pure (d, t.x2)
/-- L2 has seen the fetch of a block that the instruction cache does not hold (R90). -/
def State.sawFetch (s : State) (k : WarpKey) (pc : Nat) : State :=
  match s.codeAt (s.coreOf k) k.crew.ctx pc (!s.privOf k) with
  | .ok t => if (s.cached (s.coreOf k) k.crew.ctx pc t).isSome then s else s.touchLines (t.pa / 32 * 32) 32
  | .error _ => s
/-- The instruction at pc, its length, and whether it is a Uaten-2 word. -/
def State.fetch (s : State) (k : WarpKey) (pc : Nat) : Except FetchBad (Instr × Nat × Bool) :=
  if pc % 4 ≠ 0 then .error ⟨bad .fetchBoundary, 0⟩
  else match s.fetchBlock k pc with
    | .error b => .error ⟨b, 0⟩
    | .ok (blk, x2) =>
      let l := blk.drop (pc % 32)
      if x2 then
        if pc % 8 ≠ 0 then .error ⟨bad .fetchBoundary, 0⟩
        else .ok (.uaten2 (BitVec.ofNat 64 (le64 l 0)), 8, true)
      else match decode (pc % 32) l with
        | .ok (i, n) => .ok (i, n, false)
        | .error r => .error (if r == .boundary then ⟨bad .fetchBoundary, 0⟩ else ⟨bad .illegalInstruction, lenOf (wordAt l 0)⟩)

/-! Safe points (R217, R218). -/

/-- The live mask of the instruction at pc, if it is a safe point: W2 and W3 of its F128S form (R218, Table 11.3). -/
def State.safeAt (s : State) (k : WarpKey) (pc : Nat) : Option DWord :=
  match s.fetch k pc with
  | .ok (i, _, _) => match i.hdr with | some h => h.mask | none => none
  | .error _ => none
/-- A safe point is honoured when no bit that is 0 names state the warp or crew holds (R218). -/
def State.honoured (s : State) (k : WarpKey) (m : DWord) : Bool :=
  let w := s.warp k
  let div := w.gangs.length > 1 || w.slices.any (fun x => !x.exited && (!x.stack.isEmpty || x.atRegang))
  let clr := s.clearing.any (fun e => e.warp = k)
  let spl := !(s.crew k.crew).spools.isEmpty
  let cp := w.batches.any (fun b => !b.done)
  (m.getLsbD 59 || !div) && (m.getLsbD 58 || !clr) && (m.getLsbD 57 || !spl) && (m.getLsbD 56 || !cp)
/-- The sequence numbers that an EVWAIT of a gang has recorded: as a waiter, or before an earlier pre-emption, its message
being under way again (R217). -/
def State.evRecorded (s : State) (k : WarpKey) (i : Nat) : Option (Nat × Nat) :=
  match (s.evEntries.flatMap (·.waiters) ++ s.evOver.map (·.w)).find? (fun x => x.gang = ⟨k, i⟩) with
  | some x => some (x.zseq, x.lseq)
  | none => s.msgs.findSome? (fun m => match m.k with
      | .evwait _ _ g seq => if m.warp = some k && g = i then seq else none
      | _ => none)
/-- A gang stops for a pre-emption with a live mask: its barrier arrival is withdrawn, an EVWAIT keeps the sequence numbers
it recorded, a REGANG stop is kept, any other wait counts as not issued (R217). With its last gang the warp has stopped, and its
Clearing entries are struck (R187, R380). -/
def State.stopSlices (s : State) (k : WarpKey) (m : BitVec 8) (mask : DWord) : State :=
  let lead := ((List.range 8).find? (fun i => m.getLsbD i)).getD 0
  let wait := ((s.warp k).slice lead).wait
  let seq := match wait with | .event _ _ _ => s.evRecorded k lead | _ => ((s.warp k).slice lead).evSeq
  let s := match wait with
    | .cbar _ _ | .gbar _ _ => s.withdraw k m
    | .event _ _ _ => s.leaveEvents k m
    | _ => s
  let s := s.modWarp k (fun w => { (w.modSlices m (fun x => { x with
      stop := some mask, wait := (if x.atRegang then x.wait else .none), relDone := false, tried := false, evSeq := seq })) with
    latch := [none, none, none] })
  if s.warpStopped k then s.strikeWarp k else s
/-- Waits in safe-point instructions (R217). -/
def Wait.atSafePoint : Wait → Bool
  | .cbar _ _ | .gbar _ _ | .event _ _ _ | .sleep _ _ | .regang _ _ | .retry (.spool _) _ | .retry (.batches _ _) _ | .retry .entries _ => true
  | _ => false
/-- An instruction that has issued waits in it: one that holds its warp, and one whose request for frames a pool has accepted. It
comes to its end before its gang stops (R140, R221, R314, R341). -/
def Wait.accepted : Wait → Bool
  | .retry .frames _ => true
  | w => w.whole
/-- Waits that a forced pre-emption ends: those of instructions that have not issued, where no access is under way (R221). -/
def Wait.forceable (w : Wait) : Bool :=
  !w.accepted && (match w with | .none | .applied _ | .peer _ _ _ _ _ => false | _ => true)
/-- A waiting gang of a crew whose pre-emption is requested stops where it waits: at an honoured safe point, or by
force (R217, R221). -/
def State.stopGang (s : State) (p : Preempt) (k : WarpKey) (i : Nat) : State :=
  let x := (s.warp k).slice i
  if x.stop.isSome || (s.warp k).held.isSome then s
  else if p.force then (if x.wait.forceable then s.stopSlices k ((s.warp k).gangOf i) (BitVec.allOnes 64) else s)
  else if !x.wait.atSafePoint then s
  else match s.safeAt k x.pc.toNat with
    | some m => if s.honoured k m then s.stopSlices k ((s.warp k).gangOf i) m else s
    | none => s
/-- Every waiting gang of every crew that is being pre-empted. -/
def State.stopWaiting (s : State) : State :=
  s.crews.foldl (fun s p => match p.2.preempt, p.2.seat with
    | some r, .on _ => (s.warpsOf p.1).foldl (fun s k => (s.warp k).gangs.foldl (fun s i => s.stopGang r k i) s) s
    | _, _ => s) s
/-- What a CTXOP.PREEMPT still waits for: a crew that has been saved, or stopped in place, or has left, it waits for no longer
(R361). -/
def State.ctxopLeft (s : State) : Wait → Wait
  | .ctxop .preempt c l len d lanes crews => .ctxop .preempt c l len d lanes (crews.filter (fun k =>
      match aget s.crews k with | some x => x.running | none => false))
  | w => w
/-- A CTXOP that waits has come to its end: each crew is saved or stopped, the launch has ended, or the context has been killed (R361). -/
def State.ctxopOver (s : State) : Wait → Bool
  | .ctxop .preempt _ _ _ _ _ crews => crews.isEmpty
  | .ctxop .abort c l _ _ _ _ => (aget s.launches (c, l)).isNone
  | .ctxop _ c _ _ _ _ _ => !s.hasCtx c
  | _ => false
/-- Stores with a release to the system control window retire once their blocks have applied them (R73). -/
def State.appliedEnds (s : State) : State :=
  (s.warps.map (·.1)).foldl (fun s k => (s.warp k).gangs.foldl (fun s i => match ((s.warp k).slice i).wait with
    | .applied len =>
      if s.msgs.any (fun m => m.warp = some k && (match m.k with | .scr _ _ _ => true | _ => false)) then s else s.endWait k i len
    | _ => s) s) s
/-- CTXOPs that have come to their end write status OK and retire. -/
def State.ctxopEnds (s : State) : State :=
  (s.warps.map (·.1)).foldl (fun s k => (s.warp k).gangs.foldl (fun s i =>
    let x := s.ctxopLeft ((s.warp k).slice i).wait
    match x with
    | .ctxop _ _ _ len d lanes _ =>
      if s.ctxopOver x then (s.wrLanes k (((List.range 32).filter (lanes.getLsbD ·)).map (fun l => (d, l, 0)))).endWait k i len
      else s.modWarp k (fun w => w.modSlices (w.gangOf i) (fun y => { y with wait := x }))
    | _ => s) s) s

/-! The scoreboard (R62, R125, R137). -/

/-- The accumulator tiles an instruction names (R125). -/
def tilesOf : Instr → List Nat
  | .mma f | .mma2 f | .mmab f => f.dt.toNat :: (if f.src == .acc then [f.tt.toNat] else [])
  | .accz f => [f.k.toNat]
  | .accmov f => match f.mode with
    | .tt => [f.d.toNat, f.a.toNat]
    | .tr => [f.b.toNat]
    | .rt => [f.d.toNat]
  | .accscl f => [f.k.toNat, f.j.toNat]
  | .attn f => [f.o.toNat, f.s.toNat] ++ (if f.tileQ then [f.q.toNat] else [])
  | .attnfin f => [f.o.toNat, f.s.toNat]
  | .smmerge f => [f.o1.toNat, f.s1.toNat, f.o2.toNat, f.s2.toNat]
  | .accld f | .accst f => [f.k.toNat]
  | .tcopy f => if f.kind == .tile then [f.tile.toNat] else []
  | .tcred f => if f.kind == .tile then [f.tile.toNat] else []
  | _ => []
/-- Instructions that use the matrix array or the tiles, which an MMA2 of the leader holds off (R322). -/
def usesArray : Instr → Bool
  | .mma _ | .mma2 _ | .mmab _ | .attn _ | .attnfin _ | .smmerge _ | .accz _ | .accmov _ | .accscl _ | .accld _ | .accst _ => true
  | _ => false
def isMma2 : Instr → Bool
  | .mma2 _ => true
  | _ => false
/-- The pending results that the next instruction of a warp depends on. -/
def State.blockers (s : State) (k : WarpKey) (i : Instr) : List Pend :=
  let rs := i.regs
  let ts := tilesOf i
  s.pends.filter (fun p => (p.warp = k && p.regs.any rs.contains) ||
    p.tiles.any (fun t => (t.1 = k.crew && (ts.contains t.2.1 || (p.warp.crew ≠ k.crew && usesArray i))) ||
      (isMma2 i && t.1 = partner k.crew && ts.contains t.2.1)))
/-- Extra issue clocks for bank conflicts among the register operands (R67); an operand of several registers counts for the bank of
its first (log 63). -/
def bankClocks (slot : Nat) (i : Instr) : Nat :=
  let banks := (sourcesOf i).map (fun p => (p.1 ^^^ slot % 16) % 8)
  banks.length - banks.dedup.length

/-- The instruction that a word acts as: of a Uaten-2 word its counterpart (R237, R239). -/
def plainOf (i : Instr) : Instr :=
  match i with
  | .uaten2 w => (match decodeU2 w with | .ok j => j | .error _ => i)
  | _ => i
/-- The instructions whose acquire a resumed crew holds until the old core's flush is acknowledged (R223). -/
def acquires : Instr → Bool
  | .fence f => f.kind != .rel
  | .ld f => f.ord.isSome
  | .spwait _ | .cpwait _ | .evwait _ | .evtest _ | .taskpop _ | .cbar _ | .gbar _ => true
  | _ => false

/-! One issue. -/

/-- What a step comes to: a finished state, an instruction to execute, or no power. -/
inductive Todo where
  | rest (s : State)
  | run (i : Instr) (s : State)
  | noPower
  deriving DecidableEq, Repr

/-- Issue of a warp empties the reuse latches of the other warps of its quarter, whose pipes it takes (R68). -/
def State.soleLatch (s : State) (core q : Nat) (k : WarpKey) : State :=
  ((s.quarterWarps core q).filter (· ≠ k)).foldl (fun s x => s.modWarp x (fun w => { w with latch := [none, none, none] })) s
/-- The gang's instruction i is tried for the first time: it reads its operands (R67), and L2 has seen its fetch (R90). -/
def State.firstTry (s : State) (g : Cur) (i : Instr) : State :=
  let w := s.warp g.warp
  let t := s.sawFetch g.warp (w.slice g.gang.slice).pc.toNat
  let t := match bankClocks w.slot i with | 0 => t | n => t.count (some g.ctx) 0x06 n
  t.modWarp g.warp (fun w => w.modSlices g.slices (fun x => { x with tried := true }))
/-- The gang g, whose instruction i has been fetched, waits for pending results, for an acquire in front of it, or issues:
it reads its operands once, when it is first tried, and bank conflicts count then (R67, R137, R116, R223; log 63). -/
def State.tryIssue (s : State) (g : Cur) (ins i : Instr) : Todo :=
  let k := g.warp
  let w := s.warp k
  let wait := (w.slice g.gang.slice).wait
  let s := if (w.slice g.gang.slice).tried then s else s.firstTry g i
  match s.blockers k i with
  | p :: ps =>
    let stall := (p :: ps).any (fun p => p.look > 0)
    let again := match wait with | .retry (.results _ st) _ => st | _ => false
    let s := if stall && !again then s.count (some k.crew.ctx) 0x05 1 else s
    .rest (s.waitIn g (.retry (.results ((p :: ps).map (·.id)) stall) wait.whole))
  | [] =>
    if w.acq && s.loadsOut k then .rest (s.waitIn g (.retry .loads wait.whole))
    else if w.flushWait && acquires i then .rest (s.waitIn g (.retry .flush wait.whole))
    else
      let s := if w.acq then s.modWarp k (fun w => { w with acq := false }) else s
      .run ins { (s.soleLatch (s.coreOf k) (quarterOf s k) k) with cur := some g }
/-- The gang at slice i of a warp takes its turn: it stops for a pre-emption, faults at fetch, waits for a
pending result, or executes the instruction at its pc. -/
def State.turn (s : State) (k : WarpKey) (i : Nat) : Todo :=
  let w := s.warp k
  let m := w.gangOf i
  let pc := (w.slice i).pc.toNat
  let req := if (w.slice i).wait.accepted then none else (s.crew k.crew).preempt
  if (match req with | some p => p.force | none => false) then .rest (s.stopSlices k m (BitVec.allOnes 64))
  else match s.fetch k pc with
    | .error e =>
      let g : Cur := ⟨k, m, e.len, false⟩
      let acc : Acc := if e.bad.code = .illegalInstruction then .none else .fetch
      match raise { s with cur := some g } g (e.bad.fx acc (w.active m)) with
      | .next t => .rest t
      | _ => .rest s
    | .ok (ins, len, x2) =>
      let core := plainOf ins
      let mask := match ins.hdr with | some h => h.mask | none => none
      if req.isSome && (match mask with | some v => s.honoured k v | none => false) then
        .rest (s.stopSlices k m (mask.getD 0))
      else s.tryIssue ⟨k, m, len, x2⟩ ins core
/-- An issue slot of a quarter (R136). -/
def State.slot (s : State) (core q : Nat) : Todo :=
  match s.issuePick core q with
  | some k =>
    match s.gangPick k with
    | some i => (s.passOver core q k).turn k i
    | none => .rest s
  | none => .rest s

/-! The caches' own changes, and what comes from outside (R87, R194, R232). -/

/-- Replacement drops a line, which no partial pins: of a pinned line no copy is read (R87, R122). -/
def State.dropL1 (s : State) (core line : Nat) : State :=
  { s with l1 := s.l1.filter (fun x => !(x.core = core && x.line = line)) }
/-- L2 writes a line back to its tier, and drops it or keeps it (R90). -/
def State.l2Back (s : State) (line : Nat) (drop : Bool) : State :=
  { s with l2 := if drop then adel s.l2 line else s.l2.map (fun p => if p.1 = line then (line, false) else p) }
/-- A home stops tracking a line; its slice keeps the greatest expiry, and a version above which every line it tracks anew starts
(R85, R185). -/
def State.untrack (s : State) (line : Nat) : State :=
  match aget s.lines line with
  | some r =>
    let h := home (line * 64)
    { s with lines := adel s.lines line, verCtr := max s.verCtr r.version, sliceExp := aset s.sliceExp h (max r.expiry ((aget s.sliceExp h).getD 0)) }
  | none => s
/-- The physical address of the entry of a level on the way to an address. -/
def State.entryAddr (s : State) (holder ctx va : Nat) : Nat → Nat → Nat → Option Nat
  | 0, l, table => some (table + 8 * lvlIndex l va)
  | n + 1, l, table =>
    match s.xlEntry holder ctx l va table with
    | .ok e =>
      if e.getLsbD 0 && !(l > 0 && e.getLsbD 1) then s.entryAddr holder ctx va n (l + 1) ((e.extractLsb' 12 41).toNat * 4096) else none
    | .error _ => none
/-- Entries of a TLB: 64 of a core's, 8,192 of a die's (R194). -/
def tlbSize (holder : Nat) : Nat := if holder < 128 then 64 else 8192
/-- Takes a new entry; a TLB that is full drops the entry it has held longest (log 65). -/
def tlbAdd (l : List TlbEntry) (e : TlbEntry) : List TlbEntry :=
  match l.find? (fun x => x.holder = e.holder) with
  | some old => (if tlbSize e.holder ≤ (l.filter (fun x => x.holder = e.holder)).length then l.erase old else l) ++ [e]
  | none => l ++ [e]
/-- A TLB loads the entry of a level, if it is valid (R194). -/
def State.tlbFill (s : State) (holder ctx level va : Nat) : State :=
  match s.entryAddr holder ctx va level 0 (s.ctx ctx).desc.root with
  | some a =>
    match s.tableEntry holder a with
    | .ok e => if e.getLsbD 0 then { (s.touchLines a 8) with tlb := tlbAdd s.tlb ⟨holder, ctx, level, lvlTag level va, e⟩ } else s
    | .error _ => s
  | none => s
/-- A fill under a translation of which the tables say, without the TLBs, another X2 attribute or nothing. -/
def State.fillsLate (s : State) (core ctx va : Nat) (t : Tr) : Bool :=
  match ({ s with tlb := [] }).walk core ctx va with | .ok u => u.x2 != t.x2 | .error _ => true
/-- The instruction cache of a core loads a block that may be fetched (R231), under the X2 attribute of its translation (R238). -/
def State.icacheFill (s : State) (core ctx va : Nat) : State :=
  let r : Except Bad IBlock := do
    let t ← s.codeAt core ctx va false
    let d ← s.codeBytes t
    pure ⟨core, ctx, va / 32, t.pa / 32, BitVec.ofNat 256 (leNat d), t.x2, s.fillsLate core ctx va t⟩
  match r with
  | .ok x => { (s.touchLines (32 * x.pa) 32) with icache := s.icache.filter (fun b => !(b.core = core && b.ctx = ctx && b.block = va / 32)) ++ [x] }
  | .error _ => s
/-- A store of the host or of a peer into its own memory. -/
def State.outsideWrite (s : State) (pa : Nat) (d : List Byte) : State :=
  match region pa with
  | .host | .peer _ => s.wrN pa d
  | _ => s

/-! What happens next. -/

/-- The row of a write to a system control register (Table 04.5): those with a behaviour of their own, and the
rest. -/
def scrRow (off : Nat) : Instr :=
  if off = 0x00004 then .mbxStatus
  else if off = 0x70000 then .wdgCtl
  else if off = 0x70008 then .wdgFired
  else if off = 0x50300 then .shuPoolCtl
  else if off = 0x50308 then .shuPoolAdd
  else if off = 0x50310 then .shuPoolStatus
  else if off = 0xA0040 then .prfClr
  else if 0x81000 ≤ off && off < 0x81000 + 38 * 0x400 then .secAcctab
  else .scrWrite
/-- The row of a mailbox command (Table 21.2). -/
def cmdRow (c : Cmd) : Instr :=
  match c.op with
  | 1 => .mbxLaunch
  | 2 => .mbxWrite
  | 3 => .mbxRead
  | 4 => if c.arg.getLsbD 16 then .mbxEvsigSet else .mbxEvsigAdd
  | 5 => .mbxKill
  | 6 => if c.arg.toNat % 2 = 0 then .mbxQueryRegister else .mbxQueryContext
  | _ => match c.arg.toNat % 4 with
    | 0 => .sessionOpen
    | 1 => .sessionClose
    | _ => .sessionMeasure

/-- An event about an object. -/
def about (e : Instr) (n : Nat) : Next := .event 1 e n []
/-- The event that a message waits for. -/
def Msg.event (m : Msg) : Next :=
  match m.k with
  | .fill _ _ _ => about (.homeFill m.id) 0
  | .write _ _ _ => about (.homeWrite m.id) 0
  | .atom _ _ _ _ _ _ | .cas _ _ _ _ _ _ => about (.homeAtomic m.id) 0
  | .ldby _ _ _ => about (.homeLdby m.id) 0
  | .range _ _ _ => about (.homeRangeLoad m.id) 0
  | .ack _ => about (.writeAck m.id) 0
  | .settle _ _ => about (.peerSettle m.id) 0
  | .valid _ _ _ _ => about (.ldeValidation m.id) 0
  | .answer _ _ _ _ => about (.validationAnswer m.id) 0
  | .unheard _ _ => about (.peerTimeout m.id) 0
  | .event _ _ _ => about (.eventUpdate m.id) 0
  | .evwait _ _ _ _ => about (.eventWaitArrival m.id) 0
  | .post _ _ _ _ _ _ _ => about (.tellerPost m.id) 0
  | .scr off _ _ => about (scrRow off) m.id
def Req.event (r : Req) : Next :=
  match r.st, r.op with
  | .done _ _, _ => about (.spoolDelivery r.id) 0
  | _, .cpa _ _ _ _ => about (.shuttleCpa r.id) 0
  | _, .tcopy _ _ _ _ _ => about (.shuttleTcopy r.id) 0
  | _, .tcred _ _ _ _ _ _ => about (.shuttleTcred r.id) 0
  | _, .dcopyPage _ _ _ | _, .dcopyKv _ _ _ _ _ => about (.shuttleDcopy r.id) 0
  | _, .pgmove _ _ _ => about (.shuttlePageMove r.id) 0
def Cmd.event (c : Cmd) (lane : Nat) : Next := about (cmdRow c) lane
/-- Steps of other agents that may be enabled now. -/
def State.mayHappen (s : State) : List Next :=
  let ev (e : Instr) : Next := about e 0
  let quarters : List (Nat × Nat) := ((s.warps.map (·.1)).filter s.seated).map (fun k => (s.coreOf k, quarterOf s k))
  let qs := quarters.dedup
  s.msgs.map Msg.event ++
  (s.pends.filter (·.left = 0)).map (fun p => ev (.longLatencyResult p.id)) ++
  s.xq.map (fun r => ev (.xformReply ⟨r.core, r.quarter⟩)) ++
  s.reqs.map Req.event ++
  (s.poolQ.filter (·.got.isNone)).map (fun a => ev (.poolAllocation a.tier)) ++
  s.warps.flatMap (fun p =>
    p.2.gangs.flatMap (fun i => match (p.2.slice i).wait with
      | .release _ _ => [ev (.fenceCompletion ⟨p.1, i⟩)]
      | .sleep d _ => if d ≤ s.time + 1 then [ev (.sleepWake ⟨p.1, i⟩)] else []
      | _ => []) ++
    (p.2.batches.filter (fun b => b.closed && b.left = 0 && !b.done)).map (fun b => ev (.copyBatchComplete p.1 b.n.toNat))) ++
  (if s.launches.any (fun p => p.2.stage != .admitted) then [ev .launchAdmission] else []) ++
  (if s.launches.any (fun p => p.2.stage == .admitted && p.2.waits) then [ev .placement, ev .preemptByPriority] else []) ++
  s.crews.flatMap (fun p => match p.2.preempt with
    | some _ => [ev (.preemptionSave p.1), ev (.forcedPreemption p.1)]
    | none => []) ++
  (if s.launches.any (fun p => !p.2.resume.isEmpty) then [ev .crewResumption] else []) ++
  (s.launches.filter (fun p => p.2.due.isSome && !p.2.fired)).map (fun p => ev (.watchdogFire p.1.1 p.1.2)) ++
  (s.warps.filter (fun p => p.2.flushWait)).map (fun p => .flushed p.1.crew) ++
  (s.faultQ.filter (·.entered)).map (fun r => ev (.faultDelivery r.ctx)) ++
  s.ctxs.flatMap (fun p =>
    (if p.2.kill.isSome then [ev (.killDone p.1)] else []) ++
    (match p.2.sweep with
     | some w => if w.list.isEmpty then [ev (.sweepEnd p.1)] else [ev (.stage p.1), ev (.stageCold p.1)]
     | none => [])) ++
  s.demreqs.map (fun d => ev (.demreqServe d.die)) ++
  s.evOver.map (fun o => ev (.eventReread o.w.id)) ++
  s.teller.flatMap (fun p => (List.range p.2.members.length).map (fun i => ev (.holdingRelease p.1 i))) ++
  (List.range 8).flatMap (fun k => match s.lanes.getD k [] with | c :: _ => [c.event k] | [] => []) ++
  (if s.compQ.isEmpty then [] else [ev .completionRingPoll]) ++
  (qs.filter (fun q => (s.loom q.1 q.2).length < 8 && !(s.creelReady q.1 q.2).isEmpty)).map (fun q => ev (.swapIn ⟨q.1, q.2⟩)) ++
  (qs.filter (fun q => 8 ≤ (s.loom q.1 q.2).length && (s.creelReady q.1 q.2).any s.longReady)).map (fun q => ev (.rotation ⟨q.1, q.2⟩)) ++
  (qs.filter (fun q => (s.loom q.1 q.2).any s.ready)).map (fun q => .issue 1 q.1 q.2)
/-- What happens next where the agenda does not say: the steps that may be enabled take turns, picked by a sequence
over the ticks that keeps coming back to each of them (log 8). -/
def State.whatNext (s : State) : Next :=
  if s.phase != .running then .tick 1
  else
    let l := s.mayHappen
    l.getD (s.time * 40503 / 64 % max 1 l.length) (.tick 1)

/-- Steps of the outside that a device which is not running takes: resets, power, links, and what R383 and R393 say of
the mailbox and of SPDM then. -/
def anyPhase : Instr → Bool
  | .deviceReset _ | .powerLoopStep _ _ | .thermalCutoff | .linkRetrain | .patrolScrub | .modulePowerRemoved | .mbxLaneWrite |
    .spdmGetVersion | .spdmGetCapabilities | .spdmGetMeasurements => true
  | _ => false
/-- A step of another agent: no instruction of a warp. -/
def isEvent (i : Instr) : Bool := i.hdr.isNone && (match i with | .uaten2 _ => false | _ => true)
/-- The message that a step takes to its end. -/
def State.stepMsg (s : State) (e : Instr) (subject : Nat) : Option Msg :=
  match e with
  | .homeFill id | .homeWrite id | .homeAtomic id | .homeLdby id | .homeRangeLoad id | .writeAck id | .ldeValidation id |
    .validationAnswer id | .peerSettle id | .peerTimeout id | .eventUpdate id | .eventWaitArrival id | .tellerPost id => s.msg? id
  | .scrWrite | .mbxStatus | .wdgCtl | .wdgFired | .shuPoolCtl | .shuPoolAdd | .shuPoolStatus | .prfClr | .secAcctab => s.msg? subject
  | _ => none
/-- The Clipper's part for a context's sweep: that of the die of the KSR it is at (R92). -/
def State.sweepDie (s : State) (c : Nat) : Nat := match (s.ctx c).sweep with | some w => w.list.headD 0 / 64 % 4 | none => 0
/-- The rank of the requester of a step (R92): of a message that of its sender, of an issue slot its core; steps that no requester of
R92 makes come last. -/
def State.rankOf (s : State) : Act → Nat
  | .issue core _ => core
  | .event e n _ => match s.stepMsg e n with
    | some m => m.rank
    | none => match e with
      | .shuttleCpa id | .shuttleTcopy id | .shuttleTcred id | .shuttleDcopy id | .shuttlePageMove id | .spoolDelivery id =>
        128 + (match s.reqs.find? (fun r => r.id = id) with | some r => r.engine | none => 0)
      | .mbxLaunch | .mbxWrite | .mbxRead | .mbxEvsigAdd | .mbxEvsigSet | .mbxKill | .mbxQueryRegister | .mbxQueryContext |
        .sessionOpen | .sessionClose | .sessionMeasure | .completionRingPoll => 144
      | .peerPacket p => 145 + p.port
      | .stage c | .stageCold c | .sweepEnd c => 169 + s.sweepDie c
      | .demreqServe d => 169 + d
      | .holdingRelease g _ => 177 + g % 4
      | .eventReread id => 181 + (match s.evOver.find? (fun o => o.w.id = id) with | some o => o.name % 4 | none => 0)
      | .faultDelivery c => 185 + (match s.firstReport c with | some r => r.die | none => 0)
      | _ => 192
def Act.now : Act → Next
  | .event e n d => .event 0 e n d
  | .issue core q => .issue 0 core q
/-- Steps by ascending rank; of one rank in the order given (R92). -/
def insertAct (x : Nat × Act) : List (Nat × Act) → List (Nat × Act)
  | [] => [x]
  | y :: l => if x.1 < y.1 then x :: y :: l else y :: insertAct x l
/-- Requests that arrive in one cycle, as the items that apply them in turn (R73, R92). -/
def State.cycleItems (s : State) (acts : List Act) : List Next :=
  (acts.foldl (fun l a => insertAct (s.rankOf a, a) l) []).map (fun x => x.2.now)
/-- A word of a core's arrays is found with an uncorrectable error, or without one any more (R93). -/
def State.eccSpot (s : State) (x : Spot) (b : Bool) : State :=
  if b then { s with badSpots := x :: s.badSpots } else s.heal (· == x)
/-- The acknowledgement of the old core's flush reaches the crew's new core (R223). -/
def State.flushed (s : State) (k : CrewKey) : State :=
  { s with warps := s.warps.map (fun p => if p.1.crew = k then (p.1, { p.2 with flushWait := false }) else p) }
/-- One item of the agenda. -/
def State.perform (s : State) (n : Next) : Todo :=
  match n with
  | .event dt e n d =>
    let t := { (s.elapse dt) with subject := n, input := d }
    if isEvent e && (s.phase == .running || anyPhase e) then .run e t else .rest t
  | .issue dt core q => if s.phase == .running then (s.elapse dt).slot core q else .rest (s.elapse dt)
  | .tick dt => .rest (s.elapse dt)
  | .cycle dt acts => let t := s.elapse dt; .rest { t with agenda := t.cycleItems acts ++ t.agenda }
  | .l2Back l d => .rest (s.l2Back l d)
  | .eccSpot x b => .rest (s.eccSpot x b)
  | .flushed k => .rest (s.flushed k)
  | .peer d st => .rest ({ s with peers := match st with | some x => aset s.peers d x | none => adel s.peers d }).peerHeard
  | .l1Drop c l => .rest (s.dropL1 c l)
  | .untrack l => .rest (s.untrack l)
  | .tlbFill h c l va => .rest (s.tlbFill h c l va)
  | .tlbDrop h c l tag => .rest { s with tlb := s.tlb.filter (fun e => !(e.holder = h && e.ctx = c && e.level = l && e.tag = tag)) }
  | .icacheFill core c va => .rest (s.icacheFill core c va)
  | .ecc line b => .rest (if b then (if s.msgs.any (fun m => m.k.touches line) then s else { s with badLines := line :: s.badLines }) else { s with badLines := s.badLines.filter (· ≠ line) })
  | .outside pa d => .rest (s.outsideWrite pa d)
/-- What the next step does: the head of the agenda, or the next step of the device's own. A module without
power does nothing but wait for a DEVICE_RESET (R397). -/
def State.plan (s : State) : Todo :=
  match s.agenda with
  | [] => if s.phase == .off then .noPower else s.perform s.whatNext
  | n :: rest =>
    let s := { s with agenda := rest }
    if s.phase == .off then (match n with | .event dt (.deviceReset img) _ _ => .run (.deviceReset img) (s.elapse dt) | _ => .noPower)
    else s.perform n
/-- Reports of what the step met, and of the writes it made nothing is left for the next one. -/
def State.stepEnd (s : State) : State := { (s.met.foldl State.reportFor s) with met := [], out := {} }
/-- A retired crew whose last copy has been made is gone (R280). -/
def State.dropGhosts (s : State) : State := { s with ghosts := s.ghosts.filter (fun p => s.copying p.1) }
/-- What follows by itself from a step: cancellations, REGANG and barrier releases, stops for a pre-emption, ends of
CTXOPs and of releasing stores, releases of captures that a warp left, stores and entries that waited for a peer, reports, and where
the warps then stand in their quarters. -/
def State.after (s : State) : State :=
  s.settle.stopWaiting.ctxopEnds.appliedEnds.releaseOrphans.retryStores.freeEvents.dropGhosts.stepEnd.enterReports.reseat

end Sys2Proof.Machine
end

