-- ==== Sys2Proof/Machine/System.lean ====
section
/-! DEFINITION. System instructions: service call, return from exception, caches, translation and contexts (spec 17.6,
17.7). -/

namespace Sys2Proof.Machine

/-! Service call and return (R357, R358). -/

/-- SVC: at privilege 0 it takes the TRAP exception; at privilege 1 it has no effect (R357). -/
def execSvc (f : Code8) : State → Out :=
  gangOp (.svc f) f.h (fun g s _ lanes => if s.privOf g.warp then finish s g else raise s g { code := .trap, lanes := lanes })
/-- The return of a warp that is held on a precise report, in one of the three ways (R216, R358). -/
def State.rteDo (s : State) (mode : RteMode) (k : WarpKey) (h : Held) : State :=
  match mode with
  | .retry => s.rteRetry k
  | .next => s.rteNext k h
  | .end_ => s.rteEnd k
/-- RTE: a device-scope release, then the warp held on the named report resumes, if there is one (R358). -/
def execRte (f : Rte) : State → Out :=
  gangOp (.rte f) f.h (fun g s l _ =>
    withRelease s g .device (whole := true) (fun s =>
      match s.heldOn g.ctx ((s.warp g.warp).pair f.b l).toNat with
      | some (k, h, r) => finish (if r.kind == .p then s.rteDo f.mode k h else s) g
      | none => finish s g))

/-! Caches (R359). -/

/-- The part of the range of a CACHEOP in each page: addresses, rounded outward to lines. -/
def cachePages (a n : Nat) : List (Nat × Nat) :=
  let lo := a / 64 * 64
  let hi := (a + n + 63) / 64 * 64
  (List.range ((hi - 1) / 4096 + 1 - lo / 4096)).map (fun i =>
    let p := (lo / 4096 + i) * 4096
    (max lo p, min hi (p + 4096) - max lo p))
/-- The physical lines of those parts, or the fault that a one-byte load of a page meets. -/
def State.cacheLines (s : State) (k : WarpKey) : List (Nat × Nat) → Except Bad (List Nat)
  | [] => .ok []
  | (va, n) :: ps => do
    let t ← s.checkPiece k .read 1 ⟨va, 1, 0⟩
    let r ← s.cacheLines k ps
    pure ((List.range (n / 64)).map (t.pa / 64 + ·) ++ r)
/-- What a CACHEOP does to the lines that a test names; `blk` names the instruction blocks (R359, R87, R232). -/
def State.cacheDo (s : State) (kind : CacheKind) (line : Nat → Bool) (blk : IBlock → Bool) : State :=
  match kind with
  | .icache => { s with icache := s.icache.filter (fun b => !blk b) }
  | .l1 => { s with l1 := s.l1.filter (fun l => !line l.line || s.pinnedLine l) }
  | .l2clean => { s with l2 := s.l2.map (fun p => if line p.1 then (p.1, false) else p) }
  | .l2flush => { s with l2 := s.l2.filter (fun p => !line p.1) }
/-- CACHEOP: it follows the warp's own writes; of the instruction cache it drops the blocks of the range's addresses, and those that
hold its bytes (R359, R110, R232, R238). -/
def execCacheop (f : Cacheop) (s : State) : Out :=
  recordOp (.cacheop f) f.h (whole := true) (s := s) (fun g s l lanes =>
    let w := s.warp g.warp
    let n := (w.rg f.b.toNat l).toNat
    let a := (w.pair f.a l).toNat
    if n = 0 then finish (s.cacheDo f.kind (fun _ => true) (fun _ => true)) g
    else orRaise s g .read lanes (s.cacheLines g.warp (cachePages a n)) (whole := true) fun ls =>
      let inRange (b : IBlock) : Bool := b.ctx = g.ctx && decide (a / 64 * 64 ≤ 32 * b.block) && decide (32 * b.block < (a + n + 63) / 64 * 64)
      finish (s.cacheDo f.kind ls.contains (fun b => inRange b || ls.contains (b.pa / 2))) g)

/-! Translation (R360). -/

/-- The entries that a TLBOP drops. -/
def tlbTarget (kind : TlbKind) (a b : Nat) (e : TlbEntry) : Bool :=
  match kind with
  | .va => e.ctx = b && e.covers a
  | .ctx => e.ctx = b
  | .all => true
  | .resolve => false
/-- Instruction blocks that were filled under a translation which the tables held no longer: with the translation they go too
(R238). -/
def lateTarget (kind : TlbKind) (c : Nat) (b : IBlock) : Bool :=
  b.late && (match kind with | .va | .ctx => b.ctx = c | .all => true | .resolve => false)
/-- The held instruction or request of a report is replayed; a request that a save has kept waits for its crew's return
(R193, R220, R223). -/
def State.resolve (s : State) (c seq : Nat) : State :=
  match s.heldOn c seq with
  | some (k, h, _) => if h.kind == .h then s.modWarp k (fun w => { w with held := none }) else s
  | none =>
    match (aget (s.ctx c).delivered seq).bind (·.req) with
    | some id =>
      let away (r : Req) : Bool := r.fills && match r.warp with
        | some w => (match aget s.crews w.crew with | some x => x.core?.isNone | none => false)
        | none => false
      { s with reqs := s.reqs.map (fun r => if r.id = id && r.st == .faulted && !away r then { r with st := .queued } else r) }
    | none => s
/-- TLBOP: drops its targets, and retires once the accesses that may have used them have been performed (R360). -/
def execTlbop (f : Tlbop) : State → Out :=
  gangOp (.tlbop f) f.h (fun g s l _ =>
    let w := s.warp g.warp
    let b := (w.rg f.b.toNat l).toNat
    let a := (w.pair f.a l).toNat
    if f.kind != .all && 64 ≤ b then finish s g
    else if f.kind == .resolve then finish (s.resolve b a) g
    else
      let s := { s with tlb := s.tlb.filter (fun e => !tlbTarget f.kind a b e), icache := s.icache.filter (fun x => !lateTarget f.kind b x) }
      if s.accessOut (f.kind == .all) b then hold s g (.accesses (f.kind == .all) b) (whole := true) else finish s g)

/-! Contexts (R361, R362, R389). -/

/-- Table 17.7: the descriptor, or none where it breaks a rule of the last column. -/
def descOf (b : List Byte) : Option Desc :=
  let d : Desc := { root := le64 b 0, eventArea := le64 b 8, faultRing := le64 b 0x10, faultEvent := le16 b 0x18,
                    localBase := le64 b 0x20, localSize := le32 b 0x28, saveSize := le32 b 0x2C, saveBase := le64 b 0x30,
                    taskArea := le64 b 0x38 }
  let rsv := leNat ((b.drop 0x1A).take 6)
  if d.root = 0 || d.root % 2 ^ 21 ≠ 0 || d.eventArea % 2 ^ 20 ≠ 0 || d.faultRing % 2 ^ 15 ≠ 0 ||
      (d.faultRing ≠ 0 && d.eventArea = 0) || rsv ≠ 0 || d.localBase % 2 ^ 16 ≠ 0 || d.saveSize = 0 ||
      d.saveBase % 2 ^ 16 ≠ 0 || region d.saveBase != .tier 0 || d.taskArea % 2 ^ 19 ≠ 0 then none
  else some d
/-- A new context, with its keys from the open session or from the device's generator (R361, R389, R390). -/
def State.createCtx (s : State) (c : Nat) (d : Desc) : State :=
  let s := { s with dead := adel s.dead c }
  match s.session with
  | some x => s.setCtx c { desc := d, lease := s.scr.leaseDefault, session := some x.spdm, sealed_ := x.sealed_ }
  | none => { (s.setCtx c { desc := d, lease := s.scr.leaseDefault, draw := s.freeCtr }) with freeCtr := s.freeCtr + 1 }
/-- The admitted launch of a context with an id. -/
def State.admitted (s : State) (c l : Nat) : Bool :=
  match aget s.launches (c, l) with | some x => x.stage == .admitted | none => false
def State.crewsOf (s : State) (c l : Nat) : List (CrewKey × Crew) := s.crews.filter (fun p => p.1.ctx = c && p.1.launch = l)
def Crew.parked (c : Crew) : Bool := match c.seat with | .stopped _ => true | _ => false
/-- The resume of R227: the timer starts anew, saved crews return to the resume list, crews stopped in place issue again. -/
def State.resumeLaunch (s : State) (c l : Nat) : State :=
  let ks := s.crewsOf c l
  let parked := (ks.filter (fun p => p.2.parked)).map (·.1)
  let s := if !(s.launch c l).fired then s
    else
      let away := (ks.filter (fun p => match p.2.seat with | .saved _ _ => true | _ => false)).map (·.1.crew)
      let back (x : Launch) : Launch := { x with fired := false, due := none, timer := 0, resume := x.resume ++ unionAsc (away.filter (fun i => !x.resume.contains i)) [] }
      let joins (p : CrewKey × Crew) : CrewKey × Crew :=
        if p.1.ctx = c && p.1.launch = l then (p.1, { p.2 with preempt := p.2.preempt.map (fun r => { r with resume := true }) }) else p
      { (s.modLaunch c l back) with crews := s.crews.map joins }
  parked.foldl State.goInPlace s
/-- The abort of R227: its crews are discarded as though every warp exited, its SIBLING members become RETIRED, and the launch
ends with WATCHDOG once the records of its groups are written (R183). -/
def State.abortLaunch (s : State) (c l : Nat) : State :=
  let mine (k : CrewKey) : Bool := k.ctx = c && k.launch = l
  let leave (s : State) (k : WarpKey) : State :=
    let s := (((s.dropEntries k).withdraw k (BitVec.allOnes 8)).leaveEvents k (BitVec.allOnes 8)).dropAsks k
    { s with orphans := s.orphans ++ (s.warp k).caps.map (fun x => (k, x)) }
  let s := ((s.warps.map (·.1)).filter (fun k => mine k.crew)).foldl leave s
  let s := (s.crewsOf c l).foldl (fun s p => s.lastPost p.1) s
  let s := s.modLaunch c l (fun x =>
    { x with code := 9, placed := x.packet.crewCount, extra := [], resume := [], retired := x.packet.crewCount })
  let s := { s with crews := s.crews.filter (fun p => !mine p.1), warps := s.warps.filter (fun p => !mine p.1.crew) }
  let ms := ((s.teller.filter (fun p => p.2.ctx = c && p.2.launch = l)).flatMap (fun p => p.2.members)).map (·.crew)
  (ms.foldl (fun s i => s.retireMember ⟨c, l, i⟩) s).launchOver c l
/-- A CTXOP completes with a status in D of every taking-part lane; a warp that it ended writes nothing. -/
def ctxDone (g : Cur) (f : Ctxop) (lanes : List Nat) (s : State) (status : Nat) : Out :=
  if (aget s.warps g.warp).isSome then finish (s.wrLanes g.warp (lanesWord f.d.toNat lanes (BitVec.ofNat 32 status))) g else .next s
/-- CTXOP (R361, R362). -/
def execCtxop (f : Ctxop) : State → Out :=
  gangOp (.ctxop f) f.h (fun g s l lanes =>
    let w := s.warp g.warp
    let b := (w.rg f.b.toNat l).toNat
    let a := (w.pair f.a l).toNat
    let id := a % 2 ^ 32
    let done := ctxDone g f lanes
    let wait (s : State) (crews : List CrewKey) : Out :=
      .next (s.waitIn g (.ctxop f.op b id g.len f.d.toNat (BitVec.ofNat 32 (maskOf lanes)) crews))
    match f.op with
    | .create =>
      if 64 ≤ b || s.hasCtx b then done s 1
      else if a % 64 ≠ 0 then done s 2
      else inOrder s g (whole := true) (orRaise s g .read lanes (s.recordRead g.warp a 64) (whole := true) fun d =>
        let s := s.sawRecords g.warp [a]
        match descOf d with
        | none => done s 2
        | some d => done (s.createCtx b d) 0)
    | .kill =>
      if 64 ≤ b || !s.hasCtx b || b = 63 then done s 1
      else wait (s.startKill b none []) []
    | .preempt =>
      if 64 ≤ b || !s.hasCtx b || s.killing b then done s 1
      else if !s.admitted b id then done s 3
      else
        let ks := s.runningCrews b id
        let s := ks.foldl (fun s k => s.askCrew k false true false) s
        match ks.filter (fun k => !(s.unitOfCrew g.crewK).contains k) with
        | [] => done s 0
        | far => wait s far
    | .resume | .abort =>
      if 64 ≤ b || !s.hasCtx b || s.killing b then done s 1
      else if !s.admitted b id then done s 3
      else if !(s.launch b id).fired && !(s.crewsOf b id).any (fun p => p.2.parked) then done s 4
      else if f.op == .resume then done (s.resumeLaunch b id) 0
      else
        let s := s.abortLaunch b id
        if (aget s.launches (b, id)).isNone then done s 0 else wait s [])

end Sys2Proof.Machine
end

