-- ==== Sys2Proof/Machine/Host.lean ====
section
/-! DEFINITION. The mailbox: lanes, commands, sessions and sealing, and the SPDM and IDE messages (spec 21). The lane
that a step serves, or the offset of a write to BAR0, is the state's subject; bytes that arrive are its input. -/

namespace Sys2Proof.Machine

/-! Arrival (R383, R127, R388). -/

/-- A command as it stands in its lane (Table 21.1). -/
def cmdOf (b : List Byte) (ide : Option (BitVec 32)) : Cmd :=
  { op := le8 b 0, ctx := le8 b 1, tag := le16 b 2, arg := BitVec.ofNat 32 (le32 b 4), dev := BitVec.ofNat 64 (le64 b 8),
    host := BitVec.ofNat 64 (le64 b 0x10), len := le32 b 0x18, rsv0 := BitVec.ofNat 32 (le32 b 0x1C),
    ivc := BitVec.ofNat 64 (le64 b 0x20), gtag := BitVec.ofNat 128 (leNat ((b.drop 0x28).take 16)),
    rsv1 := BitVec.ofNat 64 (le64 b 0x38), ide := ide }
/-- The command bytes 0x00 to 0x1F, the additional data of sealed data (R390). -/
def Cmd.head (c : Cmd) : List Byte :=
  nbytes 1 c.op ++ nbytes 1 c.ctx ++ nbytes 2 c.tag ++ nbytes 4 c.arg.toNat ++ nbytes 8 c.dev.toNat ++
    nbytes 8 c.host.toNat ++ nbytes 4 c.len ++ nbytes 4 c.rsv0.toNat
def Cmd.isOpen (c : Cmd) : Bool := c.op = 7 && c.arg.toNat % 4 = 0
/-- MBX_LANE_WRITE: a host write to BAR0. Bit 40 of the subject says that it arrived over the IDE stream (R383, R388). -/
def execMbxLaneWrite (s : State) : Out :=
  if s.phase != .running then .next s
  else
    let off := s.subject % 2 ^ 40
    let k := off / 0x1000
    let c := cmdOf s.input (if s.subject / 2 ^ 40 % 2 = 1 then s.spdm.ide else none)
    if s.input.length ≠ 64 || off % 0x1000 ≠ 0 || 8 ≤ k || !s.scr.mbxCtl.getLsbD k || 32 ≤ (s.laneCmds k).length ||
        (s.session.isNone && !c.isOpen) then
      .next (s.count none 0x11 1)
    else
      let s := if c.isOpen then { s with openResult := 0 } else s
      .next { s with lanes := lset s.lanes k (s.laneCmds k ++ [c]) }

/-! Service (R383 to R387). -/

/-- The head of a lane is a CLOSE that waits for its kills. -/
def State.closingLane (s : State) (k : Nat) : Bool := (s.session.bind (·.closing)) = some k
/-- The lane that the engine serves: the highest-numbered one that holds a command it may start. -/
def State.servedLane (s : State) : Option Nat :=
  if !s.compQ.isEmpty then none
  else ((List.range 8).reverse).find? (fun k => !(s.laneCmds k).isEmpty && !s.closingLane k)
/-- The head of a lane leaves it. -/
def State.popLane (s : State) (k : Nat) : State :=
  { s with lanes := lset s.lanes k ((s.laneCmds k).drop 1), unheard := adel s.unheard (.lane k) }
/-- A command completes with its one record. -/
def State.cmdDone (s : State) (k : Nat) (c : Cmd) (status code value : Nat) (gtag : BitVec 128) : State :=
  (s.popLane k).complete ⟨c.tag, c.op, status, code, k, BitVec.ofNat 64 value, gtag⟩
/-- The fields of a command break a limit of Table 21.2, or a reserved field is not 0 (R384). -/
def Cmd.malformed (c : Cmd) (sealed_ : Bool) : Bool :=
  c.rsv0 ≠ 0 || c.rsv1 ≠ 0 || c.op = 0 || 7 < c.op || 63 < c.ctx || (!sealed_ && (c.ivc ≠ 0 || c.gtag ≠ 0)) ||
    (match c.op with
     | 1 => c.host.toNat % 64 ≠ 0 || c.len ≠ 64
     | 2 | 3 => c.len = 0 || 1048576 < c.len
     | 7 => match c.arg.toNat % 4 with
       | 0 => c.host.toNat % 4096 ≠ 0 || !([128, 256, 512, 1024, 2048, 4096, 8192, 16384, 32768, 65536].contains c.len)
       | 2 => 2 ^ 26 < c.len
       | 3 => true
       | _ => false
     | _ => false)
def State.sealed (s : State) : Bool := (s.session.map (·.sealed_)).getD false
/-- The status with which a command ends before it is applied, if it does (R384, R386, R387). -/
def State.cmdRefused (s : State) (c : Cmd) : Option Nat :=
  if c.malformed s.sealed then some 1
  else if c.op = 6 || (c.op = 7 && c.arg.toNat % 4 ≠ 2) then none
  else if c.ctx = 63 && c.op ≠ 7 then some 2
  else if c.killed && !(c.op = 5 && s.killing c.ctx) then some 7
  else if !s.hasCtx c.ctx then some 2
  else if s.killing c.ctx && c.op ≠ 5 then some 7
  else none
/-- Serves the command at the head of the subject's lane, if its row is this one and the lane's turn has come. -/
def serve (row : Instr) (f : State → Nat → Cmd → Out) (s : State) : Out :=
  let k := s.subject
  match s.laneCmds k with
  | [] => .next s
  | c :: _ =>
    if cmdRow c ≠ row || s.servedLane ≠ some k then .next s
    else if s.session.isNone && !c.isOpen then .next ((s.popLane k).count none 0x11 1)
    else if c.isOpen then f s k c
    else match s.cmdRefused c with
      | some st => .next (s.cmdDone k c st 0 (if c.op = 1 then 0xFFFFFFFF else 0) 0)
      | none => f s k c
/-- A command meets a fault at its target: ACCESS with the code (R386), of a peer that does not answer after 10,000,000 ticks
(R392). Until then it stays at the head of its lane, and is made again (log 73). -/
def accessEnd (s : State) (k : Nat) (c : Cmd) (b : Bad) : Out :=
  match s.later (.lane k) b with
  | some s => .next s
  | none => .next (s.cmdDone k c 3 b.code.num 0 0)
/-- The mailbox engine's accesses to a context (R195, R401). -/
def mbxUnit (c : Nat) : Master := ⟨128, c, false, 2⟩
def State.hostBytes (s : State) (h n : Nat) : List Byte := s.rdN (hostBase + h) n

/-! Sealing (R389, R390). -/

def sessionKey (x : Session) (name : String) : BitVec 256 :=
  BitVec.ofNat 256 (Config.kmac256 (nbytes 64 (Config.spdmSecret x.spdm).toNat) [] name)
/-- The plaintext of sealed data, if it is authentic. -/
def gcmCheck (key : BitVec 256) (iv : BitVec 128) (aad ct : List Byte) (tag : BitVec 128) : Option (List Byte) :=
  let p := Config.gcmOpen key iv aad ct
  if Config.gcmSeal key iv aad p = (ct, tag) then some p else none
/-- The data of a LAUNCH or WRITE in clear, and the session after it; none where it does not open (R390). -/
def State.openData (s : State) (k : Nat) (c : Cmd) (d : List Byte) : Option (List Byte × State) :=
  match s.session with
  | none => some (d, s)
  | some x =>
    if !x.sealed_ then some (d, s)
    else if c.ivc.toNat < x.ivc.getD k 0 then none
    else
      let iv := BitVec.ofNat 128 (k * 2 ^ 64 + c.ivc.toNat)
      (gcmCheck (sessionKey x "SLOFOLD-MBX-H2D") iv c.head d c.gtag).map (fun p =>
        (p, { s with session := some { x with ivc := lset x.ivc k (c.ivc.toNat + 1) } }))

/-! Commands (Table 21.2). -/

/-- MBX_LAUNCH: reads the packet, opens it if it is sealed, and enqueues it (R128 to R130). -/
def execMbxLaunch : State → Out :=
  serve .mbxLaunch (fun s k c =>
    if !s.hostAllows c.host.toNat 64 true false then accessEnd s k c (bad .accessDenied)
    else match s.openData k c (s.hostBytes c.host.toNat 64) with
      | none => .next (s.cmdDone k c 4 0 0 0)
      | some (d, s) =>
        let r := s.enqueue c.ctx (packetOf d) false false (fun _ => .mailbox k c.tag)
        .next (r.2.2.cmdDone k c 6 r.1 r.2.1 0))
/-- The completion times of what a command has written count for its lane (R126). -/
def State.laneWrote (s : State) (k : Nat) : State := { s with laneWct := lset s.laneWct k (max s.out.wct (s.laneWct.getD k 0)) }
/-- MBX_WRITE: the whole source is read and opened, then written at the homes; protected blocks as a Shuttle write
(R126, R102). It stays at the head of its lane while frames are awaited. -/
def execMbxWrite : State → Out :=
  serve .mbxWrite (fun s k c =>
    if !s.hostAllows c.host.toNat c.len true false then accessEnd s k c (bad .accessDenied)
    else match s.openData k c (s.hostBytes c.host.toNat c.len) with
      | none => .next (s.cmdDone k c 4 0 0 0)
      | some (d, t) =>
        match t.engineWrite (mbxUnit c.ctx) (.mbx k) c.dev.toNat d with
        | .error b => match s.later (.lane k) b with
          | some s => .next s
          | none => .next (t.cmdDone k c 3 b.code.num 0 0)
        | .ok (none, u) => .next { u.laneWrote k with session := s.session }
        | .ok (some _, u) => .next ((u.laneWrote k).cmdDone k c 0 0 0 0))
/-- MBX_READ: the values at the homes go to the host, sealed in a sealed session (R126, R390). -/
def execMbxRead : State → Out :=
  serve .mbxRead (fun s k c =>
    if !s.hostAllows c.host.toNat c.len false true then accessEnd s k c (bad .accessDenied)
    else match s.takeRead (mbxUnit c.ctx) c.dev.toNat c.len false with
      | .error b => accessEnd s k c b
      | .ok (d, s) =>
        match s.session with
        | some x =>
          if x.sealed_ then
            let iv := BitVec.ofNat 128 (0xFFFFFFFF * 2 ^ 64 + x.devIv)
            let r := Config.gcmSeal (sessionKey x "SLOFOLD-MBX-D2H") iv [] d
            let s := { (s.put (hostBase + c.host.toNat) r.1) with session := some { x with devIv := x.devIv + 1 } }
            .next (s.cmdDone k c 0 0 x.devIv r.2)
          else .next ((s.put (hostBase + c.host.toNat) d).cmdDone k c 0 0 0 0)
        | none => .next s)
/-- EVSIG: applied once the lane's earlier WRITEs are applied and device time has reached their greatest completion
time (R126, R172). -/
def evsig (set_ : Bool) (s : State) (k : Nat) (c : Cmd) : Out :=
  if s.noEvents c.ctx then .next (s.cmdDone k c 5 0 0 0)
  else if s.time < s.laneWct.getD k 0 then .next s
  else match s.evUpdate c.ctx (c.arg.toNat % 65536) set_ (c.dev.setWidth 32) with
    | .error b => accessEnd s k c b
    | .ok s => .next (s.cmdDone k c 0 0 0 0)
/-- MBX_EVSIG, adding (R126). -/
def execMbxEvsigAdd : State → Out := serve .mbxEvsigAdd (evsig false)
/-- MBX_EVSIG, setting (R126). -/
def execMbxEvsigSet : State → Out := serve .mbxEvsigSet (evsig true)
/-- MBX_KILL: applied at its request; its record comes when KILL_DONE is set (R225, R386). -/
def execMbxKill : State → Out :=
  serve .mbxKill (fun s k c => .next ((s.popLane k).startKill c.ctx none [(k, c.tag)]))
/-- MBX_QUERY of a register: those that Table 21.2 names. -/
def execMbxQueryRegister : State → Out :=
  serve .mbxQueryRegister (fun s k c =>
    let o := c.dev.toNat
    if [0x00000, 0x00004, 0x10008, 0x80000, 0x70008, 0x90004].contains o then .next (s.cmdDone k c 0 0 (s.scrRead o) 0)
    else .next (s.cmdDone k c 1 0 0 0))
/-- The state of a context (Table 21.2). -/
def State.ctxState (s : State) (c : Nat) : Nat :=
  if s.killing c && s.hasCtx c then 2 else if s.hasCtx c then 1
  else match aget s.dead c with | some code => 0x1700 ||| code | none => 0
/-- MBX_QUERY of a context (R384). -/
def execMbxQueryContext : State → Out :=
  serve .mbxQueryContext (fun s k c => .next (s.cmdDone k c 0 0 (s.ctxState c.ctx) 0))

/-! Sessions (R388 to R391). -/

/-- Contexts other than the supervisor's. -/
def State.otherCtxs (s : State) : List Nat := (s.ctxs.map (·.1)).filter (· ≠ 63)
/-- The outcome of an OPEN (R388). -/
def openWord (c : Cmd) (status : Nat) : Word := BitVec.ofNat 32 (c.tag % 65536 + status * 65536 + 2 ^ 24)
/-- EN is cleared in every entry of every Link port's table, also in a half whose partner has not been written yet (R390). -/
def State.closePorts (s : State) : State :=
  { s with acctab := s.acctab.map (fun p => if 14 ≤ p.1.1 then (p.1, p.2 &&& ~~~(1#128 <<< 63)) else p),
           acchalf := s.acchalf.map (fun p => if 14 ≤ p.1.1 then (p.1, p.2.1.map (· &&& ~~~(1#64 <<< 63)), p.2.2) else p) }
/-- SESSION OPEN (R388, Table 21.5). -/
def execSessionOpen : State → Out :=
  serve .sessionOpen (fun s k c =>
    let sealed_ := c.arg.getLsbD 8
    let status := if c.malformed false || s.session.isSome || (sealed_ && !s.otherCtxs.isEmpty) then 1
      else if c.ide ≠ some (c.dev.setWidth 32) || s.spdm.session ≠ some (c.dev.setWidth 32) then 4
      else 0
    let s := { s with openResult := openWord c status }
    if status ≠ 0 then .next (s.popLane k)
    else
      let s := if sealed_ then s.closePorts else s
      .next ({ s with session := some { spdm := c.dev.setWidth 32, ring := c.host.toNat, size := c.len, sealed_ := sealed_ } }.cmdDone k c 0 0 0 0))
/-- Entries of the table at an address that are not 0: index and word. -/
def State.entriesAt (s : State) (table n : Nat) : List (Nat × DWord) :=
  (((s.mem.filter (fun c => decide (table ≤ c.1) && decide (c.1 < table + 8 * n))).map (fun c => (c.1 - table) / 8)).dedup).map
    (fun i => (i, BitVec.ofNat 64 (s.rdNat (table + 8 * i) 8)))
/-- The memory that the leaves of a table of a level map for users: places and lengths (Table 09.8). -/
def State.userLeaves (s : State) : List Nat → Nat → List (Nat × Nat)
  | [], _ => []
  | l :: ls, table => (s.entriesAt table (if l = 0 then 2 ^ 18 else 512)).flatMap (fun e =>
      let pa := (e.2.extractLsb' 12 41).toNat * 4096
      if !e.2.getLsbD 0 then []
      else if l = 3 || e.2.getLsbD 1 then
        let sz := if l = 3 then (if e.2.getLsbD 6 then 2 ^ 16 else 2 ^ 12) else 2 ^ lvlShift l
        if e.2.getLsbD 3 then [(pa / sz * sz, sz)] else []
      else s.userLeaves ls pa)
/-- What the contexts of a session hold of memory: their pool runs, their save windows, and what their leaves map for users (log 59). -/
def State.heldMem (s : State) : List (Nat × Nat) :=
  (s.runs.filter (fun r => r.2.2 ≠ 63)).map (fun r => (framePa r.1.1 r.1.2, 4096 * r.2.1)) ++
    s.otherCtxs.flatMap (fun c => ((s.ctx c).desc.saveBase, 65536 * (s.ctx c).desc.saveSize) :: s.userLeaves [0, 1, 2, 3] (s.ctx c).desc.root)
/-- A place of tier 0 or 1 in some memory. -/
def zeroed (l : List (Nat × Nat)) (pa : Nat) : Bool :=
  (match region pa with | .tier t => decide (t ≤ 1) | _ => false) && l.any (fun r => r.1 ≤ pa && pa < r.1 + r.2)
/-- The frames of tiers 0 and 1 that contexts of a sealed session held are zeroed (Table 21.5). -/
def State.zeroFrames (s : State) (l : List (Nat × Nat)) : State :=
  { s with mem := s.mem.filter (fun c => !zeroed l c.1),
           lines := s.lines.map (fun p => if zeroed l (64 * p.1) then (p.1, { p.2 with version := p.2.version + 1 }) else p) }
/-- The owner session ends: SEC_STATE is cleared, and its ring is no more; commands that still stand in the lanes, but an OPEN, are
discarded and counted (R383). -/
def State.dropSession (s : State) : State :=
  let gone := (s.lanes.map (fun l => (l.filter (fun c => !c.isOpen)).length)).sum
  let s := if gone = 0 then s else s.count none 0x11 gone
  { s with session := none, compQ := [], lanes := s.lanes.map (fun l => l.filter Cmd.isOpen) }
/-- A CLOSE goes on: once its kills are done, frames are zeroed, its record is raised, and the session ends when the
ring has taken it. -/
def State.closeOn (s : State) (k : Nat) (c : Cmd) (x : Session) : State :=
  if !s.otherCtxs.isEmpty then s
  else
    let s := if x.sealed_ then s.zeroFrames x.held else s
    let s := { s with session := some { x with closing := none, closed := true, held := [] } }.cmdDone k c 0 0 0 0
    if s.compQ.isEmpty then s.dropSession else s
/-- SESSION CLOSE: kills every context but the supervisor's, and ends the session after them (Table 21.5). -/
def execSessionClose (s : State) : Out :=
  let k := s.subject
  if s.closingLane k then
    match s.laneCmds k, s.session with
    | c :: _, some x => .next (if s.compQ.isEmpty then s.closeOn k c x else s)
    | _, _ => .next s
  else serve .sessionClose (fun s k c =>
    match s.session with
    | none => .next s
    | some x =>
      let x := { x with closing := some k, held := s.heldMem }
      let s := s.otherCtxs.foldl (fun s i => s.startKill i none []) { s with session := some x }
      .next (s.closeOn k c x)) s
/-- A digest extended into a measurement (R391; log 10). -/
def State.extend (s : State) (i : Nat) (d : BitVec 512) : State :=
  let old := (aget s.spdm.meas i).getD 0
  let v := Config.shake256 (nbytes 64 old.toNat ++ nbytes 64 d.toNat)
  { s with spdm := { s.spdm with meas := aset s.spdm.meas i v } }
/-- SESSION MEASURE (Table 21.5). -/
def execSessionMeasure : State → Out :=
  serve .sessionMeasure (fun s k c =>
    match s.takeRead (mbxUnit c.ctx) c.dev.toNat c.len false with
    | .error b => accessEnd s k c b
    | .ok (d, s) => .next ((s.extend (0x10 + c.ctx) (Config.shake256 d)).cmdDone k c 0 0 0 0))
/-- COMPLETION_RING_POLL: the host's consumed count is read again, and waiting records go out (R385). -/
def execCompletionRingPoll (s : State) : Out :=
  let s := s.pump
  .next (if s.compQ.isEmpty && ((s.session.map (·.closed)).getD false) then s.dropSession else s)

/-! SPDM and IDE_KM messages over DOE (R391). Message layouts are those of SPDM 1.3, outside the spec (log 10). -/

def State.doe (s : State) (d : List Byte) : State := { s with spdm := { s.spdm with out := s.spdm.out ++ [d] } }
def State.answersDoe (s : State) : Bool := s.phase == .running || s.phase == .recovery
/-- The capabilities of Table 21.7. -/
inductive SpdmCap where
  | cert | chal | measSigned | keyEx | encrypt | mac | keyUpd
  deriving DecidableEq, Repr
/-- The bit of a capability in the flags of SPDM 1.3 (log 10). -/
def SpdmCap.flag : SpdmCap → Nat
  | .cert => 0x2 | .chal => 0x4 | .measSigned => 0x10 | .encrypt => 0x40 | .mac => 0x80 | .keyEx => 0x200 | .keyUpd => 0x4000
/-- The algorithms of Table 21.7: signature, hash of 64 bytes, key exchange, AEAD. -/
inductive SpdmAlg where
  | falcon1024 | shake256 | secp384r1 | aes256Gcm
  deriving DecidableEq, Repr
def SpdmAlg.num : SpdmAlg → Nat
  | .falcon1024 => 0 | .shake256 => 1 | .secp384r1 => 2 | .aes256Gcm => 3
def spdmCaps : List SpdmCap := [.cert, .chal, .measSigned, .keyEx, .encrypt, .mac, .keyUpd]
def spdmAlgs : List SpdmAlg := [.falcon1024, .shake256, .secp384r1, .aes256Gcm]
/-- What the device says of itself: its flags and its algorithms (Table 21.7; log 10). -/
def spdmSupport : List Byte := nbytes 4 (spdmCaps.foldl (fun m c => m ||| c.flag) 0) ++ spdmAlgs.map (fun a => BitVec.ofNat 8 a.num)
/-- An unsigned answer to the input. -/
def spdmReply (code : Nat) (s : State) : Out := .next (if s.answersDoe then s.doe (Config.spdmAnswer code s.input) else s)
/-- SPDM GET_VERSION. -/
def execSpdmGetVersion : State → Out := spdmReply 0x84
/-- SPDM GET_CAPABILITIES: the answer says what the device supports (Table 21.7). -/
def execSpdmGetCapabilities (s : State) : Out :=
  .next (if s.answersDoe then s.doe (spdmSupport ++ Config.spdmAnswer 0xE1 s.input) else s)
/-- The device's signature, by the key of its firmware layer (R391). -/
def State.sign (s : State) (m : List Byte) : List Byte := m ++ Config.falconSign s.spdm.deviceKey m
/-- The measurements as bytes: index, length and digest, and measurement 2's log (R391, R393). -/
def Spdm.measBytes (x : Spdm) : List Byte :=
  x.meas.flatMap (fun p => nbytes 1 p.1 ++ nbytes 64 p.2.toNat) ++ (match x.failLog with | some u => nbytes 4 u | none => [])
/-- SPDM GET_MEASUREMENTS; in the recovery state it is not signed (R393). -/
def execSpdmGetMeasurements (s : State) : Out :=
  if !s.answersDoe then .next s
  else
    let m := Config.spdmAnswer 0xE0 (s.input ++ s.spdm.measBytes)
    .next (s.doe (if s.phase == .running then s.sign m else m))
/-- SPDM KEY_EXCHANGE: the secure session whose id is the subject is set up; it has keyed no IDE stream yet, whatever id an earlier
one had (R388, R391). -/
def execSpdmKeyExchange (s : State) : Out :=
  if s.phase != .running then .next s
  else
    let s := s.doe (s.sign (Config.spdmAnswer 0xE4 s.input))
    let id := BitVec.ofNat 32 s.subject
    .next { s with spdm := { s.spdm with session := some id, ide := if s.spdm.ide = some id then none else s.spdm.ide } }
/-- SPDM GET_CERTIFICATE. -/
def execSpdmGetCertificate (s : State) : Out := if s.phase != .running then .next s else spdmReply 0x82 s
/-- SPDM CHALLENGE: answered with a Falcon-1024 signature (R391). -/
def execSpdmChallenge (s : State) : Out :=
  if s.phase != .running then .next s
  else
    .next (s.doe (s.sign (Config.spdmAnswer 0x83 (s.input ++ s.spdm.measBytes))))
/-- SPDM KEY_UPDATE: the secure session takes its next keys. -/
def execSpdmKeyUpdate (s : State) : Out :=
  if s.phase != .running || s.spdm.session.isNone then .next s
  else
    let s := s.doe (Config.spdmAnswer 0xE9 s.input)
    .next { s with spdm := { s.spdm with keyUpdates := s.spdm.keyUpdates + 1 } }
/-- SPDM END_SESSION: the secure session ends, and with it the owner session bound to it; no session context outlives
its keys' secret (R388, R389). -/
def execSpdmEndSession (s : State) : Out :=
  if s.phase != .running then .next s
  else match s.spdm.session with
    | none => .next s
    | some id =>
      let s := s.doe (Config.spdmAnswer 0xEC s.input)
      let s := { s with spdm := { s.spdm with session := none, ide := none } }
      if (s.session.map (·.spdm)) = some id then .next (s.otherCtxs.foldl (fun s i => s.startKill i none []) s.dropSession)
      else .next s
/-- IDE_KM inside the SPDM session sets the keys of the IDE stream (R391). -/
def execIdeKm (s : State) : Out :=
  if s.phase != .running || s.spdm.session.isNone then .next s
  else
    let s := s.doe (Config.spdmAnswer 0xFE s.input)
    .next { s with spdm := { s.spdm with ide := s.spdm.session } }

end Sys2Proof.Machine
end

