-- ==== Sys2Proof/Machine/Boot.lean ====
section
/-! DEFINITION. Reset and boot, the power loop, and what happens to the module from outside (spec 22, R93). -/

namespace Sys2Proof.Machine

/-- Memory that is not the module's own: the expander's, the host's and the peers'. -/
def outsideMem (m : List Host.Cell) : List Host.Cell :=
  m.filter (fun c => match region c.1 with | .host | .peer _ | .tier 2 => true | _ => false)
/-- The module with every block's state gone; what stands outside it, and the model's inputs, stay (R393, R397). -/
def State.blank (s : State) (p : Phase) : State :=
  { mem := outsideMem s.mem, agenda := s.agenda, freeCtr := s.freeCtr, phase := p, peers := s.peers }
/-- Stores of the boot firmware to the system control window, each of its register's width (R72, R195). -/
def State.bootStores (s : State) (l : List (Nat × Nat × DWord)) : State :=
  l.foldl (fun s x => if scrAt x.1 = some (x.1, x.2.1) then s.scrStore x.1 x.2.2 else s) s
/-- The supervisor's launch: SUPERVISOR and PERSISTENT are set (R395). -/
def bootPacket (b : List Byte) : Packet := { packetOf b with flags := (packetOf b).flags ||| 0x0A#8 }
/-- The recovery state (R393). -/
def State.recover (s : State) : State := { s with phase := .recovery }
/-- Stage 6: the pools, the supervisor context, its launch in queue 15, the lanes (R395); none where it fails. -/
def State.stage6 (s : State) (img : BootImage) : Option State := do
  let d ← descOf img.descriptor
  let s := s.createCtx 63 d
  let r := s.enqueue 63 (bootPacket img.packet) true true (fun _ => .nowhere)
  if r.1 ≠ 0 then none
  else some { (r.2.2.modLaunch 63 r.2.1 (fun l => { l with queue := 15 })) with phase := .running }
def bootByte (m : List Host.Cell) (p : Nat × Byte) : List Host.Cell := sset (n := 8) m p.1 p.2
/-- The firmware's signature stands: it is that of a key whose public key has the fused hash (Table 22.1; log 10). -/
def fwSigned (img : BootImage) : Bool :=
  decide (Config.shake256 (Config.falconPublic img.signer) = img.fuses.keyHash) &&
    decide (img.fwSig = Config.falconSign img.signer (nbytes 64 img.fwHash.toNat))
/-- Stage 2: the boot ROM reads the fuses. -/
def State.stage2 (s : State) (img : BootImage) : State := { s with fuses := img.fuses, fabricId := img.fuses.fabricId.toNat }
/-- Stage 3: the key of the ROM layer, from the fused secret, and measurement 1 (R391). -/
def State.stage3 (s : State) (img : BootImage) : State :=
  { s with spdm := { s.spdm with romKey := Config.layerKey s.fuses.secret img.romHash } }.extend 1 img.romHash
/-- Stage 4: the key of the firmware layer, which is the device's key, and measurement 2 (R391). -/
def State.stage4 (s : State) (img : BootImage) : State :=
  { s with spdm := { s.spdm with deviceKey := Config.layerKey s.spdm.romKey img.fwHash } }.extend 2 img.fwHash
/-- DEVICE_RESET: the six stages of Table 22.1, up to the one that fails. -/
def execDeviceReset (img : BootImage) (s : State) : Out :=
  let fails (n : Nat) : Bool := img.failStage = some n
  let s1 := s.blank .stage1
  if fails 1 then .next (s.blank .off)
  else if fails 2 then .next s1.recover
  else
    let s2 := s1.stage2 img
    if fails 3 then .next s2.recover
    else
    let s3 := s2.stage3 img
    if fails 4 || !fwSigned img then .next s3.recover
    else
      let s4 := s3.stage4 img
      if fails 5 then .next { s4.recover with spdm := { s4.spdm with failLog := some s.subject } }
      else
        let s5 := { s4 with fabricId := img.fabricId.toNat, cxlFrames := img.cxlFrames, mem := img.bytes.foldl bootByte s4.mem }
        let s5 := s5.bootStores img.scr
        if fails 6 then .next s5.recover
        else .next ((s5.stage6 img).getD s5.recover)

/-- POWER_LOOP_STEP: from the module's draw in W and its highest junction temperature (R396). -/
def execPowerLoopStep (draw temp : Nat) (s : State) : Out :=
  let s := s.modScr (fun r => { r with drawW := draw })
  let r := s.scr
  if r.limitW < draw || 100 ≤ temp then
    let s := s.modScr (fun r => { r with throttle := true })
    if 1000 < s.clockMHz then .next { s with clockMHz := s.clockMHz - 50 }
    else .next (s.modScr (fun r => { r with duty := min 7 (r.duty + 1) }))
  else if 100 * draw < 95 * r.limitW && temp < 95 then
    let s := if 0 < r.duty then s.modScr (fun r => { r with duty := r.duty - 1 })
      else if s.clockMHz < 2000 then { s with clockMHz := s.clockMHz + 50 } else s
    .next (if s.clockMHz = 2000 && s.scr.duty = 0 then s.modScr (fun r => { r with throttle := false }) else s)
  else .next s
/-- THERMAL_CUTOFF: a junction at 115 degrees C or more cuts the module's power (R397); the subject is its temperature. -/
def execThermalCutoff (s : State) : Out := .next (if 115 ≤ s.subject then s.blank .off else s)
/-- MODULE_POWER_REMOVED: every block loses its state (R393). -/
def execModulePowerRemoved (s : State) : Out := .next (s.blank .off)
/-- LINK_RETRAIN: flits are replayed and none is lost or repeated: nothing but timing changes (R398). -/
def execLinkRetrain (s : State) : Out := .next s
/-- PATROL_SCRUB: scrubbing changes timing only; corrected errors are counted (R93). -/
def execPatrolScrub (s : State) : Out := .next (s.count none 0x19 s.subject)

end Sys2Proof.Machine
end

