-- ==== Sys2Proof/Machine/Clipper.lean ====
section
/-! DEFINITION. The Clipper: stages of a sweep and of demotion requests (R158 to R161). -/

namespace Sys2Proof.Machine

/-- The Clipper's accesses to a context's records and frames. -/
def clipMaster (die ctx : Nat) (user : Bool) : Master := ⟨128 + die, ctx, user, 1⟩
/-- A page move of the page is in progress: its engine has begun it, and it waits for frames or for a retained word; one that
is queued, or held at a PAGE_FAULT for its replay, is not (R158, R309; log 79). -/
def State.pageMoving (s : State) (ctx ksr pg : Nat) : Bool :=
  s.reqs.any (fun r => r.ctx = ctx && r.st == .allocating && (match r.op with | .pgmove k p _ => k = ksr && p = pg | _ => false))
/-- R158's eligibility. -/
def State.eligible (s : State) (ctx : Nat) (k : Ksr) (pg : Nat) (p : Pte) : Bool :=
  fwValid p.cur && !fwPinned p.cur && !fwValid p.next && (fwTier p.cur = 0 || fwTier p.cur = 1) &&
  k.isFull pg && !k.isSink pg && !k.isRecent pg && !p.nonfinite && !p.evicted && !s.pageMoving ctx k.addr pg
/-- What a sweep does with a page of mass M: nothing (none), a format step, or a move to the cold tier. -/
def Sweep.action (w : Sweep) (p : Pte) (m : Nat) : Option Bool :=
  match fwFormat p.cur with
  | 0 => if m < w.thBf16 then some false else none
  | 1 => if m < w.thE4m3 then some false else none
  | 2 => if m < w.thE2m3 then some false else none
  | _ => if fwTier p.cur = 0 && m < w.cold then some true else none
/-- What a request does with an eligible page (R160). -/
def reqAction (p : Pte) : Option Bool :=
  if fwFormat p.cur < 3 then some false else if fwTier p.cur = 0 then some true else none
/-- The format of the run a stage writes. -/
def stagedFormat (cold : Bool) (cur : DWord) : Nat := if cold then 3 else fwFormat cur + 1

/-! The encoding of a staged frame (R158, R47 to R49). -/

/-- Elements of one token of K or V under a format, with the scale bytes of its blocks. -/
def stageRow (fmt pg : Nat) (xs : List X) : List Nat × List Nat :=
  let mode (i : Nat) : Mode := .dith (i % 32) (pg % 32)
  if fmt = 1 then ([], xs.mapIdx (fun j x => enc fE4m3 (mode j) true x))
  else
    let e : Elem := if fmt = 2 then .e2m3 else .e2m1
    let bs := (List.range (xs.length / 32)).map (fun b => mxBlock e mode ((xs.drop (32 * b)).take 32))
    (bs.map (·.1), (bs.map (·.2)).flatten)
/-- Codes of one width as bytes, packed from the low end (R43). -/
def packBits (w : Nat) (l : List Nat) : List Byte :=
  nbytes (l.length * w / 8) (l.foldr (fun c r => c % 2 ^ w + 2 ^ w * r) 0)
/-- The scale bytes of a tile in its order (R151). -/
def scaleTile (dim : Nat) (rows : List (List Nat)) : List Byte :=
  let nb := dim / 32
  (List.range (64 * nb)).map (fun o =>
    BitVec.ofNat 8 ((rows.getD (o / (8 * nb) * 8 + o % 8) []).getD (o % (8 * nb) / 8) 0))
/-- The frame and scale pair of a page under a format. -/
def stageBytes (fmt pg : Nat) (p : Page) : List Byte × List Byte :=
  let row (v : Bool) (t : Nat) := stageRow fmt pg ((List.range p.dim).map (p.dec v t))
  let ks := (List.range 64).map (row false)
  let vs := (List.range 64).map (row true)
  let half (l : List (List Nat × List Nat)) : List Byte := l.flatMap (fun r => packBits (kvBits fmt) r.2)
  (half ks ++ half vs, if fmt < 2 then [] else scaleTile p.dim (ks.map (·.1)) ++ scaleTile p.dim (vs.map (·.1)))

/-! A stage: it begins at the word it reads, asks for a run, and ends with the test of R158. -/

/-- The engine that stages a page (R139). -/
def State.stageEngine (s : State) (u : Master) (k : Ksr) (pg : Nat) (p : Pte) : Nat := engineFor (s.pageDie u (k.pteVa pg)) (fwFrame p.cur)
/-- Begins a stage: a page that holds a NaN or infinity is marked and left (R161). -/
def State.beginStage (s : State) (u : Master) (k : Ksr) (pg : Nat) (p : Pte) (cold fromReq : Bool) : Except Bad State := do
  let d ← s.loadPage u k p
  let s := (s.sawKsr u k [pg]).touchLines (framePa (fwTier p.cur) (fwFrame p.cur)) (frameBytes (fwFormat p.cur) k.dim)
  if !d.finite then s.savePte u none (k.pteVa pg) p (p.flag 0 true)
  else
    let x : Staging := ⟨s.nextId, u.ctx, s.stageEngine u k pg p, k.addr, pg, p.cur, cold, fromReq⟩
    let s1 : State := { s with nextId := s.nextId + 1, staging := s.staging ++ [x] }
    s1.askRun (.stage s.nextId) u.ctx (if cold then 1 else fwTier p.cur) (frameUnits (stagedFormat cold p.cur) k.dim)
/-- The test at the end of a stage. -/
def stageHolds (g : Staging) (p : Pte) : Bool := p.cur = g.word && !fwValid p.next && !p.retained
/-- Ends a stage whose run has been granted: writes the run and the scales, and stages the word, or drops it. -/
def State.endStage (s : State) (u : Master) (g : Staging) (run : Nat) : Except Bad State := do
  let k ← s.readKsr u g.ksr
  let p ← s.readPte u (k.pteVa g.page)
  if !stageHolds g p then pure (s.dropAllocs (fun a => a.who = .stage g.id))
  else
    let f := stagedFormat g.cold p.cur
    let d ← s.loadPage u k p
    let x := if g.cold then (d.frame, []) else stageBytes f g.page d
    if !g.cold && 2 ≤ f && scaleBad k.dim p.nextScale then .error (bad .scaleLayout)
    let tier := if g.cold then 1 else fwTier p.cur
    let (_, s) ← s.writeRun u.ctx tier run (frameUnits f k.dim) x.1
    let r ← if x.2.isEmpty then pure (some 0, s) else s.engineWrite u (.stage (g.id + 2 ^ 64)) (k.scale + p.nextScale) x.2
    match r with
    | (none, s) => pure s
    | (some _, s) =>
      let w := if g.cold then fwMake (fwVersion p.cur + 1) (fwShared p.cur) (fwPinned p.cur) 3 1 run
        else fwMake (fwVersion p.cur + 1) false false f tier run
      let q := if g.cold then { p with next := w, nextScale := p.curScale } else { p with next := w }
      (s.useRun (.stage g.id)).savePte u none (k.pteVa g.page) p q
def State.dropStage (s : State) (id : Nat) : State :=
  { (s.dropAllocs (fun a => a.who = .stage id || a.who = .stage (id + 2 ^ 64))) with staging := s.staging.filter (fun g => g.id ≠ id) }
/-- A stage in progress goes on: it waits for its run, or asks for it again, ends, or fails. -/
def State.stepStage (s : State) (u : Master) (g : Staging) : Except Bad State :=
  match s.gotRun (.stage g.id) with
  | none =>
    if s.poolQ.any (fun a => a.who = .stage g.id) then .ok s
    else do
      let k ← s.readKsr u g.ksr
      s.askRun (.stage g.id) u.ctx (if g.cold then 1 else fwTier g.word) (frameUnits (stagedFormat g.cold g.word) k.dim)
  | some run => do
    let s1 ← s.endStage u g run
    if s1.poolQ.any (fun a => a.who = .stage g.id) then pure s1
    else pure { s1 with staging := s1.staging.filter (fun x => x.id ≠ g.id) }

/-! The sweep (R158). -/

def State.modSweep (s : State) (c : Nat) (f : Sweep → Sweep) : State := s.modCtx c (fun x => { x with sweep := x.sweep.map f })
/-- The sweep's M of a page. -/
def Sweep.mass (w : Sweep) (ksr pg : Nat) : Nat := ((w.ms.find? (fun m => m.1 = ksr && m.2.1 = pg)).map (·.2.2)).getD 0
def Sweep.swept (w : Sweep) (ksr pg : Nat) : Bool := w.ms.any (fun m => m.1 = ksr && m.2.1 = pg)
/-- The first page from a page on that the sweep would stage, with its entry and action; the page count where
there is none. -/
def State.sweepNext (s : State) (u : Master) (w : Sweep) (k : Ksr) : Nat → Nat → Except Bad (Nat × Option (Pte × Bool))
  | 0, pg => .ok (pg, none)
  | n + 1, pg => do
    let r ← s.clipPte u k pg
    let act := match r with
      | some p => if s.eligible u.ctx k pg p && w.swept k.addr pg then (w.action p (w.mass k.addr pg)).map (fun c => (p, c)) else none
      | none => none
    match act with
    | some x => pure (pg, some x)
    | none => s.sweepNext u w k n (pg + 1)
/-- The record at hand fails: it is reported, and the sweep goes on with the next (R144, R214). -/
def State.sweepFail (s : State) (c : Nat) (w : Sweep) (b : Bad) : State :=
  let ids := (s.staging.filter (fun g => g.ctx = c && !g.fromReq)).map (·.id)
  let s := ids.foldl (fun s i => s.dropStage i) s
  (s.modSweep c (fun w => { w with list := w.list.drop 1, page := 0 })).sweepReport (unitOf c w.user (w.list.headD 0)) w.launch w.crew (w.list.headD 0) b
/-- A fault that a sweep meets; or its access is to be made again (R109, R392). -/
def State.sweepMet (s : State) (c : Nat) (w : Sweep) (b : Bad) : State :=
  match s.later (.sweep c) b with
  | some s => s
  | none => (s.answered (.sweep c)).sweepFail c w b
/-- One step of a context's sweep, for its format steps or for its cold moves; it waits at a page that it would stage until its
turn at the engine has come (R139, Table 07.1). -/
def State.sweepStep (s : State) (c : Nat) (cold : Bool) : State :=
  match (s.ctx c).sweep with
  | none => s
  | some w =>
    match w.list with
    | [] => s
    | a :: as =>
      let u := unitOf c w.user a
      match s.staging.find? (fun g => g.ctx = c && !g.fromReq) with
      | some g =>
        if g.cold != cold then s
        else match s.stepStage u g with
          | .error b => s.sweepMet c w b
          | .ok t => let t := t.answered (.sweep c)
            if t.staging.any (fun x => x.id = g.id) then t else t.modSweep c (fun w => { w with page := g.page + 1 })
      | none =>
        let r : Except Bad State := do
          let k ← s.readKsr u a
          let x ← s.sweepNext u w k (k.pages - w.page) w.page
          match x.2 with
          | none => pure (s.modSweep c (fun w => { w with list := as, page := 0 }))
          | some (p, d) =>
            let s1 := s.modSweep c (fun w => { w with page := x.1 })
            if d != cold || p.retained || s.engineBusy (s.stageEngine u k x.1 p) then pure s1
            else
              let t ← s1.beginStage u k x.1 p d false
              pure (if t.staging.any (fun g => g.ctx = c && !g.fromReq) then t else t.modSweep c (fun w => { w with page := x.1 + 1 }))
        match r with
        | .error b => s.sweepMet c w b
        | .ok t => t.answered (.sweep c)
/-- STAGE: the sweep of a context stages a format step, or passes the pages before it (R158). -/
def execStage (c : Nat) (s : State) : Out := .next (s.sweepStep c false)
/-- STAGE_COLD (R158). -/
def execStageCold (c : Nat) (s : State) : Out := .next (s.sweepStep c true)
/-- SWEEP_END: a sweep with no record left has ended (R157). -/
def execSweepEnd (c : Nat) (s : State) : Out :=
  match (s.ctx c).sweep with
  | some w => if w.list.isEmpty then .next (s.modCtx c (fun x => { x with sweep := none })) else .next s
  | none => .next s

/-! Demotion requests (R160). -/

/-- The oldest request of a die is done with: DEMREQ_PENDING is cleared, and a discard counted. -/
def State.demDone (s : State) (u : Master) (d : DemReq) (dropped : Bool) : State :=
  let s := { s with demreqs := s.demreqs.erase d }
  let s := if dropped then s.count (some d.ctx) 0x14 1 else s
  let r : Except Bad State := do
    let k ← s.readKsr u d.ksr
    let p ← s.readPte u (k.pteVa d.page)
    s.savePte u none (k.pteVa d.page) p (p.flag 2 false)
  match r with
  | .ok s => s
  | .error _ => s
def State.demServe (s : State) (u : Master) (d : DemReq) : Except Bad State := do
  match s.staging.find? (fun g => g.ctx = d.ctx && g.fromReq && g.ksr = d.ksr && g.page = d.page) with
  | some g =>
    let t ← s.stepStage u g
    pure (if t.staging.any (fun x => x.id = g.id) then t else t.demDone u d false)
  | none =>
    if !(s.ctx d.ctx).stepped || !(s.ctx d.ctx).sweepList.contains d.ksr then pure (s.demDone u d true)
    else
      let k ← s.readKsr u d.ksr
      match ← s.clipPte u k d.page with
      | none => pure (s.demDone u d true)
      | some p =>
        match (if s.eligible d.ctx k d.page p then reqAction p else none) with
        | none => pure (s.demDone u d true)
        | some cold =>
          if p.retained || s.engineBusy (s.stageEngine u k d.page p) then pure s
          else
            let t ← s.beginStage u k d.page p cold true
            pure (if t.staging.any (fun g => g.ctx = d.ctx && g.fromReq && g.ksr = d.ksr && g.page = d.page) then t else t.demDone u d false)
/-- DEMREQ_SERVE: the Clipper part of a die serves its oldest request (R160). -/
def execDemreqServe (die : Nat) (s : State) : Out :=
  match s.demreqs.find? (fun d => d.die = die) with
  | none => .next s
  | some d =>
    let u := clipMaster die d.ctx d.user
    match s.demServe u d with
    | .ok s => .next (s.answered (.demand die))
    | .error b =>
      match s.later (.demand die) b with
      | some s => .next s
      | none =>
      let s := s.answered (.demand die)
      let ids := (s.staging.filter (fun g => g.ctx = d.ctx && g.fromReq && g.ksr = d.ksr && g.page = d.page)).map (·.id)
      .next (((ids.foldl (fun s i => s.dropStage i) s).demDone u d false).sweepReport u d.launch d.crew d.ksr b)

end Sys2Proof.Machine
end

