-- ==== Sys2Proof/Machine/Control.lean ====
section
/-! DEFINITION. Group 3: control (spec 14.9). -/

namespace Sys2Proof.Machine

/-- The lowest active lane of a slice, where the guard holds there (R30, R278). -/
def Warp.leader (w : Warp) (h : Hdr) (i : Nat) : Option Nat :=
  match w.lowLane i with
  | some l => if guardAt w h l then some l else none
  | none => none
/-- A transfer that does not split: each slice goes to the target its leader gives, or falls through; `link` is
the pair that the active lanes of a branching slice receive, with the distance of the return address (R278). -/
def branchOp (i : Instr) (h : Hdr) (link : Cur → Option (Reg × Nat)) (target : Warp → Nat → DWord → DWord) (s : State) : Out :=
  issue i s fun g s =>
    let w := s.warp g.warp
    let tgt (j : Nat) (x : Slice) : Option DWord := (w.leader h j).map (fun l => target w l x.pc)
    let lanes := (w.active g.slices).filter (fun l => (tgt (l / 4) (w.slice (l / 4))).isSome)
    let ws := match link g with
      | some (d, n) => laneWrites w lanes (fun w l => outP d ((w.slice (l / 4)).pc + BitVec.ofNat 64 n))
      | none => []
    .next (((s.retire g).wrLanes g.warp ws).moveTo g (fun j x =>
      { x with pc := (tgt j x).getD (x.pc + BitVec.ofNat 64 g.len) }))
def offset (pc : DWord) (off : Word) : DWord := pc + off.signExtend 64

/-- BRA (R278). -/
def execBra (f : Bra) : State → Out := branchOp (.bra f) f.h (fun _ => none) (fun _ _ pc => offset pc f.off)
/-- BRX (R278). -/
def execBrx (f : OnlyA) : State → Out := branchOp (.brx f) f.h (fun _ => none) (fun w l _ => w.pair f.a l)
/-- CALL: the return address is pc + 12, and the next Uaten-2 address in an X2 page (R278, R237). -/
def execCall (f : Call) : State → Out :=
  branchOp (.call f) f.h (fun g => some (f.d, if g.u2 then 8 else 12)) (fun _ _ pc => offset pc f.off)
/-- CALLX: the return address is pc + 8 (R278). -/
def execCallx (f : CallX) : State → Out := branchOp (.callx f) f.h (fun _ => some (f.d, 8)) (fun w l _ => w.pair f.a l)
/-- RET (R278). -/
def execRet (f : OnlyA) : State → Out := branchOp (.ret f) f.h (fun _ => none) (fun w l _ => w.pair f.a l)

/-- dbra of R29 for one slice. -/
def Slice.dbra (x : Slice) (target join next : DWord) (taken : BitVec 4) : Slice :=
  if taken = x.mask then { x with pc := target }
  else if taken = 0 then { x with pc := next }
  else { x with stack := ⟨next, x.mask &&& ~~~taken⟩ :: ⟨join, x.mask⟩ :: x.stack, mask := taken, pc := target }
/-- join of R29 for one slice. -/
def Slice.join (x : Slice) (j next : DWord) : Slice :=
  match x.stack with
  | p :: r :: st =>
    if x.stack.length % 2 = 0 then
      (if r.pc = j then { x with pc := p.pc, mask := p.mask, stack := r :: st } else { x with pc := next })
    else if p.pc = j then { x with mask := p.mask, stack := r :: st, pc := next } else { x with pc := next }
  | [r] => if r.pc = j then { x with mask := r.mask, stack := [], pc := next } else { x with pc := next }
  | [] => { x with pc := next }
/-- The lanes of a list that lie in a slice, as its 4-bit mask. -/
def sliceMask (lanes : List Nat) (i : Nat) : BitVec 4 :=
  BitVec.ofNat 4 (maskOf ((lanes.filter (fun l => l / 4 = i)).map (· % 4)))
/-- The slices of a gang whose DBRA would push beyond the stack (R29). -/
def dbraOver (w : Warp) (g : Cur) (lanes : List Nat) : List Nat :=
  (List.range 8).filter (fun i => g.slices.getLsbD i && sliceMask lanes i != 0 &&
    sliceMask lanes i != (w.slice i).mask && 14 < (w.slice i).stack.length)
/-- DBRA (R279, R29). -/
def execDbra (f : Dbra) (s : State) : Out :=
  issue (.dbra f) s fun g s =>
    let w := s.warp g.warp
    let taken := s.taking g f.h
    match dbraOver w g taken with
    | [] => .next ((s.retire g).moveTo g (fun i x =>
        x.dbra (offset x.pc f.tgt) (offset x.pc f.join) (x.pc + BitVec.ofNat 64 g.len) (sliceMask taken i)))
    | l => raise s g { code := .divStackOverflow, lanes := (w.active g.slices).filter (fun k => l.contains (k / 4)) }
/-- JOIN (R279, R29). -/
def execJoin (f : Bare) (s : State) : Out :=
  issue (.join f) s fun g s =>
    .next ((s.retire g).moveTo g (fun _ x => x.join x.pc (x.pc + BitVec.ofNat 64 g.len)))

/-- EXIT: the taking-part lanes of each slice exit; the warp, the crew and the launch may end (R280, R19). -/
def execExit (f : Bare) (s : State) : Out :=
  issue (.exit f) s fun g s =>
    let lanes := s.taking g f.h
    let len := s.joinLen g.warp
    let s := (s.retire g).moveTo g (fun i x =>
      let y := { x with pc := x.pc + BitVec.ofNat 64 g.len }
      if sliceMask lanes i = 0 then y else y.exitMask len (sliceMask lanes i))
    .next (s.warpGone g.warp).settle
/-- REGANG: each slice whose leader's guard holds stops with its mask, and the instruction retires there, for the
counts (R281, R33, R34, R184; log 95). -/
def execRegang (f : OnlyA) (s : State) : Out :=
  issue (.regang f) s fun g s =>
    let w := s.warp g.warp
    let s := (s.retire g).moveTo g (fun i x =>
      match w.leader f.h i with
      | some l => { x with wait := .regang ((w.rg f.a.toNat l).setWidth 8) g.len }
      | none => { x with pc := x.pc + BitVec.ofNat 64 g.len })
    .next (s.modWarp g.warp (fun w =>
      { w with slices := w.slices.mapIdx (fun i x => if g.slices.getLsbD i && x.atRegang then { x with gang := i } else x) })).settle
/-- YIELD: the warp gives its loom slot to a ready creel warp (R282). -/
def execYield (f : Bare) (s : State) : Out :=
  issue (.yield f) s fun g s =>
    let act := !(s.taking g f.h).isEmpty
    let s := (s.retire g).advance g
    match (if act then s.swapPick (s.coreOf g.warp) (quarterOf s g.warp) else none) with
    | some k => .next ((s.toCreel g.warp).enter k)
    | none => .next s
/-- CANPT: a cancellation point (R282, R181). -/
def execCanpt (f : Bare) (s : State) : Out :=
  issue (.canpt f) s fun g s => if (s.taking g f.h).isEmpty then finish s g else cancelPoint s g (finish s g)
/-- HEART: sets the launch's watchdog timer to 0 (R282, R201). -/
def execHeart (f : Bare) (s : State) : Out :=
  issue (.heart f) s fun g s =>
    if (s.taking g f.h).isEmpty then finish s g
    else finish (s.modLaunch g.ctx g.crewK.launch (fun x => { x with timer := 0 })) g
/-- TRAP: takes the TRAP exception if any lane takes part (R283). -/
def execTrap (f : Code8) (s : State) : Out :=
  issue (.trap f) s fun g s =>
    let l := s.taking g f.h
    if l.isEmpty then finish s g else raise s g { code := .trap, lanes := l }
/-- BKPT: takes the BKPT exception if any lane takes part (R283). -/
def execBkpt (f : Bare) (s : State) : Out :=
  issue (.bkpt f) s fun g s =>
    let l := s.taking g f.h
    if l.isEmpty then finish s g else raise s g { code := .bkpt, lanes := l }

end Sys2Proof.Machine
end

