-- ==== Sys2Proof/Machine/Float.lean ====
section
/-! DEFINITION. Group 1: floating-point instructions (spec 14.5). -/

namespace Sys2Proof.Machine


/-- FADD: rne(a + b) (R262). -/
def execFadd (f : Bin) : State → Out := binOp (.fadd f) f (fmap2 f.t (addX false))

/-- FADD with an immediate (R262). -/
def execFadd96i (f : BinI) : State → Out := binImm (.fadd96i f) f (fmap2 f.t (addX false))

/-- FSUB: rne(a − b) (R262). -/
def execFsub (f : Bin) : State → Out := binOp (.fsub f) f (fmap2 f.t subX)

/-- FSUB with an immediate (R262). -/
def execFsub96i (f : BinI) : State → Out := binImm (.fsub96i f) f (fmap2 f.t subX)

/-- FMUL: rne(a · b) (R262). -/
def execFmul (f : Bin) : State → Out := binOp (.fmul f) f (fmap2 f.t mulX)

/-- FMUL with an immediate (R262). -/
def execFmul96i (f : BinI) : State → Out := binImm (.fmul96i f) f (fmap2 f.t mulX)

/-- a · b + c, rounded once under a mode (R262). -/
def fma (t : Ty) (rm : Rm) : Word → Word → Word → Word :=
  fmap3 t rm (fun a b c => addX (rm == .rd) (mulX a b) c)

/-- FFMA with its rounding code (R262). -/
def execFfma (f : Tern) : State → Out := ternOp (.ffma f) f (fma f.t (rmOf (bits f.sel 0 2)))

/-- FMIN and FMAX of codes: an operand's own value, or canonical NaN (R263). -/
def fpick (t : Ty) (p : X → X → X) : Nat → Nat → Nat := fun a b =>
  let m := tyFmt t
  if (dec m a).isNan && (dec m b).isNan then m.nan.getD 0
  else if p (dec m a) (dec m b) = dec m a then a else b
def fmin2 (t : Ty) : Word → Word → Word := emap2 (tyWidth t) (fpick t fminX)
def fmax2 (t : Ty) : Word → Word → Word := emap2 (tyWidth t) (fpick t fmaxX)

/-- FMIN (R263). -/
def execFmin (f : Bin) : State → Out := binOp (.fmin f) f (fmin2 f.t)

/-- FMAX (R263). -/
def execFmax (f : Bin) : State → Out := binOp (.fmax f) f (fmax2 f.t)

/-- FCLAMP: fmin(fmax(a, b), c) (R263). -/
def execFclamp (f : Tern) : State → Out := ternOp (.fclamp f) f (fun a b c => fmin2 f.t (fmax2 f.t a b) c)

/-- FCMP in both modes (R264). -/
def execFcmp (f : Cmp) : State → Out := cmpOp (.fcmp f) f (fun w l => fcmpBits f.m0 (f32 (w.rg f.a.toNat l)) (f32 (w.rg f.b.toNat l)))

/-- FCMP with an immediate (R264). -/
def execFcmp96i (f : CmpI) : State → Out := cmpImm (.fcmp96i f) f (fun w l => fcmpBits f.m0 (f32 (w.rg f.a.toNat l)) (f32 f.imm))

/-- FRCP, long-latency (R59, R265). -/
def execFrcp (f : Un) : State → Out := longOp (.frcp f) f.h [f.d.toNat] (fun w l => outW f.d ((fun a => rne (divX oneX (f32 a))) (w.rg f.a.toNat l)))

/-- FRSQ, long-latency (R59, R265). -/
def execFrsq (f : Un) : State → Out := longOp (.frsq f) f.h [f.d.toNat] (fun w l => outW f.d ((fun a => rne (rsqrtX (f32 a))) (w.rg f.a.toNat l)))

/-- FSQRT, long-latency (R59, R265). -/
def execFsqrt (f : Un) : State → Out := longOp (.fsqrt f) f.h [f.d.toNat] (fun w l => outW f.d ((fun a => rne (sqrtX (f32 a))) (w.rg f.a.toNat l)))

/-- FEXP2, long-latency (R56, R265). -/
def execFexp2 (f : Un) : State → Out := longOp (.fexp2 f) f.h [f.d.toNat] (fun w l => outW f.d ((fun a => rne (fexp2X (f32 a))) (w.rg f.a.toNat l)))

/-- FLOG2, long-latency (R57, R265). -/
def execFlog2 (f : Un) : State → Out := longOp (.flog2 f) f.h [f.d.toNat] (fun w l => outW f.d ((fun a => rne (flog2X (f32 a))) (w.rg f.a.toNat l)))

/-- FTANH, long-latency (R58, R265). -/
def execFtanh (f : Un) : State → Out := longOp (.ftanh f) f.h [f.d.toNat] (fun w l => outW f.d ((fun a => rne (ftanhX (f32 a))) (w.rg f.a.toNat l)))

/-- FRND: to an integral value under a mode (R266). -/
def execFrnd (f : Frnd) : State → Out := laneOp (.frnd f) f.h (fun w l =>
  outW f.d (rne (roundIntX (.rm f.rm) (f32 (w.rg f.a.toNat l)))))

/-- FSCALE: rne(a · 2^b); every result is the same beyond ±400 (R262). -/
def execFscale (f : Bin) : State → Out := binOp (.fscale f) f (fun a b => rne ((f32 a).scale (clampI (-400) 400 (intOf true 32 b.toNat))))

/-- FCLASS (R266). -/
def execFclass (f : Un) : State → Out := unOp (.fclass f) f (fun a => 1#32 <<< fclassBit a)

/-- FDOT2: chunk16(c, [a0·b0, a1·b1]) (R266). -/
def execFdot2 (f : Tern) : State → Out := ternOp (.fdot2 f) f (fun a b c =>
  let m := tyFmt f.t
  rne (chunkSum (f32 c) (List.zipWith (fun x y => mulX (dec m x) (dec m y)) (elems 16 a) (elems 16 b))))

/-- PADD2, by elements (R267). -/
def execPadd2 (f : Bin) : State → Out := binOp (.padd2 f) f (fmap2 f.t (addX false))

/-- PADD2 with an immediate (R267). -/
def execPadd296i (f : BinI) : State → Out := binImm (.padd296i f) f (fmap2 f.t (addX false))

/-- PMUL2, by elements (R267). -/
def execPmul2 (f : Bin) : State → Out := binOp (.pmul2 f) f (fmap2 f.t mulX)

/-- PMUL2 with an immediate (R267). -/
def execPmul296i (f : BinI) : State → Out := binImm (.pmul296i f) f (fmap2 f.t mulX)

/-- PFMA2; BLO takes element 0 of B for both (R267). -/
def execPfma2 (f : Tern) : State → Out := ternOp (.pfma2 f) f (fun a b c =>
  let b' := if f.sat then packElems 16 [b.toNat % 2 ^ 16, b.toNat % 2 ^ 16] else b
  fma f.t .rne a b' c)

/-- PMIN2 (R267). -/
def execPmin2 (f : Bin) : State → Out := binOp (.pmin2 f) f (fmin2 f.t)

/-- PMAX2 (R267). -/
def execPmax2 (f : Bin) : State → Out := binOp (.pmax2 f) f (fmax2 f.t)

end Sys2Proof.Machine
end

