-- ==== Sys2Proof/Machine/Int.lean ====
section
/-! DEFINITION. Group 0: integer, logic and move instructions (spec 14.1 to 14.4). -/

namespace Sys2Proof.Machine

/-- IADD: a + b by elements (R254). -/
def execIadd (f : Bin) : State → Out := binOp (.iadd f) f (imap2 f.t false (· + ·))

/-- IADD with an immediate (R254). -/
def execIadd96i (f : BinI) : State → Out := binImm (.iadd96i f) f (imap2 f.t false (· + ·))

/-- ISUB: a − b by elements (R254). -/
def execIsub (f : Bin) : State → Out := binOp (.isub f) f (imap2 f.t false (· - ·))

/-- ISUB with an immediate (R254). -/
def execIsub96i (f : BinI) : State → Out := binImm (.isub96i f) f (imap2 f.t false (· - ·))

/-- IMUL: the low bits of a · b by elements (R254). -/
def execImul (f : Bin) : State → Out := binOp (.imul f) f (imap2 f.t false (· * ·))

/-- IMUL with an immediate (R254). -/
def execImul96i (f : BinI) : State → Out := binImm (.imul96i f) f (imap2 f.t false (· * ·))

/-- IMIN: the lesser by elements (R254). -/
def execImin (f : Bin) : State → Out := binOp (.imin f) f (imap2 f.t false min)

/-- IMIN with an immediate (R254). -/
def execImin96i (f : BinI) : State → Out := binImm (.imin96i f) f (imap2 f.t false min)

/-- IMAX: the greater by elements (R254). -/
def execImax (f : Bin) : State → Out := binOp (.imax f) f (imap2 f.t false max)

/-- IMAX with an immediate (R254). -/
def execImax96i (f : BinI) : State → Out := binImm (.imax96i f) f (imap2 f.t false max)

/-- IMULHI: bits [63:32] of the exact product (R254). -/
def execImulhi (f : Bin) : State → Out := binOp (.imulhi f) f (fun a b =>
  BitVec.ofInt 32 ((intOf (tySigned f.t) 32 a.toNat * intOf (tySigned f.t) 32 b.toNat) / 2 ^ 32))

/-- IABS, saturating under SAT (R254). -/
def execIabs (f : Un) : State → Out := unOp (.iabs f) f (fun a =>
  emap1 (tyWidth f.t) (fun x => reduce f.m4 true (tyWidth f.t) (intOf true (tyWidth f.t) x).natAbs) a)

/-- ISAD: |a − b| + c (R254). -/
def execIsad (f : Tern) : State → Out := ternOp (.isad f) f (imap3 f.t false (fun a b c => (a - b).natAbs + c))

/-- ICLAMP: min(max(a, b), c) (R254). -/
def execIclamp (f : Tern) : State → Out := ternOp (.iclamp f) f (imap3 f.t false (fun a b c => min (max a b) c))

/-- IMAD: a · b + c (R254). -/
def execImad (f : Tern) : State → Out := ternOp (.imad f) f (imap3 f.t f.sat (fun a b c => a * b + c))

/-- A 64-bit result of an exact integer (R255). -/
def res64 (t : Ty) (sat : Bool) (v : Int) : DWord := BitVec.ofNat 64 (reduce sat (tySigned t) 64 v)
def int64 (t : Ty) (x : DWord) : Int := intOf (tySigned t) 64 x.toNat

/-- IADD64: pair D := A + B (R255). -/
def execIadd64 (f : Bin) : State → Out := laneOp (.iadd64 f) f.h (fun w l =>
  outP f.d (res64 f.t f.m4 (int64 f.t (w.pair f.a l) + int64 f.t (w.pair f.b l))))

/-- IADD64 with a 64-bit immediate (R255). -/
def execIadd64128i (f : BinL) : State → Out := laneOp (.iadd64128i f) f.h (fun w l =>
  outP f.d (res64 f.t f.m4 (int64 f.t (w.pair f.a l) + int64 f.t f.imm)))

/-- ISUB64: pair D := A − B (R255). -/
def execIsub64 (f : Bin) : State → Out := laneOp (.isub64 f) f.h (fun w l =>
  outP f.d (res64 f.t f.m4 (int64 f.t (w.pair f.a l) - int64 f.t (w.pair f.b l))))

/-- IMADW: pair D := ext(a) · ext(b) + C (R255). -/
def execImadw (f : Tern) : State → Out := laneOp (.imadw f) f.h (fun w l =>
  let g := tySigned f.t
  outP f.d (BitVec.ofNat 64 (reduce f.sat g 64
    (intOf g 32 (w.src false f.a l).toNat * intOf g 32 (w.src f.ub f.b l).toNat + intOf g 64 (w.pair f.c l).toNat))))

/-- LEA: pair D := A + (ext(b) << s) (R255). -/
def execLea (f : Tern) : State → Out := laneOp (.lea f) f.h (fun w l =>
  outP f.d (w.pair f.a l + BitVec.ofInt 64 (intOf (tySigned f.t) 32 (w.src false f.b l).toNat * 2 ^ f.sel.toNat)))

/-! Shifts of an element of width w by n (R256): n ≥ w leaves 0, or copies of the sign. -/

def shlE (w x n : Nat) : Nat := if n ≥ w then 0 else x * 2 ^ n % 2 ^ w
def shrE (w x n : Nat) : Nat := if n ≥ w then 0 else x / 2 ^ n
def sarE (w x n : Nat) : Nat := lowBits w (intOf true w x / 2 ^ (min n w))
def rotE (w x n : Nat) : Nat := (x * 2 ^ (n % w) + x / 2 ^ (w - n % w)) % 2 ^ w
def shiftBy (t : Ty) (e : Nat → Nat → Nat → Nat) : Word → Word → Word :=
  emap2 (tyWidth t) (fun x n => e (tyWidth t) x (n % 256))

/-- SHL: shift left by elements (R256). -/
def execShl (f : Bin) : State → Out := binOp (.shl f) f (shiftBy f.t shlE)

/-- SHL with an immediate (R256). -/
def execShl96i (f : BinI) : State → Out := binImm (.shl96i f) f (shiftBy f.t shlE)

/-- SHR: shift right by elements (R256). -/
def execShr (f : Bin) : State → Out := binOp (.shr f) f (shiftBy f.t shrE)

/-- SHR with an immediate (R256). -/
def execShr96i (f : BinI) : State → Out := binImm (.shr96i f) f (shiftBy f.t shrE)

/-- SAR: arithmetic shift right by elements (R256). -/
def execSar (f : Bin) : State → Out := binOp (.sar f) f (shiftBy f.t sarE)

/-- SAR with an immediate (R256). -/
def execSar96i (f : BinI) : State → Out := binImm (.sar96i f) f (shiftBy f.t sarE)

/-- ROT: rotate left by elements (R256). -/
def execRot (f : Bin) : State → Out := binOp (.rot f) f (shiftBy f.t rotE)

/-- ROT with an immediate (R256). -/
def execRot96i (f : BinI) : State → Out := binImm (.rot96i f) f (shiftBy f.t rotE)

/-- FSHF: a shift of the pair c:a (R256). -/
def execFshf (f : Tern) : State → Out := ternOp (.fshf f) f (fun a b c =>
  let x : DWord := .ofHalves a c
  let n := b.toNat % 64
  if f.sel.getLsbD 0 then DWord.hi (x <<< n) else DWord.lo (x >>> n))

/-- AND, bitwise (R256). -/
def execAnd (f : Bin) : State → Out := binOp (.and f) f (· &&& ·)

/-- AND with an immediate (R256). -/
def execAnd96i (f : BinI) : State → Out := binImm (.and96i f) f (· &&& ·)

/-- OR, bitwise (R256). -/
def execOr (f : Bin) : State → Out := binOp (.or f) f (· ||| ·)

/-- OR with an immediate (R256). -/
def execOr96i (f : BinI) : State → Out := binImm (.or96i f) f (· ||| ·)

/-- XOR, bitwise (R256). -/
def execXor (f : Bin) : State → Out := binOp (.xor f) f (· ^^^ ·)

/-- XOR with an immediate (R256). -/
def execXor96i (f : BinI) : State → Out := binImm (.xor96i f) f (· ^^^ ·)

/-- NOT (R256). -/
def execNot (f : Un) : State → Out := unOp (.not f) f (fun a => ~~~a)

/-- Bits of a word built from a predicate on positions. -/
def wordOf (p : Nat → Bool) : Word := (List.range 32).foldl (fun m i => if p i then m ||| (1#32 <<< i) else m) 0

/-- BOOL3: a table of three bits (R256). -/
def execBool3 (f : Tern) : State → Out := ternOp (.bool3 f) f (fun a b c => wordOf (fun i =>
  f.sel.getLsbD ((c.getLsbD i).toNat * 4 + (b.getLsbD i).toNat * 2 + (a.getLsbD i).toNat)))

def popcount (x : Word) : Nat := ((List.range 32).filter (fun i => x.getLsbD i)).length
def leadingZeros (x : Word) : Nat := ((List.range 32).find? (fun i => x.getLsbD (31 - i))).getD 32

/-- POPC (R256). -/
def execPopc (f : Un) : State → Out := unOp (.popc f) f (fun a => BitVec.ofNat 32 (popcount a))

/-- CLZ (R256). -/
def execClz (f : Un) : State → Out := unOp (.clz f) f (fun a => BitVec.ofNat 32 (leadingZeros a))

/-- BREV (R256). -/
def execBrev (f : Un) : State → Out := unOp (.brev f) f (fun a => wordOf (fun i => a.getLsbD (31 - i)))

/-- The control word of R257: position and width. -/
def bfPos (b : Word) : Nat := b.toNat % 32
def bfWidth (b : Word) : Nat := min (b.toNat / 2 ^ 16 % 64) 32
/-- BFE of R257. -/
def bfe (sgn : Bool) (a b : Word) : Word :=
  let width := bfWidth b
  let x : Int := intOf sgn 32 a.toNat
  if width = 0 then 0 else BitVec.ofInt 32 (intOf sgn width (lowBits width (x / 2 ^ bfPos b)))

/-- BFE (R257). -/
def execBfe (f : Bin) : State → Out := binOp (.bfe f) f (bfe (tySigned f.t))

/-- BFE with an immediate control (R257). -/
def execBfe96i (f : BinI) : State → Out := binImm (.bfe96i f) f (bfe (tySigned f.t))

/-- BFI (R257). -/
def execBfi (f : Tern) : State → Out := ternOp (.bfi f) f (fun a b c => wordOf (fun i =>
  if bfPos c ≤ i && i < bfPos c + bfWidth c then b.getLsbD (i - bfPos c) else a.getLsbD i))

/-- BYSEL (R257). -/
def execBysel (f : Tern) : State → Out := ternOp (.bysel f) f (fun a b c =>
  let x := elems 8 a ++ elems 8 b
  packElems 8 ((List.range 4).map (fun k =>
    let n := c.toNat / 2 ^ (4 * k) % 16
    if n ≥ 8 then 0 else x.getD n 0)))

/-- ICMP (R258). -/
def execIcmp (f : Cmp) : State → Out := cmpOp (.icmp f) f (fun w l => icmpBits f.m0 32 (w.rg f.a.toNat l).toNat (w.rg f.b.toNat l).toNat)

/-- ICMP with an immediate (R258). -/
def execIcmp96i (f : CmpI) : State → Out := cmpImm (.icmp96i f) f (fun w l => icmpBits f.m0 32 (w.rg f.a.toNat l).toNat f.imm.toNat)

/-- ICMP64 (R258). -/
def execIcmp64 (f : Cmp) : State → Out := cmpOp (.icmp64 f) f (fun w l => icmpBits f.m0 64 (w.pair f.a l).toNat (w.pair f.b l).toNat)

/-- PLOP (R259). -/
def execPlop (f : Plop) : State → Out := laneOp (.plop f) f.h (fun w l =>
  let x := w.rg f.d.toNat l
  outW f.d (setBit x f.k.toNat (plopBit f.op (x.getLsbD f.k.toNat) ((w.rg f.a.toNat l).getLsbD f.i.toNat))))

/-- ISEL: a if bit k of c is 1, else b (R260). -/
def execIsel (f : Tern) : State → Out := ternOp (.isel f) f (fun a b c => if c.getLsbD f.sel.toNat then a else b)

/-- MOV, of a uniform operand under U (R260). -/
def execMov (f : Un) : State → Out := laneOp (.mov f) f.h (fun w l => outW f.d (w.src f.m4 f.a l))

/-- MOVI (R260). -/
def execMovi (f : Movi) : State → Out := laneOp (.movi f) f.h (fun _ _ => outW f.d f.imm)

/-- MOVI64 (R260). -/
def execMovi64 (f : Movl) : State → Out := laneOp (.movi64 f) f.h (fun _ _ => outP f.d f.imm)

/-- NOP: no effect; as 128S only a safe point (R260). -/
def execNop (f : Bare) : State → Out := laneOp (.nop f) f.h (fun _ _ => [])

/-- NOP in the 96I form (R260). -/
def execNop96i (f : NopI) : State → Out := laneOp (.nop96i f) f.h (fun _ _ => [])

/-- NOP in the 128I form (R260). -/
def execNop128i (f : NopL) : State → Out := laneOp (.nop128i f) f.h (fun _ _ => [])

/-- c + Σ a_j · b_j, exact, reduced to S32 (R261). -/
def idp (t : Ty) (sat bs : Bool) (a b c : Word) : Word :=
  let w := tyWidth t
  let p := List.zipWith (fun x y => intOf (tySigned t) w x * intOf bs w y) (elems w a) (elems w b)
  BitVec.ofNat 32 (reduce sat true 32 (p.foldl (· + ·) (intOf true 32 c.toNat)))

/-- IDP4 (R261). -/
def execIdp4 (f : Tern) : State → Out := ternOp (.idp4 f) f (idp f.t f.sat (f.sel.getLsbD 0))

/-- IDP2 (R261). -/
def execIdp2 (f : Tern) : State → Out := ternOp (.idp2 f) f (idp f.t f.sat (f.sel.getLsbD 0))

end Sys2Proof.Machine
end

