-- ==== Sys2Proof/Machine/Lane.lean ====
section
/-! DEFINITION. Group 2: conversions, lane instructions, special registers and the transform pipe (spec 14.6 to
14.8). -/

namespace Sys2Proof.Machine

/-! Conversions. -/

/-- The rounding of a conversion: a mode, or dither with an element index and phase (R47). -/
def cvMode (dith : Bool) (rm : Rm) (i p : Nat) : Mode := if dith then .dith i p else .rm rm
/-- The value of a register operand of a type, as one number. -/
def Warp.val (w : Warp) (t : Ty) (r : Reg) (l : Nat) : Nat :=
  if tyRegs t = 2 then (w.pair r l).toNat else (w.rg r.toNat l).toNat
/-- Writes a value of a type to a register or pair. -/
def outT (t : Ty) (d : Reg) (v : Nat) : List (Nat × Word) :=
  if tyRegs t = 2 then outP d (BitVec.ofNat 64 v) else outW d (BitVec.ofNat 32 v)
/-- CVT: each element by R52, the element index lane · n + j under DITH (R268). -/
def execCvt (f : Cvt) : State → Out := laneOp (.cvt f) f.h (fun w l =>
  let n := tyElems f.td
  let ws := tyWidth f.ts
  let wd := tyWidth f.td
  let x := w.val f.ts f.a l
  let e (j : Nat) : Nat := convElem f.td f.ts (cvMode f.dith f.rm (l * n + j) 0) f.sat (x / 2 ^ (ws * j) % 2 ^ ws)
  outT f.td f.d ((List.range n).foldl (fun v j => v + e j * 2 ^ (wd * j)) 0))

/-- CVTPK: two scalars into elements of D (R269). -/
def execCvtpk (f : Cvtpk) : State → Out := laneOp (.cvtpk f) f.h (fun w l =>
  let n := tyElems f.td
  let e (j : Nat) (r : Reg) : Nat :=
    convElem f.td f.ts (cvMode f.dith f.rm (l * n + j) f.p.toNat) f.sat (w.rg r.toNat l).toNat
  if n = 2 then outW f.d (packElems 16 [e 0 f.a, e 1 f.b])
  else
    let c := elems 8 (w.rg f.c.toNat l)
    outW f.d (packElems 8 (if f.hi then [c.getD 0 0, c.getD 1 0, e 2 f.a, e 3 f.b]
      else [e 0 f.a, e 1 f.b, c.getD 2 0, c.getD 3 0])))

/-- CVTUPK: one element, exact (R270). -/
def execCvtupk (f : Cvtupk) : State → Out := laneOp (.cvtupk f) f.h (fun w l =>
  let x := (elems (tyWidth f.ts) (w.rg f.a.toNat l)).getD f.j.toNat 0
  outW f.d (match tyKind f.ts with
    | .float m => rne (dec m x)
    | .uint => BitVec.ofNat 32 x
    | .sint => BitVec.ofInt 32 (intOf true (tyWidth f.ts) x)))

/-! Lane instructions act over the taking-part lanes of the gang (R271, R32). -/

/-- A lane-collective instruction: the result of each taking-part lane from all of them. -/
def collectOp (i : Instr) (h : Hdr) (d : Reg) (f : Warp → List Nat → Nat → Word) (s : State) : Out :=
  issue i s fun g s =>
    let w := s.warp g.warp
    let lanes := s.taking g h
    finish (s.wrLanes g.warp (lanes.map (fun l => (d.toNat, l, f w lanes l)))) g

/-- The source lane of LXCH, where it is valid (R272). -/
def lxchLane (mode : XMode) (w l : Nat) (b : Word) : Option Nat :=
  let base := l - l % w
  match mode with
  | .get => some (base + b.toNat % w)
  | .rot => some (base + (l % w + b.toNat) % w)
  | .shift =>
    let s : Int := l + b.toInt
    if base ≤ s && s < base + w then some s.toNat else none
  | .bfly => if b.toNat < w then some (l ^^^ b.toNat) else none
/-- LXCH (R272). -/
def execLxch (f : Lxch) : State → Out := collectOp (.lxch f) f.h f.d (fun w lanes l =>
  match lxchLane f.mode (2 ^ f.lw.toNat) l (w.rg f.b.toNat l) with
  | some k => if lanes.contains k then w.rg f.a.toNat k else w.rg f.c.toNat l
  | none => w.rg f.c.toNat l)

/-- LPOLL (R273). -/
def execLpoll (f : Lbit) : State → Out := collectOp (.lpoll f) f.h f.d (fun w lanes _ =>
  pollWord (lanes.filter (fun l => (w.rg f.a.toNat l).getLsbD f.k.toNat)).length lanes.length)
/-- LMASK (R273). -/
def execLmask (f : Lbit) : State → Out := collectOp (.lmask f) f.h f.d (fun w lanes _ =>
  BitVec.ofNat 32 (maskOf (lanes.filter (fun l => (w.rg f.a.toNat l).getLsbD f.k.toNat != f.inv))))
/-- LPEER (R273). -/
def execLpeer (f : Un) : State → Out := collectOp (.lpeer f) f.h f.d (fun w lanes l =>
  let same := lanes.filter (fun k => w.val f.t f.a k = w.val f.t f.a l)
  BitVec.ofNat 32 (if f.m4 then same.headD 0 else maskOf same))
/-- LFIRST (R273). -/
def execLfirst (f : OnlyD) : State → Out := collectOp (.lfirst f) f.h f.d (fun _ lanes l =>
  BitVec.ofNat 32 ((if l = lanes.headD 0 then 1 else 0) + 256 * lanes.headD 0))

/-- The taking-part lanes of l's segment of width w, and those at or below l, or below it. -/
def segment (w : Nat) (lanes : List Nat) (l : Nat) : List Nat := lanes.filter (fun k => k / w = l / w)
def upTo (excl : Bool) (l : Nat) (seg : List Nat) : List Nat := seg.filter (fun k => if excl then k < l else k ≤ l)
def foldWidth (f : Fold) : Nat := 2 ^ (5 - f.iw.toNat)
/-- The integer fold's operation and its identity (R274). -/
def foldFn (t : Ty) : FoldOp → Word → Word → Word
  | .add => (· + ·)
  | .min => imap2 t false min
  | .max => imap2 t false max
  | .and => (· &&& ·)
  | .or => (· ||| ·)
  | .xor => (· ^^^ ·)
def foldId (t : Ty) : FoldOp → Word
  | .add | .or | .xor => 0
  | .and => BitVec.allOnes 32
  | .min => BitVec.ofInt 32 (maxI (tySigned t) 32)
  | .max => BitVec.ofInt 32 (minI (tySigned t) 32)
def ifold (t : Ty) (op : FoldOp) (l : List Word) : Word := l.foldl (foldFn t op) (foldId t op)
/-- IFOLD (R274). -/
def execIfold (f : Fold) : State → Out := collectOp (.ifold f) f.h f.d (fun w lanes l =>
  ifold f.t f.op ((segment (foldWidth f) lanes l).map (w.rg f.a.toNat ·)))
/-- SCAN (R274). -/
def execScan (f : Fold) : State → Out := collectOp (.scan f) f.h f.d (fun w lanes l =>
  ifold f.t f.op ((upTo f.excl l (segment (foldWidth f) lanes l)).map (w.rg f.a.toNat ·)))
/-- The F32 fold of values in ascending lane order; a NaN result is the canonical one, of a single value too (R275, R44). -/
def ffold (op : FoldOp) (l : List Word) : Word :=
  let pick (p : X → X → X) (a b : Word) : Word :=
    if (f32 a).isNan && (f32 b).isNan then 0x7FC00000#32 else if p (f32 a) (f32 b) = f32 a then a else b
  match op, l with
  | .min, [] => 0x7F800000#32
  | .max, [] => 0xFF800000#32
  | .min, a :: l => l.foldl (pick fminX) (pick fminX a a)
  | .max, a :: l => l.foldl (pick fmaxX) (pick fmaxX a a)
  | _, l => rne (chunkSum zeroX (l.map f32))
/-- FFOLD (R275). -/
def execFfold (f : Fold) : State → Out := collectOp (.ffold f) f.h f.d (fun w lanes l =>
  ffold f.op ((segment (foldWidth f) lanes l).map (w.rg f.a.toNat ·)))
/-- FSCAN (R275). -/
def execFscan (f : Fold) : State → Out := collectOp (.fscan f) f.h f.d (fun w lanes l =>
  ffold f.op ((upTo f.excl l (segment (foldWidth f) lanes l)).map (w.rg f.a.toNat ·)))

/-! Special registers (R69 to R71, R276). -/

/-- The groups a crew belongs to, ascending: its slots g0 to g3 (R22). -/
def State.groupSlots (s : State) (k : CrewKey) : List Nat :=
  let gs := (s.launch k.ctx k.launch).groups
  (List.range gs.length).filter (fun i => match gs[i]? with | some g => g.members.contains k.crew | none => false)
/-- The SIBLING group of a crew and its rank among the members (Table 02.2). -/
def State.sibOf (s : State) (k : CrewKey) : Option (Nat × Nat) :=
  let gs := (s.launch k.ctx k.launch).groups
  match (s.groupSlots k).find? (fun i => match gs[i]? with | some g => g.sibling | none => false) with
  | some i => some (i, ((gs[i]?.map (·.members)).getD []).findIdx (· = k.crew))
  | none => none
/-- %clrstat (Table 04.2). -/
def State.clrstat (s : State) (k : WarpKey) : Nat :=
  let es := s.clearing.filter (fun e => e.warp = k)
  es.length + (if es.any (·.st == .struck) then 32 else 0) + (if es.any (·.st == .pending) then 64 else 0)
/-- The value of a special register in a lane (Table 04.1). -/
def State.special (s : State) (k : WarpKey) (code l : Nat) : Word :=
  let w := s.warp k
  let p := s.packetOf k.crew
  let n (v : Nat) : Word := BitVec.ofNat 32 v
  match code with
  | 0x00 => n l
  | 0x01 => n (l / 4)
  | 0x02 => n k.warp
  | 0x03 => n k.crew.crew
  | 0x04 => n p.crewCount
  | 0x05 => n p.warps
  | 0x06 => n (s.coreOf k)
  | 0x07 => n (s.coreOf k / 32)
  | 0x08 => n (2 ^ l - 1)
  | 0x09 => n (2 ^ (l + 1) - 1)
  | 0x10 => n s.time
  | 0x11 => ((w.gtimeCap).getD s.gtime).hi
  | 0x12 => Config.clockBase (s.coreOf k) + n s.clocks
  | 0x18 => n w.whz
  | 0x19 => n ((w.whzCap.getD w.whz) / 2 ^ 32)
  | 0x1A => w.lastBatch.setWidth 32
  | 0x20 | 0x21 | 0x22 | 0x23 => match (s.groupSlots k.crew)[code - 0x20]? with | some g => n (g % 256) | none => 0xFFFFFFFF#32
  | 0x28 => n (s.ctx k.crew.ctx).lease
  | 0x30 => n k.crew.ctx
  | 0x31 => n k.crew.launch
  | 0x32 => (s.ctx k.crew.ctx).kvstep
  | 0x38 => n (s.clrstat k)
  | 0x39 => match s.sibOf k.crew with | some (_, r) => n r | none => 0xFFFFFFFF#32
  | 0x3A => n ((if w.pending then 1 else 0) + (if w.cancelled then 2 else 0))
  | _ => 0
/-- The captures that a read makes for the warp (R70). -/
def Warp.capture (w : Warp) (code : Nat) (t : DWord) : Warp :=
  if code = 0x10 then { w with gtimeCap := some t } else if code = 0x18 then { w with whzCap := some w.whz } else w
/-- SREG (R276). -/
def execSreg (f : Sreg) (s : State) : Out :=
  issue (.sreg f) s fun g s =>
    let lanes := s.taking g f.h
    let ws := lanes.map (fun l => (f.r.toNat, l, s.special g.warp f.code.toNat l))
    finish ((s.modWarp g.warp (fun w => if lanes.isEmpty then w else w.capture f.code.toNat s.gtime)).wrLanes g.warp ws) g
/-- SREGW %lease: the value of the lowest taking-part lane, clamped (R71). -/
def execSregw (f : Sreg) (s : State) : Out :=
  issue (.sregw f) s fun g s =>
    match s.taking g f.h with
    | [] => finish s g
    | l :: _ => finish (s.modCtx g.ctx (fun x =>
        { x with lease := max 128 (min 16384 ((s.warp g.warp).rg f.r.toNat l).toNat) })) g

/-! The transform pipe (R138, R277). -/

/-- The result of an XFORM in a lane (Table 14.3). -/
def xformLane (f : Xform) (w : Warp) (lanes : List Nat) (l : Nat) : List (Nat × Word) :=
  let a (k : Nat) : X := if lanes.contains k then f32 (w.rg f.a.toNat k) else zeroX
  let m := elemFmt f.fmt
  match f.fn with
  | .mxpack =>
    let r := mxBlock f.fmt (fun i => cvMode f.dith .rne i f.p.toNat) ((List.range 32).map a)
    outW f.d (BitVec.ofNat 32 (r.2.getD l 0 + 256 * r.1))
  | .mxunpack => outW f.d (rne (decElem f.fmt (w.rg f.a.toNat l).toNat (some ((w.rg f.b.toNat l).toNat % 256))))
  | .fp8pack => outW f.d (packElems 8 ((List.range 4).map (fun j => enc m (.rm .rne) (f.fmt == .e4m3) (a (l / 4 * 4 + j)))))
  | .crc64 => outP f.d ((((w.rg f.b.toNat l).toNat |> nbytes 4).take (f.n1.toNat + 1)).foldl crcByte (w.pair f.a l))
  | .dither => outW f.d (BitVec.ofNat 32 (enc m (.dith l f.p.toNat) false (a l)))
/-- XFORM: enters the transform-pipe queue; the destination stays pending (R277). -/
def execXform (f : Xform) (s : State) : Out :=
  issue (.xform f) s fun g s =>
    let core := s.coreOf g.warp
    let q := quarterOf s g.warp
    if s.pipeFull core q then holdQueue s g .pipe
    else
      let w := s.warp g.warp
      let lanes := s.taking g f.h
      let regs := if f.fn == .crc64 then [f.d.toNat, f.d.toNat + 1] else [f.d.toNat]
      let p := { pendOf s g (.xform f) regs with
        left := 1, writes := laneWrites w lanes (fun w l => xformLane f w lanes l) }
      finishPend { s with xq := s.xq ++ [⟨core, q, s.nextId⟩] } g p
/-- XFORM_REPLY: the pipe serves the oldest request of the quarter whose turn it is (R138). -/
def execXformReply (q : Quarter) (s : State) : Out :=
  let t := (aget s.xnext q.core).getD 0
  let busy (k : Nat) : Bool := s.xq.any (fun r => r.core = q.core && r.quarter = k)
  match ((List.range 4).map (fun i => (t + i) % 4)).find? busy with
  | some k =>
    if k = q.quarter then
      match s.xq.find? (fun r => r.core = q.core && r.quarter = k) with
      | some r =>
        let s := { s with xq := s.xq.filter (fun x => x.pend ≠ r.pend), xnext := aset s.xnext q.core ((k + 1) % 4) }
        match s.pend? r.pend with
        | some p => .next (s.land p)
        | none => .next s
      | none => .next s
    else .next s
  | none => .next s

end Sys2Proof.Machine
end

