-- ==== Sys2Proof/Machine/Uaten2.lean ====
section
/-! DEFINITION. Execution of a Uaten-2 word (R237, R239): its Uaten-3 counterpart at the same address. -/

namespace Sys2Proof.Machine

/-- The effect of the counterpart of a Uaten-2 word: that of the same Uaten-3 instruction. A word decodes to no step of
another agent. -/
def u2Effect (i : Instr) (s : State) : Option Out :=
  match i with
  | .nop f => some (execNop f s)
  | .nop96i f => some (execNop96i f s)
  | .nop128i f => some (execNop128i f s)
  | .iadd f => some (execIadd f s)
  | .iadd96i f => some (execIadd96i f s)
  | .isub f => some (execIsub f s)
  | .isub96i f => some (execIsub96i f s)
  | .imul f => some (execImul f s)
  | .imul96i f => some (execImul96i f s)
  | .imulhi f => some (execImulhi f s)
  | .imad f => some (execImad f s)
  | .imadw f => some (execImadw f s)
  | .iadd64 f => some (execIadd64 f s)
  | .iadd64128i f => some (execIadd64128i f s)
  | .isub64 f => some (execIsub64 f s)
  | .lea f => some (execLea f s)
  | .imin f => some (execImin f s)
  | .imin96i f => some (execImin96i f s)
  | .imax f => some (execImax f s)
  | .imax96i f => some (execImax96i f s)
  | .iabs f => some (execIabs f s)
  | .isad f => some (execIsad f s)
  | .iclamp f => some (execIclamp f s)
  | .shl f => some (execShl f s)
  | .shl96i f => some (execShl96i f s)
  | .shr f => some (execShr f s)
  | .shr96i f => some (execShr96i f s)
  | .sar f => some (execSar f s)
  | .sar96i f => some (execSar96i f s)
  | .rot f => some (execRot f s)
  | .rot96i f => some (execRot96i f s)
  | .fshf f => some (execFshf f s)
  | .and f => some (execAnd f s)
  | .and96i f => some (execAnd96i f s)
  | .or f => some (execOr f s)
  | .or96i f => some (execOr96i f s)
  | .xor f => some (execXor f s)
  | .xor96i f => some (execXor96i f s)
  | .not f => some (execNot f s)
  | .bool3 f => some (execBool3 f s)
  | .popc f => some (execPopc f s)
  | .clz f => some (execClz f s)
  | .brev f => some (execBrev f s)
  | .bfe f => some (execBfe f s)
  | .bfe96i f => some (execBfe96i f s)
  | .bfi f => some (execBfi f s)
  | .bysel f => some (execBysel f s)
  | .icmp f => some (execIcmp f s)
  | .icmp96i f => some (execIcmp96i f s)
  | .icmp64 f => some (execIcmp64 f s)
  | .plop f => some (execPlop f s)
  | .isel f => some (execIsel f s)
  | .mov f => some (execMov f s)
  | .movi f => some (execMovi f s)
  | .movi64 f => some (execMovi64 f s)
  | .idp4 f => some (execIdp4 f s)
  | .idp2 f => some (execIdp2 f s)
  | .fadd f => some (execFadd f s)
  | .fadd96i f => some (execFadd96i f s)
  | .fsub f => some (execFsub f s)
  | .fsub96i f => some (execFsub96i f s)
  | .fmul f => some (execFmul f s)
  | .fmul96i f => some (execFmul96i f s)
  | .ffma f => some (execFfma f s)
  | .fmin f => some (execFmin f s)
  | .fmax f => some (execFmax f s)
  | .fcmp f => some (execFcmp f s)
  | .fcmp96i f => some (execFcmp96i f s)
  | .fclamp f => some (execFclamp f s)
  | .frcp f => some (execFrcp f s)
  | .frsq f => some (execFrsq f s)
  | .fsqrt f => some (execFsqrt f s)
  | .fexp2 f => some (execFexp2 f s)
  | .flog2 f => some (execFlog2 f s)
  | .ftanh f => some (execFtanh f s)
  | .frnd f => some (execFrnd f s)
  | .fscale f => some (execFscale f s)
  | .fclass f => some (execFclass f s)
  | .fdot2 f => some (execFdot2 f s)
  | .padd2 f => some (execPadd2 f s)
  | .padd296i f => some (execPadd296i f s)
  | .pmul2 f => some (execPmul2 f s)
  | .pmul296i f => some (execPmul296i f s)
  | .pfma2 f => some (execPfma2 f s)
  | .pmin2 f => some (execPmin2 f s)
  | .pmax2 f => some (execPmax2 f s)
  | .cvt f => some (execCvt f s)
  | .cvtpk f => some (execCvtpk f s)
  | .cvtupk f => some (execCvtupk f s)
  | .lxch f => some (execLxch f s)
  | .lpoll f => some (execLpoll f s)
  | .lmask f => some (execLmask f s)
  | .lpeer f => some (execLpeer f s)
  | .lfirst f => some (execLfirst f s)
  | .ifold f => some (execIfold f s)
  | .ffold f => some (execFfold f s)
  | .scan f => some (execScan f s)
  | .fscan f => some (execFscan f s)
  | .sreg f => some (execSreg f s)
  | .sregw f => some (execSregw f s)
  | .xform f => some (execXform f s)
  | .bra f => some (execBra f s)
  | .dbra f => some (execDbra f s)
  | .join f => some (execJoin f s)
  | .brx f => some (execBrx f s)
  | .call f => some (execCall f s)
  | .callx f => some (execCallx f s)
  | .ret f => some (execRet f s)
  | .exit f => some (execExit f s)
  | .regang f => some (execRegang f s)
  | .yield f => some (execYield f s)
  | .canpt f => some (execCanpt f s)
  | .heart f => some (execHeart f s)
  | .trap f => some (execTrap f s)
  | .bkpt f => some (execBkpt f s)
  | .ld f => some (execLd f s)
  | .ld96i f => some (execLd96i f s)
  | .st f => some (execSt f s)
  | .st96i f => some (execSt96i f s)
  | .ldby f => some (execLdby f s)
  | .ldby96i f => some (execLdby96i f s)
  | .lde f => some (execLde f s)
  | .lde96i f => some (execLde96i f s)
  | .clear f => some (execClear f s)
  | .cldrop f => some (execCldrop f s)
  | .lds f => some (execLds f s)
  | .lds96i f => some (execLds96i f s)
  | .sts f => some (execSts f s)
  | .sts96i f => some (execSts96i f s)
  | .ldl f => some (execLdl f s)
  | .ldl96i f => some (execLdl96i f s)
  | .stl f => some (execStl f s)
  | .stl96i f => some (execStl96i f s)
  | .ldc f => some (execLdc f s)
  | .ldc96i f => some (execLdc96i f s)
  | .atom f => some (execAtom f s)
  | .atomc f => some (execAtomc f s)
  | .red f => some (execRed f s)
  | .red96i f => some (execRed96i f s)
  | .redc f => some (execRedc f s)
  | .fence f => some (execFence f s)
  | .pref f => some (execPref f s)
  | .pref96i f => some (execPref96i f s)
  | .cpa f => some (execCpa f s)
  | .cpclose f => some (execCpclose f s)
  | .cpwait f => some (execCpwait f s)
  | .tcopy f => some (execTcopy f s)
  | .tcred f => some (execTcred f s)
  | .spset f => some (execSpset f s)
  | .spwait f => some (execSpwait f s)
  | .sprel f => some (execSprel f s)
  | .spqry f => some (execSpqry f s)
  | .dcopy f => some (execDcopy f s)
  | .pgin f => some (execPgin f s)
  | .pgmove f => some (execPgmove f s)
  | .crcchk f => some (execCrcchk f s)
  | .accld f => some (execAccld f s)
  | .accst f => some (execAccst f s)
  | .mma f => some (execMma f s)
  | .mma2 f => some (execMma2 f s)
  | .mmab f => some (execMmab f s)
  | .accz f => some (execAccz f s)
  | .accmov f => some (execAccmov f s)
  | .accscl f => some (execAccscl f s)
  | .attn f => some (execAttn f s)
  | .attnfin f => some (execAttnfin f s)
  | .smmerge f => some (execSmmerge f s)
  | .select f => some (execSelect f s)
  | .kvapp f => some (execKvapp f s)
  | .kvcommit f => some (execKvcommit f s)
  | .kvroll f => some (execKvroll f s)
  | .kvclose f => some (execKvclose f s)
  | .kvstep f => some (execKvstep f s)
  | .demreq f => some (execDemreq f s)
  | .kvpin f => some (execKvpin f s)
  | .kvunpin f => some (execKvunpin f s)
  | .kvinfo f => some (execKvinfo f s)
  | .cbar f => some (execCbar f s)
  | .gbar f => some (execGbar f s)
  | .evadd f => some (execEvadd f s)
  | .evadd96i f => some (execEvadd96i f s)
  | .evset f => some (execEvset f s)
  | .evset96i f => some (execEvset96i f s)
  | .evwait f => some (execEvwait f s)
  | .evtest f => some (execEvtest f s)
  | .taskput f => some (execTaskput f s)
  | .taskpop f => some (execTaskpop f s)
  | .sibpost f => some (execSibpost f s)
  | .sibpost96c f => some (execSibpost96c f s)
  | .sibqry f => some (execSibqry f s)
  | .sibcancel f => some (execSibcancel f s)
  | .launch f => some (execLaunch f s)
  | .sleep f => some (execSleep f s)
  | .sleep96i f => some (execSleep96i f s)
  | .perf f => some (execPerf f s)
  | .svc f => some (execSvc f s)
  | .rte f => some (execRte f s)
  | .cacheop f => some (execCacheop f s)
  | .tlbop f => some (execTlbop f s)
  | .ctxop f => some (execCtxop f s)
  | _ => none
/-- UATEN2_EXECUTE: a word without a counterpart, or malformed, faults ILLEGAL_INSTRUCTION as it executes. -/
def execUaten2 (w : DWord) (s : State) : Out :=
  match s.cur with
  | none => .fault .noIssuer
  | some g =>
    let illegal : Out := raise s g { code := .illegalInstruction, lanes := s.activeOf g }
    match decodeU2 w with
    | .ok i => (u2Effect i s).getD illegal
    | .error _ => illegal

end Sys2Proof.Machine
end

