-- ==== Sys2Proof/Machine/Dispatch.lean ====
section
/-! DEFINITION. The dispatcher: one arm per constructor of Instr, each a direct call of the instruction's own meaning. -/

namespace Sys2Proof.Machine

def exec (i : Instr) (s : State) : Host.Outcome State Fault Refusal :=
  match i with
  | .nop f => Sys2Proof.Machine.execNop f s
  | .nop96i f => Sys2Proof.Machine.execNop96i f s
  | .nop128i f => Sys2Proof.Machine.execNop128i f s
  | .iadd f => Sys2Proof.Machine.execIadd f s
  | .iadd96i f => Sys2Proof.Machine.execIadd96i f s
  | .isub f => Sys2Proof.Machine.execIsub f s
  | .isub96i f => Sys2Proof.Machine.execIsub96i f s
  | .imul f => Sys2Proof.Machine.execImul f s
  | .imul96i f => Sys2Proof.Machine.execImul96i f s
  | .imulhi f => Sys2Proof.Machine.execImulhi f s
  | .imad f => Sys2Proof.Machine.execImad f s
  | .imadw f => Sys2Proof.Machine.execImadw f s
  | .iadd64 f => Sys2Proof.Machine.execIadd64 f s
  | .iadd64128i f => Sys2Proof.Machine.execIadd64128i f s
  | .isub64 f => Sys2Proof.Machine.execIsub64 f s
  | .lea f => Sys2Proof.Machine.execLea f s
  | .imin f => Sys2Proof.Machine.execImin f s
  | .imin96i f => Sys2Proof.Machine.execImin96i f s
  | .imax f => Sys2Proof.Machine.execImax f s
  | .imax96i f => Sys2Proof.Machine.execImax96i f s
  | .iabs f => Sys2Proof.Machine.execIabs f s
  | .isad f => Sys2Proof.Machine.execIsad f s
  | .iclamp f => Sys2Proof.Machine.execIclamp f s
  | .shl f => Sys2Proof.Machine.execShl f s
  | .shl96i f => Sys2Proof.Machine.execShl96i f s
  | .shr f => Sys2Proof.Machine.execShr f s
  | .shr96i f => Sys2Proof.Machine.execShr96i f s
  | .sar f => Sys2Proof.Machine.execSar f s
  | .sar96i f => Sys2Proof.Machine.execSar96i f s
  | .rot f => Sys2Proof.Machine.execRot f s
  | .rot96i f => Sys2Proof.Machine.execRot96i f s
  | .fshf f => Sys2Proof.Machine.execFshf f s
  | .and f => Sys2Proof.Machine.execAnd f s
  | .and96i f => Sys2Proof.Machine.execAnd96i f s
  | .or f => Sys2Proof.Machine.execOr f s
  | .or96i f => Sys2Proof.Machine.execOr96i f s
  | .xor f => Sys2Proof.Machine.execXor f s
  | .xor96i f => Sys2Proof.Machine.execXor96i f s
  | .not f => Sys2Proof.Machine.execNot f s
  | .bool3 f => Sys2Proof.Machine.execBool3 f s
  | .popc f => Sys2Proof.Machine.execPopc f s
  | .clz f => Sys2Proof.Machine.execClz f s
  | .brev f => Sys2Proof.Machine.execBrev f s
  | .bfe f => Sys2Proof.Machine.execBfe f s
  | .bfe96i f => Sys2Proof.Machine.execBfe96i f s
  | .bfi f => Sys2Proof.Machine.execBfi f s
  | .bysel f => Sys2Proof.Machine.execBysel f s
  | .icmp f => Sys2Proof.Machine.execIcmp f s
  | .icmp96i f => Sys2Proof.Machine.execIcmp96i f s
  | .icmp64 f => Sys2Proof.Machine.execIcmp64 f s
  | .plop f => Sys2Proof.Machine.execPlop f s
  | .isel f => Sys2Proof.Machine.execIsel f s
  | .mov f => Sys2Proof.Machine.execMov f s
  | .movi f => Sys2Proof.Machine.execMovi f s
  | .movi64 f => Sys2Proof.Machine.execMovi64 f s
  | .idp4 f => Sys2Proof.Machine.execIdp4 f s
  | .idp2 f => Sys2Proof.Machine.execIdp2 f s
  | .fadd f => Sys2Proof.Machine.execFadd f s
  | .fadd96i f => Sys2Proof.Machine.execFadd96i f s
  | .fsub f => Sys2Proof.Machine.execFsub f s
  | .fsub96i f => Sys2Proof.Machine.execFsub96i f s
  | .fmul f => Sys2Proof.Machine.execFmul f s
  | .fmul96i f => Sys2Proof.Machine.execFmul96i f s
  | .ffma f => Sys2Proof.Machine.execFfma f s
  | .fmin f => Sys2Proof.Machine.execFmin f s
  | .fmax f => Sys2Proof.Machine.execFmax f s
  | .fcmp f => Sys2Proof.Machine.execFcmp f s
  | .fcmp96i f => Sys2Proof.Machine.execFcmp96i f s
  | .fclamp f => Sys2Proof.Machine.execFclamp f s
  | .frcp f => Sys2Proof.Machine.execFrcp f s
  | .frsq f => Sys2Proof.Machine.execFrsq f s
  | .fsqrt f => Sys2Proof.Machine.execFsqrt f s
  | .fexp2 f => Sys2Proof.Machine.execFexp2 f s
  | .flog2 f => Sys2Proof.Machine.execFlog2 f s
  | .ftanh f => Sys2Proof.Machine.execFtanh f s
  | .frnd f => Sys2Proof.Machine.execFrnd f s
  | .fscale f => Sys2Proof.Machine.execFscale f s
  | .fclass f => Sys2Proof.Machine.execFclass f s
  | .fdot2 f => Sys2Proof.Machine.execFdot2 f s
  | .padd2 f => Sys2Proof.Machine.execPadd2 f s
  | .padd296i f => Sys2Proof.Machine.execPadd296i f s
  | .pmul2 f => Sys2Proof.Machine.execPmul2 f s
  | .pmul296i f => Sys2Proof.Machine.execPmul296i f s
  | .pfma2 f => Sys2Proof.Machine.execPfma2 f s
  | .pmin2 f => Sys2Proof.Machine.execPmin2 f s
  | .pmax2 f => Sys2Proof.Machine.execPmax2 f s
  | .cvt f => Sys2Proof.Machine.execCvt f s
  | .cvtpk f => Sys2Proof.Machine.execCvtpk f s
  | .cvtupk f => Sys2Proof.Machine.execCvtupk f s
  | .lxch f => Sys2Proof.Machine.execLxch f s
  | .lpoll f => Sys2Proof.Machine.execLpoll f s
  | .lmask f => Sys2Proof.Machine.execLmask f s
  | .lpeer f => Sys2Proof.Machine.execLpeer f s
  | .lfirst f => Sys2Proof.Machine.execLfirst f s
  | .ifold f => Sys2Proof.Machine.execIfold f s
  | .ffold f => Sys2Proof.Machine.execFfold f s
  | .scan f => Sys2Proof.Machine.execScan f s
  | .fscan f => Sys2Proof.Machine.execFscan f s
  | .sreg f => Sys2Proof.Machine.execSreg f s
  | .sregw f => Sys2Proof.Machine.execSregw f s
  | .xform f => Sys2Proof.Machine.execXform f s
  | .xformReply f => Sys2Proof.Machine.execXformReply f s
  | .bra f => Sys2Proof.Machine.execBra f s
  | .dbra f => Sys2Proof.Machine.execDbra f s
  | .join f => Sys2Proof.Machine.execJoin f s
  | .brx f => Sys2Proof.Machine.execBrx f s
  | .call f => Sys2Proof.Machine.execCall f s
  | .callx f => Sys2Proof.Machine.execCallx f s
  | .ret f => Sys2Proof.Machine.execRet f s
  | .exit f => Sys2Proof.Machine.execExit f s
  | .regang f => Sys2Proof.Machine.execRegang f s
  | .yield f => Sys2Proof.Machine.execYield f s
  | .canpt f => Sys2Proof.Machine.execCanpt f s
  | .heart f => Sys2Proof.Machine.execHeart f s
  | .trap f => Sys2Proof.Machine.execTrap f s
  | .bkpt f => Sys2Proof.Machine.execBkpt f s
  | .ld f => Sys2Proof.Machine.execLd f s
  | .ld96i f => Sys2Proof.Machine.execLd96i f s
  | .st f => Sys2Proof.Machine.execSt f s
  | .st96i f => Sys2Proof.Machine.execSt96i f s
  | .ldby f => Sys2Proof.Machine.execLdby f s
  | .ldby96i f => Sys2Proof.Machine.execLdby96i f s
  | .lde f => Sys2Proof.Machine.execLde f s
  | .lde96i f => Sys2Proof.Machine.execLde96i f s
  | .clear f => Sys2Proof.Machine.execClear f s
  | .cldrop f => Sys2Proof.Machine.execCldrop f s
  | .lds f => Sys2Proof.Machine.execLds f s
  | .lds96i f => Sys2Proof.Machine.execLds96i f s
  | .sts f => Sys2Proof.Machine.execSts f s
  | .sts96i f => Sys2Proof.Machine.execSts96i f s
  | .ldl f => Sys2Proof.Machine.execLdl f s
  | .ldl96i f => Sys2Proof.Machine.execLdl96i f s
  | .stl f => Sys2Proof.Machine.execStl f s
  | .stl96i f => Sys2Proof.Machine.execStl96i f s
  | .ldc f => Sys2Proof.Machine.execLdc f s
  | .ldc96i f => Sys2Proof.Machine.execLdc96i f s
  | .atom f => Sys2Proof.Machine.execAtom f s
  | .atomc f => Sys2Proof.Machine.execAtomc f s
  | .red f => Sys2Proof.Machine.execRed f s
  | .red96i f => Sys2Proof.Machine.execRed96i f s
  | .redc f => Sys2Proof.Machine.execRedc f s
  | .fence f => Sys2Proof.Machine.execFence f s
  | .fenceCompletion f => Sys2Proof.Machine.execFenceCompletion f s
  | .pref f => Sys2Proof.Machine.execPref f s
  | .pref96i f => Sys2Proof.Machine.execPref96i f s
  | .cpa f => Sys2Proof.Machine.execCpa f s
  | .cpclose f => Sys2Proof.Machine.execCpclose f s
  | .cpwait f => Sys2Proof.Machine.execCpwait f s
  | .tcopy f => Sys2Proof.Machine.execTcopy f s
  | .tcred f => Sys2Proof.Machine.execTcred f s
  | .spset f => Sys2Proof.Machine.execSpset f s
  | .spwait f => Sys2Proof.Machine.execSpwait f s
  | .sprel f => Sys2Proof.Machine.execSprel f s
  | .spqry f => Sys2Proof.Machine.execSpqry f s
  | .dcopy f => Sys2Proof.Machine.execDcopy f s
  | .pgin f => Sys2Proof.Machine.execPgin f s
  | .pgmove f => Sys2Proof.Machine.execPgmove f s
  | .crcchk f => Sys2Proof.Machine.execCrcchk f s
  | .accld f => Sys2Proof.Machine.execAccld f s
  | .accst f => Sys2Proof.Machine.execAccst f s
  | .mma f => Sys2Proof.Machine.execMma f s
  | .mma2 f => Sys2Proof.Machine.execMma2 f s
  | .mmab f => Sys2Proof.Machine.execMmab f s
  | .accz f => Sys2Proof.Machine.execAccz f s
  | .accmov f => Sys2Proof.Machine.execAccmov f s
  | .accscl f => Sys2Proof.Machine.execAccscl f s
  | .attn f => Sys2Proof.Machine.execAttn f s
  | .attnfin f => Sys2Proof.Machine.execAttnfin f s
  | .smmerge f => Sys2Proof.Machine.execSmmerge f s
  | .select f => Sys2Proof.Machine.execSelect f s
  | .kvapp f => Sys2Proof.Machine.execKvapp f s
  | .kvcommit f => Sys2Proof.Machine.execKvcommit f s
  | .kvroll f => Sys2Proof.Machine.execKvroll f s
  | .kvclose f => Sys2Proof.Machine.execKvclose f s
  | .kvstep f => Sys2Proof.Machine.execKvstep f s
  | .demreq f => Sys2Proof.Machine.execDemreq f s
  | .kvpin f => Sys2Proof.Machine.execKvpin f s
  | .kvunpin f => Sys2Proof.Machine.execKvunpin f s
  | .kvinfo f => Sys2Proof.Machine.execKvinfo f s
  | .cbar f => Sys2Proof.Machine.execCbar f s
  | .gbar f => Sys2Proof.Machine.execGbar f s
  | .evadd f => Sys2Proof.Machine.execEvadd f s
  | .evadd96i f => Sys2Proof.Machine.execEvadd96i f s
  | .evset f => Sys2Proof.Machine.execEvset f s
  | .evset96i f => Sys2Proof.Machine.execEvset96i f s
  | .evwait f => Sys2Proof.Machine.execEvwait f s
  | .evtest f => Sys2Proof.Machine.execEvtest f s
  | .taskput f => Sys2Proof.Machine.execTaskput f s
  | .taskpop f => Sys2Proof.Machine.execTaskpop f s
  | .sibpost f => Sys2Proof.Machine.execSibpost f s
  | .sibpost96c f => Sys2Proof.Machine.execSibpost96c f s
  | .sibqry f => Sys2Proof.Machine.execSibqry f s
  | .sibcancel f => Sys2Proof.Machine.execSibcancel f s
  | .launch f => Sys2Proof.Machine.execLaunch f s
  | .sleep f => Sys2Proof.Machine.execSleep f s
  | .sleep96i f => Sys2Proof.Machine.execSleep96i f s
  | .sleepWake f => Sys2Proof.Machine.execSleepWake f s
  | .perf f => Sys2Proof.Machine.execPerf f s
  | .svc f => Sys2Proof.Machine.execSvc f s
  | .rte f => Sys2Proof.Machine.execRte f s
  | .cacheop f => Sys2Proof.Machine.execCacheop f s
  | .tlbop f => Sys2Proof.Machine.execTlbop f s
  | .ctxop f => Sys2Proof.Machine.execCtxop f s
  | .uaten2 f => Sys2Proof.Machine.execUaten2 f s
  | .longLatencyResult f => Sys2Proof.Machine.execLongLatencyResult f s
  | .swapIn f => Sys2Proof.Machine.execSwapIn f s
  | .rotation f => Sys2Proof.Machine.execRotation f s
  | .homeFill f => Sys2Proof.Machine.execHomeFill f s
  | .homeWrite f => Sys2Proof.Machine.execHomeWrite f s
  | .homeAtomic f => Sys2Proof.Machine.execHomeAtomic f s
  | .homeLdby f => Sys2Proof.Machine.execHomeLdby f s
  | .homeRangeLoad f => Sys2Proof.Machine.execHomeRangeLoad f s
  | .writeAck f => Sys2Proof.Machine.execWriteAck f s
  | .l1LeaseExpiry a b => Sys2Proof.Machine.execL1LeaseExpiry a b s
  | .ldeValidation f => Sys2Proof.Machine.execLdeValidation f s
  | .validationAnswer f => Sys2Proof.Machine.execValidationAnswer f s
  | .peerPacket f => Sys2Proof.Machine.execPeerPacket f s
  | .peerSettle f => Sys2Proof.Machine.execPeerSettle f s
  | .peerTimeout f => Sys2Proof.Machine.execPeerTimeout f s
  | .eventUpdate f => Sys2Proof.Machine.execEventUpdate f s
  | .eventWaitArrival f => Sys2Proof.Machine.execEventWaitArrival f s
  | .eventReread f => Sys2Proof.Machine.execEventReread f s
  | .tellerPost f => Sys2Proof.Machine.execTellerPost f s
  | .holdingRelease a b => Sys2Proof.Machine.execHoldingRelease a b s
  | .preemptionSave f => Sys2Proof.Machine.execPreemptionSave f s
  | .forcedPreemption f => Sys2Proof.Machine.execForcedPreemption f s
  | .watchdogFire a b => Sys2Proof.Machine.execWatchdogFire a b s
  | .faultDelivery f => Sys2Proof.Machine.execFaultDelivery f s
  | .killDone f => Sys2Proof.Machine.execKillDone f s
  | .shuttleCpa f => Sys2Proof.Machine.execShuttleCpa f s
  | .shuttleTcopy f => Sys2Proof.Machine.execShuttleTcopy f s
  | .shuttleTcred f => Sys2Proof.Machine.execShuttleTcred f s
  | .shuttleDcopy f => Sys2Proof.Machine.execShuttleDcopy f s
  | .shuttlePageMove f => Sys2Proof.Machine.execShuttlePageMove f s
  | .spoolDelivery f => Sys2Proof.Machine.execSpoolDelivery f s
  | .copyBatchComplete a b => Sys2Proof.Machine.execCopyBatchComplete a b s
  | .poolAllocation f => Sys2Proof.Machine.execPoolAllocation f s
  | .stage f => Sys2Proof.Machine.execStage f s
  | .stageCold f => Sys2Proof.Machine.execStageCold f s
  | .sweepEnd f => Sys2Proof.Machine.execSweepEnd f s
  | .demreqServe f => Sys2Proof.Machine.execDemreqServe f s
  | .deviceReset f => Sys2Proof.Machine.execDeviceReset f s
  | .powerLoopStep a b => Sys2Proof.Machine.execPowerLoopStep a b s
  | .launchAdmission => Sys2Proof.Machine.execLaunchAdmission s
  | .placement => Sys2Proof.Machine.execPlacement s
  | .preemptByPriority => Sys2Proof.Machine.execPreemptByPriority s
  | .crewResumption => Sys2Proof.Machine.execCrewResumption s
  | .mbxLaneWrite => Sys2Proof.Machine.execMbxLaneWrite s
  | .mbxLaunch => Sys2Proof.Machine.execMbxLaunch s
  | .mbxWrite => Sys2Proof.Machine.execMbxWrite s
  | .mbxRead => Sys2Proof.Machine.execMbxRead s
  | .mbxEvsigAdd => Sys2Proof.Machine.execMbxEvsigAdd s
  | .mbxEvsigSet => Sys2Proof.Machine.execMbxEvsigSet s
  | .mbxKill => Sys2Proof.Machine.execMbxKill s
  | .mbxQueryRegister => Sys2Proof.Machine.execMbxQueryRegister s
  | .mbxQueryContext => Sys2Proof.Machine.execMbxQueryContext s
  | .sessionOpen => Sys2Proof.Machine.execSessionOpen s
  | .sessionClose => Sys2Proof.Machine.execSessionClose s
  | .sessionMeasure => Sys2Proof.Machine.execSessionMeasure s
  | .completionRingPoll => Sys2Proof.Machine.execCompletionRingPoll s
  | .spdmGetVersion => Sys2Proof.Machine.execSpdmGetVersion s
  | .spdmGetCapabilities => Sys2Proof.Machine.execSpdmGetCapabilities s
  | .spdmGetMeasurements => Sys2Proof.Machine.execSpdmGetMeasurements s
  | .scrWrite => Sys2Proof.Machine.execScrWrite s
  | .mbxStatus => Sys2Proof.Machine.execMbxStatus s
  | .wdgCtl => Sys2Proof.Machine.execWdgCtl s
  | .wdgFired => Sys2Proof.Machine.execWdgFired s
  | .shuPoolCtl => Sys2Proof.Machine.execShuPoolCtl s
  | .shuPoolAdd => Sys2Proof.Machine.execShuPoolAdd s
  | .shuPoolStatus => Sys2Proof.Machine.execShuPoolStatus s
  | .prfClr => Sys2Proof.Machine.execPrfClr s
  | .secAcctab => Sys2Proof.Machine.execSecAcctab s
  | .thermalCutoff => Sys2Proof.Machine.execThermalCutoff s
  | .linkRetrain => Sys2Proof.Machine.execLinkRetrain s
  | .patrolScrub => Sys2Proof.Machine.execPatrolScrub s
  | .modulePowerRemoved => Sys2Proof.Machine.execModulePowerRemoved s
  | .spdmKeyExchange => Sys2Proof.Machine.execSpdmKeyExchange s
  | .spdmGetCertificate => Sys2Proof.Machine.execSpdmGetCertificate s
  | .spdmChallenge => Sys2Proof.Machine.execSpdmChallenge s
  | .spdmKeyUpdate => Sys2Proof.Machine.execSpdmKeyUpdate s
  | .spdmEndSession => Sys2Proof.Machine.execSpdmEndSession s
  | .ideKm => Sys2Proof.Machine.execIdeKm s

end Sys2Proof.Machine
end

