-- ==== Sys2Proof/Machine/Step.lean ====
section
/-! DEFINITION. One step of the device, and the state in which an instruction stands where the next step fetches. -/

namespace Sys2Proof.Machine

/-- One step: what the agenda or the device's own order makes next, its meaning, and what follows from it. -/
def step (s : State) : Host.Outcome State Fault Refusal :=
  match s.plan with
  | .rest s' => .next s'.after
  | .noPower => .fault .noPower
  | .run i s' =>
    match exec i s' with
    | .next t => .next t.after
    | o => o

/-- The physical addresses of the page tables and of the code page that hold a placed program. -/
def placeRoot : Nat := 0x200000
def placeCode : Nat := 0x403000
/-- The virtual address of a placed instruction, the entry of its launch. -/
def placeVa : Nat := 0x1000
/-- The bytes of the three table entries, of the leaf (V, W, U, X), and of the instruction. -/
def placeBytes (l : List Byte) : List (Nat × List Byte) :=
  [(placeRoot, nbytes 8 0x400001), (0x400000, nbytes 8 0x401001), (0x401000, nbytes 8 0x402001),
   (0x402000 + 8, nbytes 8 (placeCode + 0x1D)), (placeCode, l)]
/-- The launch that runs a placed program: one supervisor crew of one warp. -/
def placePacket : Packet :=
  { entry := BitVec.ofNat 64 placeVa, crewCount := 1, warps := 1, vregsDiv8 := 32, carve := 4, tiles := 24,
    flags := 0x08, dieMask := 1 }
def placeCrew : CrewKey := ⟨0, 0, 0⟩
/-- The state with an instruction stored where the next step fetches: a loaded program whose one warp is about
to issue its first instruction (log 15). -/
def State.withFetchWord (s : State) (nbits w : Nat) : State :=
  let l := natBytes 16 (w % 2 ^ nbits)
  { s with
    phase := .running,
    mem := (placeBytes l).foldl (fun m p => ssetList (n := 8) m p.1 p.2) s.mem,
    acctab := (List.range 8).foldl (fun t g => aset t (g, 0) (BitVec.ofNat 128 (2 ^ 117 - 2 ^ 76 + 2 ^ 63 + 0xFF))) s.acctab,
    badLines := [], badSpots := [], tlb := [], icache := [], pends := [], xq := [], clearing := [],
    ctxs := aset s.ctxs 0 { desc := { root := placeRoot }, lease := 0x800 },
    launches := aset s.launches (0, 0) { packet := placePacket, stage := .admitted, placed := 1, limit := 100000000 },
    crews := [(placeCrew, { seat := .on 0, priv := true })],
    warps := [(⟨placeCrew, 0⟩, { place := .loom s.time, slices := List.replicate 8 { pc := BitVec.ofNat 64 placeVa } })],
    agenda := [.issue 0 0 0] }

end Sys2Proof.Machine
end

