-- ==== Sys2Proof/Safety.lean ====
section
/-! DEFINITION. What counts as a safe run, and the terms in which claims speak of one instruction: when it may
execute, what going on after it changes, and what taking an exception leaves. -/

namespace Sys2Proof

open Sys2Proof.Machine

/-! Safe runs. -/

/-- Memory is in canonical form: addresses strictly rising, no entry equal to what an unlisted address reads as. -/
def MemOk (s : State) : Prop := Memory.wf s.mem = true
/-- One step from s is safe: it answers a next state whose memory is in its canonical form, or it stops because the
module has no power and nothing is there to reset it (R397). -/
def SafeStep (s : State) : Prop :=
  match step s with
  | .next t => MemOk t
  | .fault f => f = .noPower ∧ s.phase = .off
  | .refused _ => False
/-- A run of at most n steps from s is safe. -/
def SafeRun : Nat → State → Prop
  | 0, _ => True
  | n + 1, s => SafeStep s ∧ ∀ t, step s = .next t → SafeRun n t

/-! One instruction. -/

/-- The gang g executes i next, and the checks before every instruction's own pass: PRIVILEGE, then REG_RANGE
(R206, R61, R211), and no operand holds an error (R93). -/
structure Free (i : Instr) (s : State) (g : Cur) : Prop where
  cur : s.cur = some g
  mode : privileged i = true → s.privOf g.warp = true
  regs : i.regTop ≤ 8 * (s.packetOf g.crewK).vregsDiv8
  operands : s.badLanes g i = []

/-- The state in which the meaning of i runs, once those checks are passed: the reuse latch holds what i's RU bits
name (R68). -/
def issued (i : Instr) (s : State) (g : Cur) : State := s.modWarp g.warp (fun w => { w with latch := latchOf w i })

/-- What retiring an instruction counts, and nothing else: the performance counts of the context (R203), the
watchdog timer of the launch (R201), the Teller's count of instructions (R183), the lookahead of pending results
(R62). -/
structure Counted (s t : State) : Prop where
  ctxs : ∀ c, { t.ctx c with counts := [] } = { s.ctx c with counts := [] }
  launches : ∀ c l, t.launch c l = s.launch c l ∨ t.launch c l = { s.launch c l with timer := 0 }
  teller : t.teller.map (fun p => (p.1, { p.2 with instructions := 0 })) = s.teller.map (fun p => (p.1, { p.2 with instructions := 0 }))
  pends : t.pends.map (fun p => { p with look := 0 }) = s.pends.map (fun p => { p with look := 0 })

/-- Slice j is the lowest of those of some mask that have not exited and stand at an address. -/
def LowestAt (w : Warp) (m : BitVec 8) (pc : DWord) (j : Nat) : Prop :=
  (∃ z, w.slices[j]? = some z ∧ m.getLsbD j = true ∧ z.exited = false ∧ z.pc = pc) ∧
    ∀ i z, w.slices[i]? = some z → m.getLsbD i = true → z.exited = false → z.pc = pc → j ≤ i
/-- In the warp of g, the slices of the gang changed as f says: those that stand at one address then form a gang, which is named
after the lowest of them, so that a gang that now stands at several addresses has parted (R31), and slices of other gangs are as they
were; of the rest of the warp only registers, the reuse latch and the scheduler's marks may differ. -/
structure Moved (s t : State) (g : Cur) (f : Nat → Slice → Slice) : Prop where
  slices : ∀ i x, (s.warp g.warp).slices[i]? = some x → ∃ y, (t.warp g.warp).slices[i]? = some y ∧
    y = if g.slices.getLsbD i then { f i x.unblock with relDone := false, gang := y.gang } else x
  gangs : ∀ i y, (t.warp g.warp).slices[i]? = some y → i < 8 → g.slices.getLsbD i = true → y.exited = false →
    LowestAt (t.warp g.warp) g.slices y.pc y.gang
  warp : ∀ w, w = t.warp g.warp →
    { w with regs := (s.warp g.warp).regs, latch := (s.warp g.warp).latch, slices := (s.warp g.warp).slices,
             lastGang := (s.warp g.warp).lastGang, passedIssue := (s.warp g.warp).passedIssue } = s.warp g.warp
  others : ∀ k, k ≠ g.warp → t.warp k = s.warp k

/-- A slice goes on behind the instruction. -/
def onward (g : Cur) : Nat → Slice → Slice := fun _ x => { x with pc := x.pc + BitVec.ofNat 64 g.len }

/-- Everything of the device but warps, launches' timers, the Teller's counts, lookaheads and performance counts
is as it was; a word written anew may have lost its error, and none has gained one (R93). -/
structure SameRest (s t : State) : Prop where
  same : { t with warps := s.warps, launches := s.launches, teller := s.teller, pends := s.pends, ctxs := s.ctxs,
                  badSpots := s.badSpots, scr := { t.scr with prfCnt := s.scr.prfCnt, prfNow := s.scr.prfNow } } = s
  healed : ∀ x ∈ t.badSpots, x ∈ s.badSpots

/-- The frame of an instruction that only computes: its gang moves as f says and, registers apart, nothing else
changes but what retirement counts. -/
structure Quiet (s t : State) (g : Cur) (f : Nat → Slice → Slice) : Prop where
  moved : Moved s t g f
  counted : Counted s t
  rest : SameRest s t

/-- No register of the gang's warp changed. -/
def SameRegs (s t : State) (g : Cur) : Prop := ∀ r l, (t.warp g.warp).rg r l = (s.warp g.warp).rg r l
/-- Register d of each taking-part lane got the value v gives, and every other lane-register is as it was. -/
def GotWord (s t : State) (g : Cur) (h : Hdr) (d : Reg) (v : Warp → Nat → Word) : Prop :=
  ∀ r l, l < 32 → (t.warp g.warp).rg r l =
    if r = d.toNat ∧ l ∈ s.taking g h then v (s.warp g.warp) l else (s.warp g.warp).rg r l
/-- The pair d, d + 1 of each taking-part lane got the value v gives, low half first (R64). -/
def GotPair (s t : State) (g : Cur) (h : Hdr) (d : Reg) (v : Warp → Nat → DWord) : Prop :=
  ∀ r l, l < 32 → (t.warp g.warp).rg r l =
    if r = d.toNat ∧ l ∈ s.taking g h then (v (s.warp g.warp) l).lo
    else if r = d.toNat + 1 ∧ l ∈ s.taking g h then (v (s.warp g.warp) l).hi
    else (s.warp g.warp).rg r l

/-- Wherever i may execute and, in the state in which its meaning runs, pre holds, i completes: exec answers a next
state, which stands to that state as post says. -/
def Completes (i : Instr) (pre : State → Cur → Prop) (post : State → State → Cur → Prop) : Prop :=
  ∀ s g, Free i s g → pre (issued i s g) g → ∃ t, exec i s = .next t ∧ post (issued i s g) t g
/-- Wherever it may execute. -/
def Always : State → Cur → Prop := fun _ _ => True

/-- Register d of every taking-part lane gets v of that lane, computed from the registers before, and nothing else
changes. -/
def LaneWord (i : Instr) (h : Hdr) (d : Reg) (v : Warp → Nat → Word) : Prop :=
  Completes i Always fun s t g => Quiet s t g (onward g) ∧ GotWord s t g h d v
/-- The same for a result of two registers. -/
def LanePair (i : Instr) (h : Hdr) (d : Reg) (v : Warp → Nat → DWord) : Prop :=
  Completes i Always fun s t g => Quiet s t g (onward g) ∧ GotPair s t g h d v
/-- The same for a result that each taking-part lane gets from all of them. -/
def LaneAll (i : Instr) (h : Hdr) (d : Reg) (v : Warp → List Nat → Nat → Word) : Prop :=
  Completes i Always fun s t g => Quiet s t g (onward g) ∧ GotWord s t g h d (fun w l => v w (s.taking g h) l)
/-- The instruction has no effect: its gang goes on. -/
def NoEffect (i : Instr) : Prop := Completes i Always fun s t g => Quiet s t g (onward g) ∧ SameRegs s t g

/-! Values by elements (R43, R253). -/

/-- Element j of width w of a word, element 0 lowest. -/
def elemAt (w : Nat) (x : Word) (j : Nat) : Nat := x.toNat / 2 ^ (w * j) % 2 ^ w
/-- The elements of x, of type t, have the codes e gives. -/
def IsElems (t : Ty) (x : Word) (e : Nat → Nat) : Prop := ∀ j, j < 32 / tyWidth t → elemAt (tyWidth t) x j = e j % 2 ^ tyWidth t
/-- Element j of a word as an integer of type t. -/
def intAt (t : Ty) (x : Word) (j : Nat) : Int := intOf (tySigned t) (tyWidth t) (elemAt (tyWidth t) x j)
/-- Element j of a word as a number of the floating type t. -/
def numAt (t : Ty) (x : Word) (j : Nat) : X := dec (tyFmt t) (elemAt (tyWidth t) x j)
/-- The elements of x are exact integers, reduced to the element (R253). -/
def IsInts (t : Ty) (sat : Bool) (x : Word) (e : Nat → Int) : Prop :=
  IsElems t x fun j => reduce sat (tySigned t) (tyWidth t) (e j)
/-- The elements of x are numbers, rounded once (R45). -/
def IsNums (t : Ty) (rm : Rm) (x : Word) (e : Nat → X) : Prop := IsElems t x fun j => enc (tyFmt t) (.rm rm) false (e j)
/-- Register d of every taking-part lane gets a word that stands to the registers before as rel says, and nothing
else changes. -/
def LaneBy (i : Instr) (h : Hdr) (d : Reg) (rel : Warp → Nat → Word → Prop) : Prop :=
  Completes i Always fun s t g => Quiet s t g (onward g) ∧ ∃ v, GotWord s t g h d v ∧
    ∀ l ∈ s.taking g h, rel (s.warp g.warp) l (v (s.warp g.warp) l)

/-! Results that land later (R62). -/

/-- The instruction has retired, its gang goes on, and the result p of its warp is the newest of the scoreboard;
counts apart nothing else changed, no register in particular. -/
structure Begun (s t : State) (g : Cur) (p : Pend) : Prop where
  moved : Moved s t g (onward g)
  regs : SameRegs s t g
  pends : ∃ l, t.pends = l ++ [p] ∧ l.map (fun x => { x with look := 0 }) = s.pends.map (fun x => { x with look := 0 })
  mine : p.warp = g.warp ∧ p.id = s.nextId ∧ t.nextId = s.nextId + 1
  counted : Counted { s with pends := [] } { t with pends := [] }
  rest : SameRest { s with nextId := s.nextId + 1 } { t with xq := s.xq }
/-- The writes that a result will make are those of register d of each taking-part lane, fixed when it issued. -/
def WritesWord (s : State) (g : Cur) (h : Hdr) (p : Pend) (d : Reg) (v : Warp → Nat → Word) : Prop :=
  ∀ w : Warp, ∀ r l, l < 32 → (w.wrs p.writes).rg r l =
    if r = d.toNat ∧ l ∈ s.taking g h then v (s.warp g.warp) l else w.rg r l
/-- A long-latency instruction of one word of every taking-part lane: the word is fixed at issue, register d is
pending until the result lands, and nothing waits for an answer. -/
def LongWord (i : Instr) (h : Hdr) (d : Reg) (v : Warp → Nat → Word) : Prop :=
  Completes i Always fun s t g => ∃ p, Begun s t g p ∧ p.regs = [d.toNat] ∧ p.left = 0 ∧ p.tiles = [] ∧
    t.xq = s.xq ∧ WritesWord s g h p d v

/-! Instructions that reach memory. -/

/-- The newest result of the scoreboard is p, of this warp, under the next identifier; the earlier ones are as they
were, their lookahead apart. -/
def Newest (s t : State) (g : Cur) (p : Pend) : Prop :=
  p.warp = g.warp ∧ p.id = s.nextId ∧
    ∃ l, t.pends = l ++ [p] ∧ l.map (fun x => { x with look := 0 }) = s.pends.map (fun x => { x with look := 0 })
/-- A message but for the copy of a line that it brings: the stores of its core keep that up to date on the way (R86, R188). -/
def bare (m : Msg) : Msg := match m.k with | .answer e line ok _ => { m with k := .answer e line ok default } | _ => m
/-- The frame of an instruction that sends messages: its gang goes on, no register and no byte of memory changes, and
every message is added behind the earlier ones and is this warp's; beside these only the scoreboard, the clearing
table, the core's own lines (those that messages bring to it too) and the directory of L2 may have changed, and what
retirement counts. -/
structure Sends (s t : State) (g : Cur) : Prop where
  moved : Moved s t g (onward g)
  regs : SameRegs s t g
  mem : t.mem = s.mem
  msgs : ∃ old m, t.msgs = old ++ m ∧ old.map bare = s.msgs.map bare ∧ ∀ x ∈ m, x.warp = some g.warp ∧ x.ctx = g.ctx ∧ x.core = s.coreOf g.warp ∧ x.sent = s.time
  others : ∀ x ∈ s.l1, x.core ≠ s.coreOf g.warp → x ∈ t.l1
  counted : Counted { s with pends := [] } { t with pends := [] }
  rest : SameRest s { t with msgs := s.msgs, nextId := s.nextId, clearing := s.clearing, l1 := s.l1, l2 := s.l2 }
/-- The accesses of a lane: its pieces, checked. -/
def accessOf (addr : State → WarpKey → Nat → Except Bad (List Piece)) (a : Machine.Acc) (n : Nat) (s : State) (k : WarpKey) (l : Nat) :
    Except Bad (List Place2) := addr s k l >>= s.checkLane k a n
/-- Each taking-part lane passes its checks. -/
def LanesOk {α : Type} (h : Hdr) (check : State → WarpKey → Nat → Except Bad α) : State → Cur → Prop :=
  fun s g => ∀ l ∈ s.taking g h, ∃ x, check s g.warp l = .ok x
/-- The value that a loaded element of n bytes leaves in one register (R287). -/
def loadedWord (sz : Sz) (v : Nat) : Word := BitVec.ofNat 32 (if szSigned sz then lowBits 32 (intOf true (8 * szBytes sz) v) else v)

/-! Taking an exception (R207 to R213). -/

/-- The report that a fault of the gang queues (Table 11.2). -/
def reportOf (s : State) (g : Cur) (x : Fx) : Report :=
  { s.warpReport g x with id := s.nextId, time := s.time }
/-- The gang's warp is held whole at the faulting instruction, with its pc and its registers as they were; its
early-load entries are struck, and the report waits in the fault queue. -/
structure HeldAt (s t : State) (g : Cur) (x : Fx) : Prop where
  held : (t.warp g.warp).held = some ⟨s.nextId, x.code, x.code.kind, g.slices, g.len⟩
  slices : (t.warp g.warp).slices = ((s.warp g.warp).modSlices g.slices Slice.unblock).slices
  latch : (t.warp g.warp).latch = [none, none, none]
  regs : SameRegs s t g
  struck : ∀ e ∈ t.clearing, e.warp = g.warp → e.st = .struck
  queued : t.faultQ = s.faultQ ++ [reportOf s g x]
/-- Taking an exception: the report is delivered and the warp held, or, where it cannot be delivered, the context is
killed, and of context 63 the device goes to recovery (R208, R210). Memory is as it was, unless frames that a pool
granted to the context and that it has not used go back (R140). -/
structure Excepted (s t : State) (g : Cur) (x : Fx) : Prop where
  mem : (∀ a ∈ s.poolQ, a.ctx = g.ctx ∨ a.who.ofWarp g.warp = true → a.got = none) → t.mem = s.mem
  delivered : s.undelivered g.ctx (s.privOf g.warp) = false → HeldAt s t g x
  killed : s.undelivered g.ctx (s.privOf g.warp) = true →
    if g.ctx = 63 then t.phase = .recovery else ∃ k, (t.ctx g.ctx).kill = some k

/-- The gang's instruction waits, to be issued again, and nothing of it has taken effect (R135); `whole` of one that keeps
its warp out of issue (R341). -/
def Waits (s t : State) (g : Cur) (b : Block) (whole : Bool) : Prop := t = s.waitIn g (.retry b whole)
/-- A table has refused the access of a device unit that the instruction asks for: the context has a report of kind E, nothing else of
the instruction takes effect, and its gang goes on; where no report can be delivered the context is killed (R196, R208; log 89). -/
structure Refused (s t : State) (g : Cur) (x : Fx) : Prop where
  delivered : s.undelivered g.ctx false = false → Moved s t g (onward g) ∧ SameRegs s t g ∧ t.mem = s.mem ∧
    t.faultQ = s.faultQ ++ [{ id := s.nextId, time := s.time, code := x.code, kind := .e, ctx := g.ctx, die := s.coreOf g.warp / 32,
                              level := x.level, access := .engine, launch := g.crewK.launch, crew := g.crewK.crew, addr := x.addr }]
  killed : s.undelivered g.ctx false = true → if g.ctx = 63 then t.phase = .recovery else ∃ k, (t.ctx g.ctx).kill = some k
/-- The gang waits for an access to a peer that does not answer, until it times out (R392; log 73). -/
structure WaitsPeer (s t : State) (g : Cur) (x : Fx) (whole : Bool) : Prop where
  regs : SameRegs s t g
  mem : t.mem = s.mem
  waits : ∀ i (y : Slice), (s.warp g.warp).slices[i]? = some y → (t.warp g.warp).slices[i]? = some
    (if g.slices.getLsbD i then { y with wait := .peer x.acc x.addr g.len (BitVec.ofNat 32 (maskOf x.lanes)) whole } else y)
/-- What a fault comes to that an instruction has met: an access behind earlier ones of the device to a peer's page goes behind them
(R109), one that a table refuses a device unit is reported, one to a peer that does not answer is waited for (the model's choices:
logs 73, 89); any other is taken as an exception. -/
def Raised (s t : State) (g : Cur) (x : Fx) (whole : Bool := false) : Prop :=
  if x.busy = true then Waits s t g (.peer x.addr) whole
  else if x.refused = true then Refused s t g x
  else if x.code = .uncorrectable ∧ s.peerSilent x.addr = true then WaitsPeer s t g x whole
  else Excepted s t g x

/-- If some lane's access is in fault, the lowest such lane's fault is the instruction's, and the report names every lane that met
the same code (R211, R212). -/
def FaultsLowest {α : Type} (i : Instr) (h : Hdr) (a : Machine.Acc) (check : State → WarpKey → Nat → Except Bad α) : Prop :=
  ∀ l b, Completes i
    (fun s g => l ∈ s.taking g h ∧ check s g.warp l = .error b ∧ ∀ k ∈ s.taking g h, k < l → ∃ x, check s g.warp k = .ok x)
    fun s t g => ∃ lanes, (∀ k, k ∈ lanes ↔ k ∈ s.taking g h ∧ ∃ c, check s g.warp k = .error c ∧ c.code = b.code) ∧
      Raised s t g (b.fx a lanes)

end Sys2Proof
end

