-- ==== Sys2Proof/Certificates/Slice0/Obligations.lean ====
section
/-! DEFINITION. The statements about this machine that are to be proved, each a proposition over its own
definitions, with the rules of spec/ that it formalises. -/

section

open Sys2Proof Sys2Proof.Machine

/-! Group 0: integers, logic and moves (14.2 to 14.4). -/

/-- Table 14.1: each element of D is the exact result of the elements of A, B and C, reduced to the element (R254,
R253); everything else is as it was. -/
def Sys2Proof.IntegerArithmeticRules : Prop :=
  (∀ f : Bin, LaneBy (.iadd f) f.h f.d fun w l x => IsInts f.t false x fun j =>
    intAt f.t (w.src false f.a l) j + intAt f.t (w.src f.m4 f.b l) j) ∧
  (∀ f : BinI, LaneBy (.iadd96i f) f.h f.d fun w l x => IsInts f.t false x fun j =>
    intAt f.t (w.src false f.a l) j + intAt f.t f.imm j) ∧
  (∀ f : Bin, LaneBy (.isub f) f.h f.d fun w l x => IsInts f.t false x fun j =>
    intAt f.t (w.src false f.a l) j - intAt f.t (w.src f.m4 f.b l) j) ∧
  (∀ f : BinI, LaneBy (.isub96i f) f.h f.d fun w l x => IsInts f.t false x fun j =>
    intAt f.t (w.src false f.a l) j - intAt f.t f.imm j) ∧
  (∀ f : Bin, LaneBy (.imul f) f.h f.d fun w l x => IsInts f.t false x fun j =>
    intAt f.t (w.src false f.a l) j * intAt f.t (w.src f.m4 f.b l) j) ∧
  (∀ f : BinI, LaneBy (.imul96i f) f.h f.d fun w l x => IsInts f.t false x fun j =>
    intAt f.t (w.src false f.a l) j * intAt f.t f.imm j) ∧
  (∀ f : Bin, LaneBy (.imulhi f) f.h f.d fun w l x => x = BitVec.ofInt 32
    (intOf (tySigned f.t) 32 (w.src false f.a l).toNat * intOf (tySigned f.t) 32 (w.src f.m4 f.b l).toNat / 2 ^ 32)) ∧
  (∀ f : Bin, LaneBy (.imin f) f.h f.d fun w l x => IsInts f.t false x fun j =>
    min (intAt f.t (w.src false f.a l) j) (intAt f.t (w.src f.m4 f.b l) j)) ∧
  (∀ f : BinI, LaneBy (.imin96i f) f.h f.d fun w l x => IsInts f.t false x fun j =>
    min (intAt f.t (w.src false f.a l) j) (intAt f.t f.imm j)) ∧
  (∀ f : Bin, LaneBy (.imax f) f.h f.d fun w l x => IsInts f.t false x fun j =>
    max (intAt f.t (w.src false f.a l) j) (intAt f.t (w.src f.m4 f.b l) j)) ∧
  (∀ f : BinI, LaneBy (.imax96i f) f.h f.d fun w l x => IsInts f.t false x fun j =>
    max (intAt f.t (w.src false f.a l) j) (intAt f.t f.imm j)) ∧
  (∀ f : Un, tySigned f.t = true → LaneBy (.iabs f) f.h f.d fun w l x => IsInts f.t f.m4 x fun j =>
    (intAt f.t (w.src false f.a l) j).natAbs) ∧
  (∀ f : Tern, LaneBy (.isad f) f.h f.d fun w l x => IsInts f.t false x fun j =>
    (intAt f.t (w.src false f.a l) j - intAt f.t (w.src f.ub f.b l) j).natAbs + intAt f.t (w.src f.uc f.c l) j) ∧
  (∀ f : Tern, LaneBy (.iclamp f) f.h f.d fun w l x => IsInts f.t false x fun j =>
    min (max (intAt f.t (w.src false f.a l) j) (intAt f.t (w.src f.ub f.b l) j)) (intAt f.t (w.src f.uc f.c l) j)) ∧
  (∀ f : Tern, LaneBy (.imad f) f.h f.d fun w l x => IsInts f.t f.sat x fun j =>
    intAt f.t (w.src false f.a l) j * intAt f.t (w.src f.ub f.b l) j + intAt f.t (w.src f.uc f.c l) j)

/-- The pair forms: the pair D gets the exact result of the pairs A and B, of the products, or of the address,
reduced to 64 bits (R255, R253). -/
def Sys2Proof.PairArithmeticRules : Prop :=
  (∀ f : Bin, LanePair (.iadd64 f) f.h f.d fun w l => BitVec.ofNat 64 (reduce f.m4 (tySigned f.t) 64
    (intOf (tySigned f.t) 64 (w.pair f.a l).toNat + intOf (tySigned f.t) 64 (w.pair f.b l).toNat))) ∧
  (∀ f : BinL, LanePair (.iadd64128i f) f.h f.d fun w l => BitVec.ofNat 64 (reduce f.m4 (tySigned f.t) 64
    (intOf (tySigned f.t) 64 (w.pair f.a l).toNat + intOf (tySigned f.t) 64 f.imm.toNat))) ∧
  (∀ f : Bin, LanePair (.isub64 f) f.h f.d fun w l => BitVec.ofNat 64 (reduce f.m4 (tySigned f.t) 64
    (intOf (tySigned f.t) 64 (w.pair f.a l).toNat - intOf (tySigned f.t) 64 (w.pair f.b l).toNat))) ∧
  (∀ f : Tern, LanePair (.imadw f) f.h f.d fun w l => BitVec.ofNat 64 (reduce f.sat (tySigned f.t) 64
    (intOf (tySigned f.t) 32 (w.src false f.a l).toNat * intOf (tySigned f.t) 32 (w.src f.ub f.b l).toNat +
      intOf (tySigned f.t) 64 (w.pair f.c l).toNat))) ∧
  (∀ f : Tern, tySigned f.t = false → LanePair (.lea f) f.h f.d fun w l =>
    w.pair f.a l + ((w.src false f.b l).setWidth 64 <<< f.sel.toNat)) ∧
  (∀ f : Tern, tySigned f.t = true → LanePair (.lea f) f.h f.d fun w l =>
    w.pair f.a l + ((w.src false f.b l).signExtend 64 <<< f.sel.toNat))

/-- Integer arithmetic on words, elements and pairs (14.2). -/
def Obligations.Integers : Prop := IntegerArithmeticRules ∧ PairArithmeticRules

/-- Table 14.2, shifts: by elements of width w, with n = b mod 256; n ≥ w leaves 0, or w copies of the sign, and a
rotation goes by n mod w; FSHF shifts the pair c:a by b mod 64 (R256). -/
def Sys2Proof.ShiftsRules : Prop :=
  (∀ f : Bin, LaneBy (.shl f) f.h f.d fun w l x => IsElems f.t x fun j =>
    elemAt (tyWidth f.t) (w.src false f.a l) j <<< (elemAt (tyWidth f.t) (w.src f.m4 f.b l) j % 256)) ∧
  (∀ f : BinI, LaneBy (.shl96i f) f.h f.d fun w l x => IsElems f.t x fun j =>
    elemAt (tyWidth f.t) (w.src false f.a l) j <<< (elemAt (tyWidth f.t) f.imm j % 256)) ∧
  (∀ f : Bin, LaneBy (.shr f) f.h f.d fun w l x => IsElems f.t x fun j =>
    elemAt (tyWidth f.t) (w.src false f.a l) j >>> (elemAt (tyWidth f.t) (w.src f.m4 f.b l) j % 256)) ∧
  (∀ f : BinI, LaneBy (.shr96i f) f.h f.d fun w l x => IsElems f.t x fun j =>
    elemAt (tyWidth f.t) (w.src false f.a l) j >>> (elemAt (tyWidth f.t) f.imm j % 256)) ∧
  (∀ f : Bin, tySigned f.t = true → LaneBy (.sar f) f.h f.d fun w l x => IsInts f.t false x fun j =>
    intAt f.t (w.src false f.a l) j >>> (elemAt (tyWidth f.t) (w.src f.m4 f.b l) j % 256)) ∧
  (∀ f : BinI, tySigned f.t = true → LaneBy (.sar96i f) f.h f.d fun w l x => IsInts f.t false x fun j =>
    intAt f.t (w.src false f.a l) j >>> (elemAt (tyWidth f.t) f.imm j % 256)) ∧
  (∀ f : Bin, LaneBy (.rot f) f.h f.d fun w l x => ∀ j, j < 32 / tyWidth f.t → ∀ k, k < tyWidth f.t →
    x.getLsbD (tyWidth f.t * j + (k + elemAt (tyWidth f.t) (w.src f.m4 f.b l) j) % tyWidth f.t) =
      (w.src false f.a l).getLsbD (tyWidth f.t * j + k)) ∧
  (∀ f : BinI, LaneBy (.rot96i f) f.h f.d fun w l x => ∀ j, j < 32 / tyWidth f.t → ∀ k, k < tyWidth f.t →
    x.getLsbD (tyWidth f.t * j + (k + elemAt (tyWidth f.t) f.imm j) % tyWidth f.t) =
      (w.src false f.a l).getLsbD (tyWidth f.t * j + k)) ∧
  (∀ f : Tern, f.sel.getLsbD 0 = true → LaneWord (.fshf f) f.h f.d fun w l =>
    (((w.src f.uc f.c l ++ w.src false f.a l : BitVec 64) <<< ((w.src f.ub f.b l).toNat % 64)) >>> 32).setWidth 32) ∧
  (∀ f : Tern, f.sel.getLsbD 0 = false → LaneWord (.fshf f) f.h f.d fun w l =>
    ((w.src f.uc f.c l ++ w.src false f.a l : BitVec 64) >>> ((w.src f.ub f.b l).toNat % 64)).setWidth 32)

/-- Table 14.2, logic and counts: AND, OR, XOR and NOT act bit by bit, BOOL3 looks bit i up in its table, POPC counts
the ones, CLZ the zeros above the highest one (R256). -/
def Sys2Proof.LogicRules : Prop :=
  (∀ f : Bin, LaneWord (.and f) f.h f.d fun w l => w.src false f.a l &&& w.src f.m4 f.b l) ∧
  (∀ f : BinI, LaneWord (.and96i f) f.h f.d fun w l => w.src false f.a l &&& f.imm) ∧
  (∀ f : Bin, LaneWord (.or f) f.h f.d fun w l => w.src false f.a l ||| w.src f.m4 f.b l) ∧
  (∀ f : BinI, LaneWord (.or96i f) f.h f.d fun w l => w.src false f.a l ||| f.imm) ∧
  (∀ f : Bin, LaneWord (.xor f) f.h f.d fun w l => w.src false f.a l ^^^ w.src f.m4 f.b l) ∧
  (∀ f : BinI, LaneWord (.xor96i f) f.h f.d fun w l => w.src false f.a l ^^^ f.imm) ∧
  (∀ f : Un, LaneWord (.not f) f.h f.d fun w l => ~~~(w.src false f.a l)) ∧
  (∀ f : Tern, LaneBy (.bool3 f) f.h f.d fun w l x => ∀ i, i < 32 → x.getLsbD i = f.sel.getLsbD
    (((w.src f.uc f.c l).getLsbD i).toNat * 4 + ((w.src f.ub f.b l).getLsbD i).toNat * 2 + ((w.src false f.a l).getLsbD i).toNat)) ∧
  (∀ f : Un, LaneBy (.popc f) f.h f.d fun w l x =>
    x.toNat = ((List.range 32).map (fun i => ((w.src false f.a l).getLsbD i).toNat)).sum) ∧
  (∀ f : Un, LaneBy (.clz f) f.h f.d fun w l x =>
    if w.src false f.a l = 0 then x = 32 else x.toNat < 32 ∧ (w.src false f.a l).getLsbD (31 - x.toNat) = true ∧
      ∀ k, k < x.toNat → (w.src false f.a l).getLsbD (31 - k) = false) ∧
  (∀ f : Un, LaneBy (.brev f) f.h f.d fun w l x => ∀ i, i < 32 → x.getLsbD i = (w.src false f.a l).getLsbD (31 - i))

/-- The field that a control word of R257 names in a word: bit pos + i, or, past bit 31, 0 or the sign. -/
def Sys2Proof.fieldBit (sgn : Bool) (a b : Word) (i : Nat) : Bool :=
  if bfPos b + i < 32 then a.getLsbD (bfPos b + i) else sgn && a.getLsbD 31
/-- Bit fields and byte selection: BFE extracts and extends, BFI inserts, BYSEL picks bytes (R257). -/
def Sys2Proof.BitFieldsRules : Prop :=
  (∀ f : Bin, LaneBy (.bfe f) f.h f.d fun w l x => ∀ i, i < 32 →
    x.getLsbD i = if i < bfWidth (w.src f.m4 f.b l) then fieldBit (tySigned f.t) (w.src false f.a l) (w.src f.m4 f.b l) i
      else tySigned f.t && bfWidth (w.src f.m4 f.b l) ≠ 0 &&
        fieldBit true (w.src false f.a l) (w.src f.m4 f.b l) (bfWidth (w.src f.m4 f.b l) - 1)) ∧
  (∀ f : BinI, LaneBy (.bfe96i f) f.h f.d fun w l x => ∀ i, i < 32 →
    x.getLsbD i = if i < bfWidth f.imm then fieldBit (tySigned f.t) (w.src false f.a l) f.imm i
      else tySigned f.t && bfWidth f.imm ≠ 0 && fieldBit true (w.src false f.a l) f.imm (bfWidth f.imm - 1)) ∧
  (∀ f : Tern, LaneBy (.bfi f) f.h f.d fun w l x => ∀ i, i < 32 →
    x.getLsbD i = if bfPos (w.src f.uc f.c l) ≤ i ∧ i < bfPos (w.src f.uc f.c l) + bfWidth (w.src f.uc f.c l)
      then (w.src f.ub f.b l).getLsbD (i - bfPos (w.src f.uc f.c l)) else (w.src false f.a l).getLsbD i) ∧
  (∀ f : Tern, LaneBy (.bysel f) f.h f.d fun w l x => ∀ k, k < 4 → elemAt 8 x k =
    let n := (w.src f.uc f.c l).toNat / 2 ^ (4 * k) % 16
    if n ≥ 8 then 0 else if n ≥ 4 then elemAt 8 (w.src f.ub f.b l) (n - 4) else elemAt 8 (w.src false f.a l) n)

/-- Shifts, logic and bit fields (14.3). -/
def Obligations.BitwiseAndShifts : Prop := ShiftsRules ∧ LogicRules ∧ BitFieldsRules

/-- Selects, moves and dot products: ISEL by bit k of C, MOV, MOVI and MOVI64 (R260), and IDP4 and IDP2, whose exact
sum is reduced to S32 (R261). -/
def Sys2Proof.MovesAndDotsRules : Prop :=
  (∀ f : Tern, LaneWord (.isel f) f.h f.d fun w l =>
    if (w.src f.uc f.c l).getLsbD f.sel.toNat then w.src false f.a l else w.src f.ub f.b l) ∧
  (∀ f : Un, LaneWord (.mov f) f.h f.d fun w l => w.src f.m4 f.a l) ∧
  (∀ f : Movi, LaneWord (.movi f) f.h f.d fun _ _ => f.imm) ∧
  (∀ f : Movl, LanePair (.movi64 f) f.h f.d fun _ _ => f.imm) ∧
  (∀ f : Tern, f.t = .u8x4 ∨ f.t = .s8x4 → LaneWord (.idp4 f) f.h f.d fun w l =>
    BitVec.ofNat 32 (reduce f.sat true 32 ((w.src f.uc f.c l).toInt + ((List.range 4).map (fun j =>
      intAt f.t (w.src false f.a l) j * intOf (f.sel.getLsbD 0) 8 (elemAt 8 (w.src f.ub f.b l) j))).sum))) ∧
  (∀ f : Tern, f.t = .u16x2 ∨ f.t = .s16x2 → LaneWord (.idp2 f) f.h f.d fun w l =>
    BitVec.ofNat 32 (reduce f.sat true 32 ((w.src f.uc f.c l).toInt + ((List.range 2).map (fun j =>
      intAt f.t (w.src false f.a l) j * intOf (f.sel.getLsbD 0) 16 (elemAt 16 (w.src f.ub f.b l) j))).sum)))

/-- Bits k and k + 1 of D get p and q, and its other bits stay. -/
def Sys2Proof.PairOfBits (k : Nat) (old x : Word) (p q : Bool) : Prop :=
  ∀ i, i < 32 → x.getLsbD i = if i = k then p else if i = k + 1 then q else old.getLsbD i
/-- The machine keeps no flags: a compare writes bit k of D with a < b and bit k + 1 with a = b (R258), an FCMP the
pair of its mode (R264), PLOP bit k alone (R259); the other bits of D, and everything else, are unchanged. -/
def Obligations.Compares : Prop :=
  (∀ f : Cmp, f.m0 = true → LaneBy (.icmp f) f.h f.d fun w l x => PairOfBits (2 * f.k2.toNat) (w.rg f.d.toNat l) x
    ((w.rg f.a.toNat l).slt (w.rg f.b.toNat l)) (w.rg f.a.toNat l == w.rg f.b.toNat l)) ∧
  (∀ f : Cmp, f.m0 = false → LaneBy (.icmp f) f.h f.d fun w l x => PairOfBits (2 * f.k2.toNat) (w.rg f.d.toNat l) x
    ((w.rg f.a.toNat l).ult (w.rg f.b.toNat l)) (w.rg f.a.toNat l == w.rg f.b.toNat l)) ∧
  (∀ f : CmpI, f.m0 = true → LaneBy (.icmp96i f) f.h f.d fun w l x => PairOfBits (2 * f.k2.toNat) (w.rg f.d.toNat l) x
    ((w.rg f.a.toNat l).slt f.imm) (w.rg f.a.toNat l == f.imm)) ∧
  (∀ f : CmpI, f.m0 = false → LaneBy (.icmp96i f) f.h f.d fun w l x => PairOfBits (2 * f.k2.toNat) (w.rg f.d.toNat l) x
    ((w.rg f.a.toNat l).ult f.imm) (w.rg f.a.toNat l == f.imm)) ∧
  (∀ f : Cmp, f.m0 = true → LaneBy (.icmp64 f) f.h f.d fun w l x => PairOfBits (2 * f.k2.toNat) (w.rg f.d.toNat l) x
    ((w.pair f.a l).slt (w.pair f.b l)) (w.pair f.a l == w.pair f.b l)) ∧
  (∀ f : Cmp, f.m0 = false → LaneBy (.icmp64 f) f.h f.d fun w l x => PairOfBits (2 * f.k2.toNat) (w.rg f.d.toNat l) x
    ((w.pair f.a l).ult (w.pair f.b l)) (w.pair f.a l == w.pair f.b l)) ∧
  (∀ f : Plop, LaneBy (.plop f) f.h f.d fun w l x => ∀ i, i < 32 → x.getLsbD i =
    if i = f.k.toNat then plopBit f.op ((w.rg f.d.toNat l).getLsbD i) ((w.rg f.a.toNat l).getLsbD f.i.toNat)
    else (w.rg f.d.toNat l).getLsbD i) ∧
  (∀ f : Cmp, f.m0 = false → LaneBy (.fcmp f) f.h f.d fun w l x => PairOfBits (2 * f.k2.toNat) (w.rg f.d.toNat l) x
    ((f32 (w.rg f.a.toNat l)).lt (f32 (w.rg f.b.toNat l))) ((f32 (w.rg f.a.toNat l)).eqv (f32 (w.rg f.b.toNat l)))) ∧
  (∀ f : Cmp, f.m0 = true → LaneBy (.fcmp f) f.h f.d fun w l x => PairOfBits (2 * f.k2.toNat) (w.rg f.d.toNat l) x
    ((f32 (w.rg f.b.toNat l)).lt (f32 (w.rg f.a.toNat l)))
    ((f32 (w.rg f.a.toNat l)).isNan || (f32 (w.rg f.b.toNat l)).isNan)) ∧
  (∀ f : CmpI, f.m0 = false → LaneBy (.fcmp96i f) f.h f.d fun w l x => PairOfBits (2 * f.k2.toNat) (w.rg f.d.toNat l) x
    ((f32 (w.rg f.a.toNat l)).lt (f32 f.imm)) ((f32 (w.rg f.a.toNat l)).eqv (f32 f.imm))) ∧
  (∀ f : CmpI, f.m0 = true → LaneBy (.fcmp96i f) f.h f.d fun w l x => PairOfBits (2 * f.k2.toNat) (w.rg f.d.toNat l) x
    ((f32 f.imm).lt (f32 (w.rg f.a.toNat l))) ((f32 (w.rg f.a.toNat l)).isNan || (f32 f.imm).isNan))

/-- The three NOP forms have no effect: the gang goes on behind them (R260). -/
def Sys2Proof.NopsRules : Prop :=
  (∀ f : Bare, NoEffect (.nop f)) ∧ (∀ f : NopI, NoEffect (.nop96i f)) ∧ (∀ f : NopL, NoEffect (.nop128i f))

/-- Moves, dot products and NOP (14.4). -/
def Obligations.MovesDotsAndNops : Prop := MovesAndDotsRules ∧ NopsRules

/-! Group 1: floating point (14.5). -/

/-- FMIN and FMAX return an operand's own code: the other operand for one NaN, the canonical NaN for two (R263). -/
def Sys2Proof.lesserCode (t : Ty) (a b : Nat) : Nat :=
  if (dec (tyFmt t) a).isNan && (dec (tyFmt t) b).isNan then ((tyFmt t).nan).getD 0
  else if (dec (tyFmt t) a).isNan then b else if (dec (tyFmt t) b).isNan then a
  else if (dec (tyFmt t) b).ltz (dec (tyFmt t) a) then b else a
def Sys2Proof.greaterCode (t : Ty) (a b : Nat) : Nat :=
  if (dec (tyFmt t) a).isNan && (dec (tyFmt t) b).isNan then ((tyFmt t).nan).getD 0
  else if (dec (tyFmt t) a).isNan then b else if (dec (tyFmt t) b).isNan then a
  else if (dec (tyFmt t) a).ltz (dec (tyFmt t) b) then b else a
/-- FP32 and packed arithmetic: the exact sum, difference, product or product and sum of the elements, rounded once,
to nearest or under the mode of FFMA; PFMA2 with BLO takes element 0 of B for both (R262, R266, R267). -/
def Obligations.FloatArithmetic : Prop :=
  (∀ f : Bin, LaneBy (.fadd f) f.h f.d fun w l x => IsNums f.t .rne x fun j =>
    addX false (numAt f.t (w.src false f.a l) j) (numAt f.t (w.src f.m4 f.b l) j)) ∧
  (∀ f : BinI, LaneBy (.fadd96i f) f.h f.d fun w l x => IsNums f.t .rne x fun j =>
    addX false (numAt f.t (w.src false f.a l) j) (numAt f.t f.imm j)) ∧
  (∀ f : Bin, LaneBy (.fsub f) f.h f.d fun w l x => IsNums f.t .rne x fun j =>
    subX (numAt f.t (w.src false f.a l) j) (numAt f.t (w.src f.m4 f.b l) j)) ∧
  (∀ f : BinI, LaneBy (.fsub96i f) f.h f.d fun w l x => IsNums f.t .rne x fun j =>
    subX (numAt f.t (w.src false f.a l) j) (numAt f.t f.imm j)) ∧
  (∀ f : Bin, LaneBy (.fmul f) f.h f.d fun w l x => IsNums f.t .rne x fun j =>
    mulX (numAt f.t (w.src false f.a l) j) (numAt f.t (w.src f.m4 f.b l) j)) ∧
  (∀ f : BinI, LaneBy (.fmul96i f) f.h f.d fun w l x => IsNums f.t .rne x fun j =>
    mulX (numAt f.t (w.src false f.a l) j) (numAt f.t f.imm j)) ∧
  (∀ f : Tern, LaneBy (.ffma f) f.h f.d fun w l x => IsNums f.t (rmOf (bits f.sel 0 2)) x fun j =>
    addX (rmOf (bits f.sel 0 2) == .rd)
      (mulX (numAt f.t (w.src false f.a l) j) (numAt f.t (w.src f.ub f.b l) j)) (numAt f.t (w.src f.uc f.c l) j)) ∧
  (∀ f : Bin, LaneBy (.padd2 f) f.h f.d fun w l x => IsNums f.t .rne x fun j =>
    addX false (numAt f.t (w.src false f.a l) j) (numAt f.t (w.src f.m4 f.b l) j)) ∧
  (∀ f : BinI, LaneBy (.padd296i f) f.h f.d fun w l x => IsNums f.t .rne x fun j =>
    addX false (numAt f.t (w.src false f.a l) j) (numAt f.t f.imm j)) ∧
  (∀ f : Bin, LaneBy (.pmul2 f) f.h f.d fun w l x => IsNums f.t .rne x fun j =>
    mulX (numAt f.t (w.src false f.a l) j) (numAt f.t (w.src f.m4 f.b l) j)) ∧
  (∀ f : BinI, LaneBy (.pmul296i f) f.h f.d fun w l x => IsNums f.t .rne x fun j =>
    mulX (numAt f.t (w.src false f.a l) j) (numAt f.t f.imm j)) ∧
  (∀ f : Tern, tyWidth f.t = 16 → LaneBy (.pfma2 f) f.h f.d fun w l x => IsNums f.t .rne x fun j =>
    addX false (mulX (numAt f.t (w.src false f.a l) j) (numAt f.t (w.src f.ub f.b l) (if f.sat then 0 else j)))
      (numAt f.t (w.src f.uc f.c l) j))

/-- Choice and form: FMIN, FMAX, FCLAMP, PMIN2 and PMAX2 return operands' codes (R263, R267); FRND an integral value
under its mode, FSCALE a · 2^b for b within ±400, FCLASS one class bit, FDOT2 the chunk sum of two products (R262,
R266). -/
def Sys2Proof.FloatChoiceRules : Prop :=
  (∀ f : Bin, LaneBy (.fmin f) f.h f.d fun w l x => IsElems f.t x fun j =>
    lesserCode f.t (elemAt (tyWidth f.t) (w.src false f.a l) j) (elemAt (tyWidth f.t) (w.src f.m4 f.b l) j)) ∧
  (∀ f : Bin, LaneBy (.fmax f) f.h f.d fun w l x => IsElems f.t x fun j =>
    greaterCode f.t (elemAt (tyWidth f.t) (w.src false f.a l) j) (elemAt (tyWidth f.t) (w.src f.m4 f.b l) j)) ∧
  (∀ f : Bin, LaneBy (.pmin2 f) f.h f.d fun w l x => IsElems f.t x fun j =>
    lesserCode f.t (elemAt (tyWidth f.t) (w.src false f.a l) j) (elemAt (tyWidth f.t) (w.src f.m4 f.b l) j)) ∧
  (∀ f : Bin, LaneBy (.pmax2 f) f.h f.d fun w l x => IsElems f.t x fun j =>
    greaterCode f.t (elemAt (tyWidth f.t) (w.src false f.a l) j) (elemAt (tyWidth f.t) (w.src f.m4 f.b l) j)) ∧
  (∀ f : Tern, f.t = .f32 → LaneWord (.fclamp f) f.h f.d fun w l => BitVec.ofNat 32 (lesserCode .f32
    (greaterCode .f32 (w.src false f.a l).toNat (w.src f.ub f.b l).toNat) (w.src f.uc f.c l).toNat)) ∧
  (∀ f : Frnd, LaneWord (.frnd f) f.h f.d fun w l =>
    BitVec.ofNat 32 (enc fF32 (.rm .rne) false (roundIntX (.rm f.rm) (f32 (w.rg f.a.toNat l))))) ∧
  (∀ f : Bin, LaneBy (.fscale f) f.h f.d fun w l x => (w.src f.m4 f.b l).toInt.natAbs ≤ 400 →
    x = BitVec.ofNat 32 (enc fF32 (.rm .rne) false ((f32 (w.src false f.a l)).scale (w.src f.m4 f.b l).toInt))) ∧
  (∀ f : Un, LaneWord (.fclass f) f.h f.d fun w l => 1#32 <<< fclassBit (w.src false f.a l)) ∧
  (∀ f : Tern, tyWidth f.t = 16 → LaneWord (.fdot2 f) f.h f.d fun w l => BitVec.ofNat 32 (enc fF32 (.rm .rne) false
    (chunkSum (f32 (w.src f.uc f.c l))
      [mulX (numAt f.t (w.src false f.a l) 0) (numAt f.t (w.src f.ub f.b l) 0),
       mulX (numAt f.t (w.src false f.a l) 1) (numAt f.t (w.src f.ub f.b l) 1)])))

/-- FSCALE for every b: one rounding of the exact product a · 2^b (R262). -/
def Sys2Proof.FscaleExactRules : Prop :=
  ∀ f : Bin, LaneBy (.fscale f) f.h f.d fun w l x =>
    x = BitVec.ofNat 32 (enc fF32 (.rm .rne) false ((f32 (w.src false f.a l)).scale (w.src f.m4 f.b l).toInt))

/-- FMIN, FMAX, absolute values, roundings, FSCALE and their exact cases (14.5).
In the clauses that log 66 names it states the model's reading. -/
def Obligations.FloatChoices : Prop := FloatChoiceRules ∧ FscaleExactRules

/-- The long-latency functions issue, fix the rounded value of each taking-part lane, and leave D pending (R265, R62);
LONG_LATENCY_RESULT then writes what was fixed, takes the result off the scoreboard and retires the instruction: counts
and timers apart it changes nothing else, and nothing at all while accesses of the result have not answered. -/
def Obligations.LongLatency : Prop :=
  (∀ f : Un, LongWord (.frcp f) f.h f.d fun w l => rne (divX oneX (f32 (w.rg f.a.toNat l)))) ∧
  (∀ f : Un, LongWord (.frsq f) f.h f.d fun w l => rne (rsqrtX (f32 (w.rg f.a.toNat l)))) ∧
  (∀ f : Un, LongWord (.fsqrt f) f.h f.d fun w l => rne (sqrtX (f32 (w.rg f.a.toNat l)))) ∧
  (∀ f : Un, LongWord (.fexp2 f) f.h f.d fun w l => rne (fexp2X (f32 (w.rg f.a.toNat l)))) ∧
  (∀ f : Un, LongWord (.flog2 f) f.h f.d fun w l => rne (flog2X (f32 (w.rg f.a.toNat l)))) ∧
  (∀ f : Un, LongWord (.ftanh f) f.h f.d fun w l => rne (ftanhX (f32 (w.rg f.a.toNat l)))) ∧
  (∀ s id p, s.pend? id = some p → p.left = 0 → p.tiles = [] → (aget s.warps p.warp).isSome = true →
    ∃ t, exec (.longLatencyResult id) s = .next t ∧ t.warp p.warp = (s.warp p.warp).wrs p.writes ∧
      (∀ k, k ≠ p.warp → t.warp k = s.warp k) ∧ t.pends = s.pends.filter (fun x => x.id ≠ p.id) ∧
      Counted { s with pends := [] } { t with pends := [] } ∧ SameRest s t) ∧
  (∀ s id p, s.pend? id = some p → p.left ≠ 0 → exec (.longLatencyResult id) s = .next s)

/-! Group 2: conversions, lanes and special registers (14.6 to 14.8). -/

/-- CVT converts each element of the source, and a pair of equal types copies (R268, R52); CVTPK packs two converted
scalars into elements of D and copies the others from C (R269); CVTUPK takes element j out, exactly (R270). -/
def Obligations.Conversions : Prop :=
  (∀ f : Cvt, tyRegs f.td = 1 → tyRegs f.ts = 1 → tyWidth f.ts = tyWidth f.td → LaneBy (.cvt f) f.h f.d fun w l x =>
    IsElems f.td x fun j => convElem f.td f.ts (cvMode f.dith f.rm (l * tyElems f.td + j) 0) f.sat
      (elemAt (tyWidth f.ts) (w.rg f.a.toNat l) j)) ∧
  (∀ f : Cvt, tyRegs f.td = 1 → tyRegs f.ts = 2 → tyElems f.td = 1 → LaneWord (.cvt f) f.h f.d fun w l =>
    BitVec.ofNat 32 (convElem f.td f.ts (cvMode f.dith f.rm l 0) f.sat (w.pair f.a l).toNat)) ∧
  (∀ f : Cvt, tyRegs f.td = 2 → tyRegs f.ts = 1 → tyElems f.ts = 1 → LanePair (.cvt f) f.h f.d fun w l =>
    BitVec.ofNat 64 (convElem f.td f.ts (cvMode f.dith f.rm l 0) f.sat (w.rg f.a.toNat l).toNat)) ∧
  (∀ f : Cvt, tyRegs f.td = 2 → tyRegs f.ts = 2 → LanePair (.cvt f) f.h f.d fun w l =>
    BitVec.ofNat 64 (convElem f.td f.ts (cvMode f.dith f.rm l 0) f.sat (w.pair f.a l).toNat)) ∧
  (∀ f : Cvtpk, tyElems f.td = 2 → LaneBy (.cvtpk f) f.h f.d fun w l x => IsElems f.td x fun j =>
    convElem f.td f.ts (cvMode f.dith f.rm (l * 2 + j) f.p.toNat) f.sat (w.rg (if j = 0 then f.a else f.b).toNat l).toNat) ∧
  (∀ f : Cvtpk, tyElems f.td = 4 → LaneBy (.cvtpk f) f.h f.d fun w l x => IsElems f.td x fun j =>
    if j / 2 = f.hi.toNat then convElem f.td f.ts (cvMode f.dith f.rm (l * 4 + j) f.p.toNat) f.sat
      (w.rg (if j % 2 = 0 then f.a else f.b).toNat l).toNat
    else elemAt 8 (w.rg f.c.toNat l) j) ∧
  (∀ f : Cvtupk, tySigned f.ts = true → f.j.toNat < 32 / tyWidth f.ts → LaneWord (.cvtupk f) f.h f.d fun w l =>
    BitVec.ofInt 32 (intAt f.ts (w.rg f.a.toNat l) f.j.toNat)) ∧
  (∀ f : Cvtupk, tyKind f.ts = .uint → f.j.toNat < 32 / tyWidth f.ts → LaneWord (.cvtupk f) f.h f.d fun w l =>
    BitVec.ofNat 32 (elemAt (tyWidth f.ts) (w.rg f.a.toNat l) f.j.toNat)) ∧
  (∀ f : Cvtupk, ∀ m, tyKind f.ts = .float m → f.j.toNat < 32 / tyWidth f.ts → LaneWord (.cvtupk f) f.h f.d fun w l =>
    rne (dec m (elemAt (tyWidth f.ts) (w.rg f.a.toNat l) f.j.toNat)))

/-- A[k] if lane k takes part, else C[l] (R272). -/
def Sys2Proof.fromLane (f : Lxch) (w : Warp) (lanes : List Nat) (l k : Nat) : Word :=
  if k ∈ lanes then w.rg f.a.toNat k else w.rg f.c.toNat l
/-- LXCH takes A from the lane its mode names within the segment, if that lane is valid and takes part, else C
(R272). -/
def Sys2Proof.LaneExchangeRules : Prop :=
  (∀ f : Lxch, f.mode = .get → LaneAll (.lxch f) f.h f.d fun w lanes l =>
    fromLane f w lanes l (l - l % 2 ^ f.lw.toNat + (w.rg f.b.toNat l).toNat % 2 ^ f.lw.toNat)) ∧
  (∀ f : Lxch, f.mode = .rot → LaneAll (.lxch f) f.h f.d fun w lanes l =>
    fromLane f w lanes l (l - l % 2 ^ f.lw.toNat + (l % 2 ^ f.lw.toNat + (w.rg f.b.toNat l).toNat) % 2 ^ f.lw.toNat)) ∧
  (∀ f : Lxch, f.mode = .shift → LaneAll (.lxch f) f.h f.d fun w lanes l =>
    let s : Int := l + (w.rg f.b.toNat l).toInt
    let base : Int := (l - l % 2 ^ f.lw.toNat : Nat)
    if base ≤ s ∧ s < base + 2 ^ f.lw.toNat then fromLane f w lanes l s.toNat else w.rg f.c.toNat l) ∧
  (∀ f : Lxch, f.mode = .bfly → LaneAll (.lxch f) f.h f.d fun w lanes l =>
    if (w.rg f.b.toNat l).toNat < 2 ^ f.lw.toNat then fromLane f w lanes l (l ^^^ (w.rg f.b.toNat l).toNat)
    else w.rg f.c.toNat l)

/-- The census instructions: every taking-part lane receives the same word of all of them (LPOLL, LMASK), the lanes
that hold its own value (LPEER), or the lowest of them (LFIRST) (R273). -/
def Sys2Proof.LaneCensusRules : Prop :=
  (∀ f : Lbit, LaneAll (.lpoll f) f.h f.d fun w lanes _ =>
    let n := (lanes.filter (fun k => (w.rg f.a.toNat k).getLsbD f.k.toNat)).length
    BitVec.ofNat 32 (n + (if n > 0 then 64 else 0) + (if n = lanes.length then 128 else 0) +
      (if n = 0 ∨ n = lanes.length then 256 else 0))) ∧
  (∀ f : Lbit, Completes (.lmask f) Always fun s t g => Quiet s t g (onward g) ∧ ∃ v, GotWord s t g f.h f.d v ∧
    ∀ l ∈ s.taking g f.h, ∀ k, k < 32 → (v (s.warp g.warp) l).getLsbD k =
      decide (k ∈ s.taking g f.h ∧ ((s.warp g.warp).rg f.a.toNat k).getLsbD f.k.toNat ≠ f.inv)) ∧
  (∀ f : Un, f.m4 = false → Completes (.lpeer f) Always fun s t g => Quiet s t g (onward g) ∧ ∃ v, GotWord s t g f.h f.d v ∧
    ∀ l ∈ s.taking g f.h, ∀ k, k < 32 → (v (s.warp g.warp) l).getLsbD k =
      decide (k ∈ s.taking g f.h ∧ (s.warp g.warp).val f.t f.a k = (s.warp g.warp).val f.t f.a l)) ∧
  (∀ f : Un, f.m4 = true → LaneAll (.lpeer f) f.h f.d fun w lanes l =>
    BitVec.ofNat 32 ((lanes.find? (fun k => w.val f.t f.a k = w.val f.t f.a l)).getD 0)) ∧
  (∀ f : OnlyD, LaneAll (.lfirst f) f.h f.d fun _ lanes l =>
    BitVec.ofNat 32 ((if lanes.head? = some l then 1 else 0) + 256 * lanes.headD 0))

/-- The folds and scans: over the taking-part lanes of the lane's segment, all of them or those at or below it (below
it, if exclusive), in ascending lane order (R274, R275). -/
def Sys2Proof.FoldsAndScansRules : Prop :=
  (∀ f : Fold, LaneAll (.ifold f) f.h f.d fun w lanes l =>
    ((lanes.filter (fun k => k / foldWidth f = l / foldWidth f)).map (fun k => w.rg f.a.toNat k)).foldl (foldFn f.t f.op) (foldId f.t f.op)) ∧
  (∀ f : Fold, LaneAll (.scan f) f.h f.d fun w lanes l =>
    ((lanes.filter (fun k => k / foldWidth f = l / foldWidth f ∧ (k < l ∨ (k = l ∧ f.excl = false)))).map (fun k => w.rg f.a.toNat k)).foldl
      (foldFn f.t f.op) (foldId f.t f.op)) ∧
  (∀ f : Fold, LaneAll (.ffold f) f.h f.d fun w lanes l =>
    ffold f.op ((lanes.filter (fun k => k / foldWidth f = l / foldWidth f)).map (fun k => w.rg f.a.toNat k))) ∧
  (∀ f : Fold, LaneAll (.fscan f) f.h f.d fun w lanes l =>
    ffold f.op ((lanes.filter (fun k => k / foldWidth f = l / foldWidth f ∧ (k < l ∨ (k = l ∧ f.excl = false)))).map (fun k => w.rg f.a.toNat k))) ∧
  (∀ l, ffold .add l = rne (chunkSum zeroX (l.map f32))) ∧ ffold .min [] = 0x7F800000#32 ∧ ffold .max [] = 0xFF800000#32

/-- Exchange, census, folds and scans between lanes (14.7). -/
def Obligations.LanesAcross : Prop := LaneExchangeRules ∧ LaneCensusRules ∧ FoldsAndScansRules

/-- The capture that a read of %gtime or %whz makes, if any lane takes part (R70). -/
def Sys2Proof.captured (s : State) (g : Cur) (f : Sreg) : State :=
  if s.taking g f.h = [] then s else s.modWarp g.warp (fun w => w.capture f.code.toNat s.gtime)
/-- SREG writes the register's value to D in each taking-part lane, with the captures of R70 (R276); SREGW %lease sets
the context's lease to the lowest taking-part lane's value, held to 128 to 16384, and nothing if none takes part
(R71).
In the clauses that logs 6, 67 name it states the model's reading. -/
def Sys2Proof.SregRules : Prop :=
  (∀ f : Sreg, Completes (.sreg f) Always fun s t g => Quiet (captured s g f) t g (onward g) ∧
    GotWord s t g f.h f.r (fun _ l => s.special g.warp f.code.toNat l)) ∧
  (∀ f : Sreg, Completes (.sregw f) (fun s g => s.taking g f.h ≠ []) fun s t g =>
    let v := ((s.warp g.warp).rg f.r.toNat ((s.taking g f.h).headD 0)).toNat
    Quiet (s.modCtx g.ctx (fun x => { x with lease := max 128 (min 16384 v) })) t g (onward g) ∧ SameRegs s t g) ∧
  (∀ f : Sreg, Completes (.sregw f) (fun s g => s.taking g f.h = []) fun s t g => Quiet s t g (onward g) ∧ SameRegs s t g)
/-- Every register of Table 04.1 in a lane: the lane's and the crew's numbers, the launch's sizes, core and die, the masks of
the lanes below and up to it, device time and the write horizon with their captures (R70), the core's clock, the last
batch, the crew's group slots, the lease, context, launch and KV step, %clrstat, the sibling index and %cancel (Tables
04.2, 04.3). -/
def Sys2Proof.SpecialValueRules : Prop :=
  ∀ (s : State) (k : WarpKey) (l : Nat), l < 32 →
    s.special k 0x00 l = BitVec.ofNat 32 l ∧ s.special k 0x01 l = BitVec.ofNat 32 (l / 4) ∧
    s.special k 0x02 l = BitVec.ofNat 32 k.warp ∧ s.special k 0x03 l = BitVec.ofNat 32 k.crew.crew ∧
    s.special k 0x04 l = BitVec.ofNat 32 (s.packetOf k.crew).crewCount ∧ s.special k 0x05 l = BitVec.ofNat 32 (s.packetOf k.crew).warps ∧
    s.special k 0x06 l = BitVec.ofNat 32 (s.coreOf k) ∧ s.special k 0x07 l = BitVec.ofNat 32 (s.coreOf k / 32) ∧
    (s.special k 0x08 l).toNat = 2 ^ l - 1 ∧ (s.special k 0x09 l).toNat = 2 ^ (l + 1) - 1 ∧
    s.special k 0x10 l = s.gtime.lo ∧ s.special k 0x11 l = ((s.warp k).gtimeCap.getD s.gtime).hi ∧
    s.special k 0x12 l = Config.clockBase (s.coreOf k) + BitVec.ofNat 32 s.clocks ∧
    s.special k 0x18 l = BitVec.ofNat 32 (s.warp k).whz ∧
    s.special k 0x19 l = BitVec.ofNat 32 ((s.warp k).whzCap.getD (s.warp k).whz / 2 ^ 32) ∧
    s.special k 0x1A l = (s.warp k).lastBatch.setWidth 32 ∧
    (∀ i, i < 4 → s.special k (0x20 + i) l = match (s.groupSlots k.crew)[i]? with
      | some n => BitVec.ofNat 32 (n % 256)
      | none => 0xFFFFFFFF#32) ∧
    s.special k 0x28 l = BitVec.ofNat 32 (s.ctx k.crew.ctx).lease ∧
    s.special k 0x30 l = BitVec.ofNat 32 k.crew.ctx ∧ s.special k 0x31 l = BitVec.ofNat 32 k.crew.launch ∧
    s.special k 0x32 l = (s.ctx k.crew.ctx).kvstep ∧
    (let es := s.clearing.filter (fun e => e.warp = k)
     es.length < 32 → (s.special k 0x38 l).toNat = es.length + (if es.any (·.st == .struck) then 32 else 0) +
       (if es.any (·.st == .pending) then 64 else 0)) ∧
    s.special k 0x39 l = (match s.sibOf k.crew with | some x => BitVec.ofNat 32 x.2 | none => 0xFFFFFFFF#32) ∧
    (s.special k 0x3A l).toNat = (s.warp k).pending.toNat + 2 * (s.warp k).cancelled.toNat
/-- SREG and SREGW, and the value of each special register (14.8, 04.5).
In the clauses that logs 6, 67 name it states the model's reading. -/
def Obligations.SpecialRegisters : Prop := SregRules ∧ SpecialValueRules

/-- XFORM enters the queue of its warp's quarter if that holds fewer than 8, with its results fixed and D pending
until the pipe replies; if the queue is full it waits for the pipe and nothing of it takes effect (R138, R277). The pipe
serves the oldest request of the quarter whose turn it is, which lands, and then the next quarter's turn comes. -/
def Obligations.TransformPipe : Prop :=
  (∀ f : Xform, Completes (.xform f)
    (fun s g => (s.xq.filter (fun r => r.core = s.coreOf g.warp && r.quarter = quarterOf s g.warp)).length < 8)
    fun s t g => ∃ p, Begun s t g p ∧ p.left = 1 ∧ p.tiles = [] ∧
      p.regs = (if f.fn = .crc64 then [f.d.toNat, f.d.toNat + 1] else [f.d.toNat]) ∧
      t.xq = s.xq ++ [⟨s.coreOf g.warp, quarterOf s g.warp, p.id⟩] ∧
      p.writes = laneWrites (s.warp g.warp) (s.taking g f.h) (fun w l => xformLane f w (s.taking g f.h) l)) ∧
  (∀ f : Xform, Completes (.xform f)
    (fun s g => 8 ≤ (s.xq.filter (fun r => r.core = s.coreOf g.warp && r.quarter = quarterOf s g.warp)).length)
    fun s t g => t.xq = s.xq ∧ t.pends = s.pends ∧ SameRegs s t g ∧ t.mem = s.mem ∧
      ∀ i (x : Slice), (s.warp g.warp).slices[i]? = some x →
        (t.warp g.warp).slices[i]? = some (if g.slices.getLsbD i then { x with wait := .retry .pipe false } else x)) ∧
  (∀ s q r p, (aget s.xnext q.core).getD 0 = q.quarter → q.quarter < 4 →
    s.xq.find? (fun x => x.core = q.core && x.quarter = q.quarter) = some r → s.pend? r.pend = some p →
    ∃ t, exec (.xformReply q) s = .next t ∧ t.xq = s.xq.filter (fun x => x.pend ≠ r.pend) ∧
      aget t.xnext q.core = some ((q.quarter + 1) % 4) ∧ t.pends = s.pends.filter (fun x => x.id ≠ p.id) ∧ t.mem = s.mem ∧
      ((aget s.warps p.warp).isSome = true → p.tiles = [] → t.warp p.warp = (s.warp p.warp).wrs p.writes))

/-! Taking an exception (11, R206 to R213). -/

/-- A supervisor-only instruction issued without privilege takes PRIVILEGE, whatever else it would do: nothing of it
takes effect, the warp is held at it with pc and registers as they were, and the report names its lanes (R206, R210,
R212). -/
def Sys2Proof.PrivilegeTakenRules : Prop :=
  ∀ i s g, s.cur = some g → privileged i = true → s.privOf g.warp = false →
    ∃ t, exec i s = .next t ∧
      Excepted s t g { code := .privilege, lanes := (i.hdr.map (fun h => s.taking g h)).getD [] }

/-- An instruction that names a register at or above its launch's vregs takes REG_RANGE in the same way (R61, R211). -/
def Sys2Proof.RegRangeTakenRules : Prop :=
  ∀ i s g, s.cur = some g → (privileged i = true → s.privOf g.warp = true) →
    8 * (s.packetOf g.crewK).vregsDiv8 < i.regTop →
    ∃ t, exec i s = .next t ∧
      Excepted s t g { code := .regRange, lanes := (i.hdr.map (fun h => s.taking g h)).getD [] }

/-- An instruction that passes both, whose operands hold a word with an uncorrectable error in some taking-part lanes, and that
meets no fault of its own checks, is not cancelled and waits for nothing, takes UNCORRECTABLE for those lanes instead of its
effect (R93, R211, R215). It is stated of ADD, whose meaning has no check of its own, and of LDS, whose own fault comes first.
In the clauses that log 71 names it states the model's reading. -/
def Sys2Proof.OperandErrorsTakenRules : Prop :=
  (∀ f s g l ls, s.cur = some g → (Instr.iadd f).regTop ≤ 8 * (s.packetOf g.crewK).vregsDiv8 →
    (s.warp g.warp).held = none → ((s.warp g.warp).slice g.gang.slice).wait = .none →
    s.badLanes g (.iadd f) = l :: ls →
    ∃ t, exec (.iadd f) s = .next t ∧ Excepted s t g { code := .uncorrectable, lanes := l :: ls }) ∧
  (∀ f s g l b, s.cur = some g → (Instr.lds f).regTop ≤ 8 * (s.packetOf g.crewK).vregsDiv8 → l ∈ s.taking g f.h →
    s.scratchLane g.crewK false (offsetOf f.a 0 s g.warp l) (szBytes f.sz) = .error b →
    (∀ k ∈ s.taking g f.h, k < l → ∃ x, s.scratchLane g.crewK false (offsetOf f.a 0 s g.warp k) (szBytes f.sz) = .ok x) →
    ∃ t lanes, exec (.lds f) s = .next t ∧ Excepted s t g (b.fx .read lanes) ∧ l ∈ lanes)

/-- The checks before every instruction's own: PRIVILEGE, then REG_RANGE, and errors in its operands (R206, R61, R93, R211). -/
def Obligations.IssueChecks : Prop := PrivilegeTakenRules ∧ RegRangeTakenRules ∧ OperandErrorsTakenRules

/-- Some lane of the gang takes part; none does. -/
def Sys2Proof.Some1 (h : Hdr) : State → Cur → Prop := fun s g => s.taking g h ≠ []
def Sys2Proof.None1 (h : Hdr) : State → Cur → Prop := fun s g => s.taking g h = []
/-- The instruction only goes on. -/
def Sys2Proof.GoesOn (s t : State) (g : Cur) : Prop := Quiet s t g (onward g) ∧ SameRegs s t g

/-- TRAP and BKPT raise their faults if any lane takes part, naming those lanes, with the pc at the instruction; the
code of TRAP stands in its B field, for the handler to read; with no lane neither has an effect (R283). -/
def Obligations.TrapsTaken : Prop :=
  (∀ f : Code8, (Instr.trap f).fields.b = f.code ∧
    Completes (.trap f) (Some1 f.h) (fun s t g => Excepted s t g { code := .trap, lanes := s.taking g f.h }) ∧
    Completes (.trap f) (None1 f.h) GoesOn) ∧
  (∀ f : Bare, Completes (.bkpt f) (Some1 f.h) (fun s t g => Excepted s t g { code := .bkpt, lanes := s.taking g f.h }) ∧
    Completes (.bkpt f) (None1 f.h) GoesOn)

/-! Group 3: control (14.9, R29, R33, R34). -/

/-- Each slice whose lowest active lane passes the guard goes to the target of that lane; the others fall through. No
register changes. -/
def Sys2Proof.Jumps (i : Instr) (h : Hdr) (target : Warp → Nat → DWord → DWord) : Prop :=
  Completes i Always fun s t g => SameRegs s t g ∧ Quiet s t g fun j x =>
    { x with pc := (((s.warp g.warp).leader h j).map (fun l => target (s.warp g.warp) l x.pc)).getD (x.pc + BitVec.ofNat 64 g.len) }
/-- The same, and every active lane of a slice that goes gets its pc + n in the pair d. -/
def Sys2Proof.Links (i : Instr) (h : Hdr) (d : Reg) (n : Cur → Nat) (target : Warp → Nat → DWord → DWord) : Prop :=
  Completes i Always fun s t g =>
    (∀ r l, l < 32 → (t.warp g.warp).rg r l =
      let link := ((s.warp g.warp).slice (l / 4)).pc + BitVec.ofNat 64 (n g)
      if l ∈ s.activeOf g ∧ ((s.warp g.warp).leader h (l / 4)).isSome then
        (if r = d.toNat then link.lo else if r = d.toNat + 1 then link.hi else (s.warp g.warp).rg r l)
      else (s.warp g.warp).rg r l) ∧
    Quiet s t g fun j x =>
      { x with pc := (((s.warp g.warp).leader h j).map (fun l => target (s.warp g.warp) l x.pc)).getD (x.pc + BitVec.ofNat 64 g.len) }
/-- The transfers that do not split decide in the lowest active lane of each slice: if the guard fails there the slice
falls through and nothing is written; else it goes to pc + offset (BRA, CALL) or to the address in A (BRX, CALLX,
RET), and CALL and CALLX leave the return address, pc + 12 (pc + 8 in an X2 page) and pc + 8, in D (R278, R30, R237).
In the clauses that log 17 names it states the model's reading. -/
def Obligations.Branches : Prop :=
  (∀ f : Bra, Jumps (.bra f) f.h fun _ _ pc => pc + f.off.signExtend 64) ∧
  (∀ f : OnlyA, Jumps (.brx f) f.h fun w l _ => w.rg (f.a.toNat + 1) l ++ w.rg f.a.toNat l) ∧
  (∀ f : OnlyA, Jumps (.ret f) f.h fun w l _ => w.rg (f.a.toNat + 1) l ++ w.rg f.a.toNat l) ∧
  (∀ f : Call, Links (.call f) f.h f.d (fun g => if g.u2 then 8 else 12) fun _ _ pc => pc + f.off.signExtend 64) ∧
  (∀ f : CallX, Links (.callx f) f.h f.d (fun _ => 8) fun w l _ => w.rg (f.a.toNat + 1) l ++ w.rg f.a.toNat l)

/-- A DBRA of which no slice would push beyond its stack: a slice that all its lanes take goes to the target, one that
none takes falls through, one that splits goes to the target with the lanes that take it, over its pending path and
its join (R29, R279); a slice whose stack is full takes DIV_STACK_OVERFLOW instead. JOIN takes the pending path up
under the join's address, or restores the mask and goes on, or passes where its address is not the stack's (R29). -/
def Sys2Proof.DivergenceRules : Prop :=
  (∀ f : Dbra, Completes (.dbra f)
    (fun s g => ∀ i, i < 8 → g.slices.getLsbD i = true → sliceMask (s.taking g f.h) i ≠ 0 →
      sliceMask (s.taking g f.h) i ≠ ((s.warp g.warp).slice i).mask → ((s.warp g.warp).slice i).stack.length ≤ 14)
    fun s t g => SameRegs s t g ∧ Quiet s t g fun i x =>
      let taken := sliceMask (s.taking g f.h) i
      if taken = x.mask then { x with pc := x.pc + f.tgt.signExtend 64 }
      else if taken = 0 then { x with pc := x.pc + BitVec.ofNat 64 g.len }
      else { x with pc := x.pc + f.tgt.signExtend 64, mask := taken,
                    stack := ⟨x.pc + BitVec.ofNat 64 g.len, x.mask &&& ~~~taken⟩ :: ⟨x.pc + f.join.signExtend 64, x.mask⟩ :: x.stack }) ∧
  (∀ f : Dbra, Completes (.dbra f)
    (fun s g => ∃ i, i < 8 ∧ g.slices.getLsbD i = true ∧ sliceMask (s.taking g f.h) i ≠ 0 ∧
      sliceMask (s.taking g f.h) i ≠ ((s.warp g.warp).slice i).mask ∧ 14 < ((s.warp g.warp).slice i).stack.length)
    fun s t g => ∃ lanes, Excepted s t g { code := .divStackOverflow, lanes := lanes } ∧ ∀ l ∈ lanes, l ∈ s.activeOf g) ∧
  (∀ f : Bare, Completes (.join f) Always fun s t g => SameRegs s t g ∧ Quiet s t g fun _ x =>
    x.join x.pc (x.pc + BitVec.ofNat 64 g.len)) ∧
  (∀ x p r st next, Slice.stack x = p :: r :: st → x.stack.length % 2 = 0 → r.pc = x.pc →
    (x.join x.pc next).pc = p.pc ∧ (x.join x.pc next).mask = p.mask ∧ (x.join x.pc next).stack = r :: st) ∧
  (∀ x r st next, Slice.stack x = r :: st → x.stack.length % 2 = 1 → r.pc = x.pc →
    (x.join x.pc next).pc = next ∧ (x.join x.pc next).mask = r.mask ∧ (x.join x.pc next).stack = st) ∧
  (∀ x next, (∀ e ∈ (Slice.stack x).take 2, e.pc ≠ x.pc) → x.join x.pc next = { x with pc := next })

/-- EXIT: in each slice the taking-part lanes leave its mask and every entry of its stack; what is left of the slice
goes on behind the EXIT, or where its stack says, and a slice with no lane left has exited (R280, R29). The lanes that
are left are those that were live and did not exit. While some slice of the warp has not exited, nothing else
follows. -/
def Sys2Proof.ExitRules : Prop :=
  (∀ f : Bare, Completes (.exit f) Always fun s t g => ∃ u, t = (u.warpGone g.warp).settle ∧ SameRegs s u g ∧
    (¬ (u.warp g.warp).exited = true → t = u.settle) ∧
    Quiet s u g fun i x =>
      if sliceMask (s.taking g f.h) i = 0 then { x with pc := x.pc + BitVec.ofNat 64 g.len }
      else ({ x with pc := x.pc + BitVec.ofNat 64 g.len } : Slice).exitMask (s.joinLen g.warp) (sliceMask (s.taking g f.h) i)) ∧
  (∀ (x : Slice) len m, (x.exitMask len m).live = x.live &&& ~~~m ∧
    ((x.exitMask len m).exited = false → (x.exitMask len m).mask ≠ 0) ∧ (x.exitMask len m).mask &&& m = 0 ∧
    (∀ e ∈ (x.exitMask len m).stack, e.mask &&& m = 0) ∧ (x.exitMask len m).stack.length ≤ x.stack.length)

/-- REGANG stops each slice whose lowest active lane passes the guard, with the mask A[7:0] of that lane, as a gang of
its own at the REGANG, and the others go on (R281, R33); the stops are then evaluated: where no write or load of the
warp is on its way, each slice all of whose named slices have exited or are stopped at the same pc naming it goes on
behind the REGANG, one gang for each address, but where one of them has stopped for a pre-emption all at its address wait
for its return (R33 to R35, R37, R217). Where every slice of the warp that has not exited is stopped at a REGANG and none is
released, the warp takes REGANG_CYCLE: every stop is kept with its mask, and the report names the stopped slices, the pc and the
mask of each (R34, R212). -/
def Sys2Proof.RegangRules : Prop :=
  (∀ f : OnlyA, Completes (.regang f) Always fun s t g => ∃ u, t = u.settle ∧ SameRegs s u g ∧
    (∀ i (y : Slice), (u.warp g.warp).slices[i]? = some y → g.slices.getLsbD i = true → y.atRegang = true → y.gang = i) ∧
    Quiet s u g fun i x => match (s.warp g.warp).leader f.h i with
      | some l => { x with wait := .regang (((s.warp g.warp).rg f.a.toNat l).setWidth 8) g.len }
      | none => { x with pc := x.pc + BitVec.ofNat 64 g.len }) ∧
  (∀ (w : Warp) i, i ∈ w.regangFree ↔ i < 8 ∧ (w.slice i).exited = false ∧ ∃ m n, (w.slice i).wait = .regang m n ∧
    ∀ t, t < 8 → t ≠ i → m.getLsbD t = true → (w.slice t).exited = false →
      ∃ m' n', (w.slice t).wait = .regang m' n' ∧ (w.slice t).pc = (w.slice i).pc ∧ m'.getLsbD i = true) ∧
  (∀ (w : Warp) free i, i ∈ w.regangNow free ↔ i ∈ free ∧ ∀ j ∈ free, (w.slice j).pc = (w.slice i).pc → (w.slice j).stop = none) ∧
  (∀ (s : State) (k : WarpKey), (s.warp k).held = none → s.writesOut k = false → s.loadsOut k = false → (s.warp k).regangFree ≠ [] →
    ∀ i (x : Slice), (s.warp k).slices[i]? = some x → ∃ y : Slice, ((s.regangEval k).warp k).slices[i]? = some y ∧
      if i ∈ (s.warp k).regangNow (s.warp k).regangFree then y.pc = x.pc + BitVec.ofNat 64 x.regangLen ∧ y.wait = .none ∧ y.mask = x.mask ∧
        (∀ j (z : Slice), (s.warp k).slices[j]? = some z → j ∈ (s.warp k).regangNow (s.warp k).regangFree → z.pc = x.pc →
          ∃ v : Slice, ((s.regangEval k).warp k).slices[j]? = some v ∧ v.gang = y.gang)
      else y = x) ∧
  (∀ (s : State) (k : WarpKey), (s.warp k).held = none → s.writesOut k = false → s.loadsOut k = false →
    (∃ i : Nat, i < 8 ∧ ((s.warp k).slice i).exited = false) → (∀ x ∈ (s.warp k).slices, x.exited = false → x.atRegang = true) →
    (s.warp k).regangFree = [] →
    ((s.regangEval k).warp k).slices = (s.warp k).slices ∧ (s.regangEval k).mem = s.mem ∧
    (∀ r l, ((s.regangEval k).warp k).rg r l = (s.warp k).rg r l) ∧
    (s.undelivered k.crew.ctx (s.privOf k) = false → ∃ (r : Report) (h : Held), (s.regangEval k).faultQ = s.faultQ ++ [r] ∧
      ((s.regangEval k).warp k).held = some h ∧ h.code = .regangCycle ∧ h.report = r.id ∧ r.code = .regangCycle ∧ r.warp = some k ∧
      r.ctx = k.crew.ctx ∧ r.launch = k.crew.launch ∧ r.crew = k.crew.crew ∧
      (∀ i, i < 8 → (r.slices.testBit i = true ↔ ((s.warp k).slice i).exited = false) ∧
        r.spcs.getD i 0 = (if ((s.warp k).slice i).exited = true then 0 else ((s.warp k).slice i).pc.toNat) ∧
        ∀ m n, ((s.warp k).slice i).exited = false → ((s.warp k).slice i).wait = .regang m n → r.masks.getD i 0 = m.toNat)) ∧
    (s.undelivered k.crew.ctx (s.privOf k) = true →
      if k.crew.ctx = 63 then (s.regangEval k).phase = .recovery else ((s.regangEval k).ctx k.crew.ctx).kill.isSome = true))

/-- Divergence, joins, EXIT and REGANG (14.9, 02.4, 02.5).
In the clauses that logs 18, 19 name it states the model's reading. -/
def Obligations.DivergenceAndExit : Prop := DivergenceRules ∧ ExitRules ∧ RegangRules

/-- YIELD: if any lane takes part and a ready creel warp exists, the warp moves to the creel and the creel warp that
swap-in picks enters; else only the gang goes on. CANPT: with PENDING set the warp is cancelled there, else nothing
happens. HEART sets the launch's watchdog timer to 0. Each acts only if a lane takes part (R282). -/
def Obligations.YieldCanptHeart : Prop :=
  (∀ f : Bare, Completes (.yield f) (Some1 f.h) fun s t g => ∃ u, GoesOn s u g ∧
    match u.swapPick (u.coreOf g.warp) (quarterOf u g.warp) with
    | some k => t = (u.toCreel g.warp).enter k
    | none => t = u) ∧
  (∀ f : Bare, Completes (.canpt f) (fun s g => Some1 f.h s g ∧ (s.warp g.warp).pending = true)
    fun s t g => t = s.cancelWarp g.warp) ∧
  (∀ f : Bare, Completes (.canpt f) (fun s g => Some1 f.h s g ∧ (s.warp g.warp).pending = false) GoesOn) ∧
  (∀ f : Bare, Completes (.heart f) (Some1 f.h) fun s t g =>
    (t.launch g.ctx g.crewK.launch).timer = 0 ∧
    GoesOn (s.modLaunch g.ctx g.crewK.launch (fun x => { x with timer := 0 })) t g) ∧
  (∀ f : Bare, (Instr.yield f).use = ⟨0, 0, 0, 0, 0, 0, 0⟩ ∧ (Instr.canpt f).use = ⟨0, 0, 0, 0, 0, 0, 0⟩ ∧ (Instr.heart f).use = ⟨0, 0, 0, 0, 0, 0, 0⟩ ∧
    (Instr.yield f).fields = {} ∧ (Instr.canpt f).fields = {} ∧ (Instr.heart f).fields = {}) ∧
  (∀ f : Bare, Completes (.yield f) (None1 f.h) GoesOn ∧ Completes (.canpt f) (None1 f.h) GoesOn ∧
    Completes (.heart f) (None1 f.h) GoesOn)

/-! Group 4: memory (15, 06). -/

/-- What a message asks for a part of a load: a fill of its line, its bytes at the home, or its range element. -/
def Sys2Proof.asks (m : MsgKind) (pl : Place2) (q : Part) : Prop :=
  (∃ len ps, m = .fill (pl.pa / 64) len ps ∧ (q, pl.pa % 64) ∈ ps) ∨ (∃ ps sp, m = .ldby pl.pa ps sp ∧ q ∈ ps) ∨
    ∃ k, m = .range pl.pa k q
/-- What a load waits for is not there: no error in a copy or a home that it reads, no atomic of the warp on its way to a line it reads,
and for LD no fill in flight that brings a value to the warp; of a register of the window, no write of the warp on its way
(R36, R93, R111, R112). -/
def Sys2Proof.LoadReady (s : State) (g : Cur) (kind : LoadKind) (pl : Place2) : Prop :=
  s.l1Bad g.warp kind pl = false ∧ s.homeBad g.warp kind pl = false ∧ s.atomOut g.warp (pl.pa / 64) = false ∧
    (kind = .ld → cacheable pl = true → s.loading g.warp (pl.pa / 64) = false) ∧
    (pl.sp = .window → s.scrOut g.warp (pl.pa - winBase) = false)
/-- A load of the family: where no lane is in fault and nothing is there that it waits for, it issues; its destination
registers stay pending under one result, and every piece of every taking-part lane is in that result already or asked for
by a message. -/
def Sys2Proof.LoadIssues (i : Instr) (h : Hdr) (d : Reg) (sz : Sz) (kind : LoadKind) (acq : Bool)
    (addr : State → WarpKey → Nat → Except Bad (List Piece)) : Prop :=
  Completes i
    (fun s g => ∀ l ∈ s.taking g h, ∃ ps, accessOf addr .read (szBytes sz) s g.warp l = .ok ps ∧ ∀ pl ∈ ps, LoadReady s g kind pl)
    fun s t g =>
      Sends (if acq ∧ s.taking g h ≠ [] then s.modWarp g.warp (fun w => { w with acq := true }) else s) t g ∧
      ∃ p, Newest s t g p ∧ p.load = true ∧ p.regs = (List.range (szRegs sz)).map (d.toNat + ·) ∧
        ∀ l ∈ s.taking g h, ∀ ps, accessOf addr .read (szBytes sz) s g.warp l = .ok ps → ∀ pl ∈ ps,
          (∃ v, ∀ x ∈ partWrites (partOf p.id l d sz pl.p) v, x ∈ p.writes) ∨
          ∃ m ∈ t.msgs, asks m.k pl (partOf p.id l d sz pl.p)
/-- The loads: LD, LD.ACQ (which also marks the warp's acquire), LDBY, LDE, LDL and LDC issue, each at the addresses
of its form (R284 to R289, R81, R82, R113). -/
def Sys2Proof.LoadsIssueRules : Prop :=
  (∀ f : Mem, LoadIssues (.ld f) f.h f.d f.sz .ld f.ord.isSome (globalAddr f.a 0 (szBytes f.sz))) ∧
  (∀ f : MemI, LoadIssues (.ld96i f) f.h f.d f.sz .ld false (globalAddr f.a f.off.toInt (szBytes f.sz))) ∧
  (∀ f : Mem, LoadIssues (.ldby f) f.h f.d f.sz .ldby false (globalAddr f.a 0 (szBytes f.sz))) ∧
  (∀ f : MemI, LoadIssues (.ldby96i f) f.h f.d f.sz .ldby false (globalAddr f.a f.off.toInt (szBytes f.sz))) ∧
  (∀ f : Mem, LoadIssues (.lde f) f.h f.d f.sz .lde false (globalAddr f.a 0 (szBytes f.sz))) ∧
  (∀ f : MemI, LoadIssues (.lde96i f) f.h f.d f.sz .lde false (globalAddr f.a f.off.toInt (szBytes f.sz))) ∧
  (∀ f : Mem, LoadIssues (.ldl f) f.h f.d f.sz .ld false
    fun s k l => s.localPieces k l (offsetOf f.a 0 s k l) (szBytes f.sz)) ∧
  (∀ f : MemI, LoadIssues (.ldl96i f) f.h f.d f.sz .ld false
    fun s k l => s.localPieces k l (offsetOf f.a f.off.toInt s k l) (szBytes f.sz)) ∧
  (∀ f : Mem, LoadIssues (.ldc f) f.h f.d f.sz .ld false fun s k l => s.constPieces k (offsetOf f.a 0 s k l) (szBytes f.sz)) ∧
  (∀ f : MemI, LoadIssues (.ldc96i f) f.h f.d f.sz .ld false
    fun s k l => s.constPieces k (offsetOf f.a f.off.toInt s k l) (szBytes f.sz))

/-- A load of one register whose every taking-part lane finds its line leased in L1, without an error, has its value at
once: the bytes of the line, extended to the register; nothing is sent and no access is left to answer (Table 05.3, R84,
R287). -/
def Sys2Proof.LoadHits (i : Instr) (h : Hdr) (d : Reg) (sz : Sz) (kind : LoadKind)
    (addr : State → WarpKey → Nat → Except Bad (List Piece)) : Prop :=
  szRegs sz = 1 → ∀ (place : Nat → Place2) (line : Nat → L1Line), Completes i
    (fun s g => ∀ l ∈ s.taking g h, accessOf addr .read (szBytes sz) s g.warp l = .ok [place l] ∧ LoadReady s g kind (place l) ∧
      (place l).sp = .device ∧ (place l).tr.lease ≠ 2 ∧ (place l).p.byte = 0 ∧ (place l).p.size = szBytes sz ∧
      s.l1Line (s.coreOf g.warp) ((place l).pa / 64) = some (line l) ∧ s.serves g.warp (line l) = true)
    fun s t g => t.msgs = s.msgs ∧ ∃ p, Newest s t g p ∧ p.left = 0 ∧
      WritesWord s g h p d (fun _ l => loadedWord sz (leNat ((line l).bytes ((place l).pa % 64) (szBytes sz))))
def Sys2Proof.LoadHitsL1Rules : Prop :=
  (∀ f : Mem, f.ord = none → LoadHits (.ld f) f.h f.d f.sz .ld (globalAddr f.a 0 (szBytes f.sz))) ∧
  (∀ f : MemI, LoadHits (.ld96i f) f.h f.d f.sz .ld (globalAddr f.a f.off.toInt (szBytes f.sz))) ∧
  (∀ f : Mem, LoadHits (.lde f) f.h f.d f.sz .lde (globalAddr f.a 0 (szBytes f.sz))) ∧
  (∀ f : MemI, LoadHits (.lde96i f) f.h f.d f.sz .lde (globalAddr f.a f.off.toInt (szBytes f.sz)))

/-- An early load, by one lane, of a line that its core's L1 holds Stale: it has the Stale bytes at once, and, the warp having no
entry for the line, fewer than 16 and the core's table fewer than 256, a new entry of the Clearing table, pending, records the
line and the version that was read, whose validation goes to the home (R185, R186, Table 05.3). -/
def Sys2Proof.EarlyReadsStale (i : Instr) (h : Hdr) (d : Reg) (sz : Sz) (addr : State → WarpKey → Nat → Except Bad (List Piece)) : Prop :=
  szRegs sz = 1 → ∀ l pl x,
    let stale : State → Cur → Prop := fun s g => s.taking g h = [l] ∧ accessOf addr .read (szBytes sz) s g.warp l = .ok [pl] ∧
      LoadReady s g .lde pl ∧ pl.sp = .device ∧ pl.tr.lease ≠ 2 ∧ pl.p.byte = 0 ∧ pl.p.size = szBytes sz ∧
      s.l1Line (s.coreOf g.warp) (pl.pa / 64) = some x ∧ s.serves g.warp x = false
    let takes : State → Pend → Cur → Prop := fun s p g => p.left = 0 ∧
      WritesWord s g h p d (fun _ _ => loadedWord sz (leNat (x.bytes (pl.pa % 64) (szBytes sz))))
    Completes i (fun s g => stale s g ∧ (∀ e ∈ s.clearing, e.warp = g.warp → e.line ≠ pl.pa / 64) ∧
        (s.clearing.filter (fun e => e.warp = g.warp)).length < 16 ∧ s.tableFull (s.coreOf g.warp) = false)
      (fun s t g => (∃ p, Newest s t g p ∧ takes s p g) ∧
        ∃ n, t.clearing = s.clearing ++ [⟨n, g.warp, pl.pa / 64, x.version, .pending⟩] ∧
          ∃ m ∈ t.msgs, m.warp = some g.warp ∧ m.k = .valid n (pl.pa / 64) x.version (s.leaseLen g.ctx pl.tr)) ∧
    Completes i (fun s g => stale s g ∧ ∃ e ∈ s.clearing, e.warp = g.warp ∧ e.line = pl.pa / 64)
      (fun s t g => (∃ p, Newest s t g p ∧ takes s p g) ∧ t.clearing = s.clearing ∧ t.msgs = s.msgs) ∧
    Completes i (fun s g => stale s g ∧ (∀ e ∈ s.clearing, e.warp = g.warp → e.line ≠ pl.pa / 64) ∧
        (16 ≤ (s.clearing.filter (fun e => e.warp = g.warp)).length ∨ s.tableFull (s.coreOf g.warp) = true))
      (fun s t g => t.clearing = s.clearing ∧ ∃ p, Newest s t g p ∧ p.left = 1 ∧ ∃ m ∈ t.msgs,
        m.k = .fill (pl.pa / 64) (s.leaseLen g.ctx pl.tr) [(partOf p.id l d sz pl.p, pl.pa % 64)])
/-- LDE of a Stale line in both its forms; with no room for an entry it acts as LD (R186, R289). -/
def Sys2Proof.EarlyLoadsRules : Prop :=
  (∀ f : Mem, EarlyReadsStale (.lde f) f.h f.d f.sz (globalAddr f.a 0 (szBytes f.sz))) ∧
  (∀ f : MemI, EarlyReadsStale (.lde96i f) f.h f.d f.sz (globalAddr f.a f.off.toInt (szBytes f.sz)))

/-- Loads: what they ask of the homes, what a line of the core's L1 answers at once, and the Clearing entry of an early load of a
Stale line (15.2, 05.3, 09.4).
In the clauses that logs 20, 21, 23, 72, 87 name it states the model's reading. -/
def Obligations.Loads : Prop := LoadsIssueRules ∧ LoadHitsL1Rules ∧ EarlyLoadsRules

/-- The message that a piece of a lane's store leaves as: to its home, or of the window to its register's block. -/
def Sys2Proof.storeMsg (w : Warp) (d : Reg) (n l : Nat) (pl : Place2) : MsgKind :=
  let b := ((storeBytes w d l n).drop pl.p.byte).take pl.p.size
  if pl.sp = .window then .scr (pl.pa - winBase) b.length (BitVec.ofNat 64 (leNat b)) else .write pl.pa b pl.sp
/-- The messages that the stores of some lanes leave as, the pieces of each lane being pls: one for every piece, but of lanes
that store to one address the highest one's alone (R36). -/
def Sys2Proof.StoreMsgs (s t : State) (g : Cur) (lanes : List Nat) (d : Reg) (n : Nat) (pls : Nat → List Place2) : Prop :=
  ∀ x, x ∈ (t.msgs.drop s.msgs.length).map (·.k) ↔ ∃ l ∈ lanes, ∃ pl ∈ pls l, x = storeMsg (s.warp g.warp) d n l pl ∧
    ∀ k ∈ lanes, l < k → ∀ q ∈ pls k, q.pa ≠ pl.pa
/-- A store of the family: where no lane is in fault, each of its writes leaves for its home, of lanes that store to one
address only the highest's; no byte of memory changes at issue (R286, R36, R114). -/
def Sys2Proof.StoreIssues (i : Instr) (h : Hdr) (d : Reg) (sz : Sz) (addr : State → WarpKey → Nat → Except Bad (List Piece)) : Prop :=
  ∀ pls : Nat → List Place2, Completes i
    (fun s g => ∀ l ∈ s.taking g h, accessOf addr .write (szBytes sz) s g.warp l = .ok (pls l))
    fun s t g => Sends s t g ∧ StoreMsgs s t g (s.taking g h) d (szBytes sz) pls
/-- Where an ST.REL stands when its lanes take part: none is in fault, and a piece of one lies in the window or none does. -/
def Sys2Proof.StRel (f : Mem) (pls : Nat → List Place2) (window : Prop) (s : State) (g : Cur) : Prop :=
  Some1 f.h s g ∧ (∀ l ∈ s.taking g f.h, accessOf (globalAddr f.a 0 (szBytes f.sz)) .write (szBytes f.sz) s g.warp l = .ok (pls l)) ∧
    ((∃ l ∈ s.taking g f.h, ∃ pl ∈ pls l, pl.sp = .window) ↔ window)
/-- ST.REL: with no lane it goes on; once its release is complete, now or in a wait, it stores as ST; to the window its
gang waits until the block has applied it; a release that is not complete makes the gang wait (R116, R73, R286). -/
def Sys2Proof.StoreReleaseRules : Prop :=
  ∀ (f : Mem) sc, f.ord = some sc → Completes (.st f) (None1 f.h) GoesOn ∧ ∀ pls : Nat → List Place2,
    Completes (.st f) (fun s g => StRel f pls False s g ∧ ((s.warp g.warp).slice g.gang.slice).relDone = false ∧ s.relReady g.warp sc = true)
      (fun s t g => Sends (s.relDo g.warp sc) t g ∧ StoreMsgs s t g (s.taking g f.h) f.d (szBytes f.sz) pls) ∧
    Completes (.st f) (fun s g => StRel f pls False s g ∧ ((s.warp g.warp).slice g.gang.slice).relDone = true)
      (fun s t g => Sends s t g ∧ StoreMsgs s t g (s.taking g f.h) f.d (szBytes f.sz) pls) ∧
    Completes (.st f) (fun s g => StRel f pls True s g ∧ ((s.warp g.warp).slice g.gang.slice).relDone = true)
      (fun s t g => StoreMsgs s t g (s.taking g f.h) f.d (szBytes f.sz) pls ∧ t.mem = s.mem ∧ SameRegs s t g ∧
        ∀ i (x : Slice), (s.warp g.warp).slices[i]? = some x →
          (t.warp g.warp).slices[i]? = some (if g.slices.getLsbD i then { x with wait := .applied g.len } else x)) ∧
    ∀ w, Completes (.st f) (fun s g => StRel f pls w s g ∧
        ((s.warp g.warp).slice g.gang.slice).relDone = false ∧ s.relReady g.warp sc = false)
      fun s t g => t = s.waitIn g (.release sc false)
/-- Stores: the forms without a release, and ST.REL (15.2, 06.4).
In the clauses that logs 19, 20 name it states the model's reading. -/
def Obligations.StoresIssue : Prop :=
  (∀ f : Mem, f.ord = none → StoreIssues (.st f) f.h f.d f.sz (globalAddr f.a 0 (szBytes f.sz))) ∧
  (∀ f : MemI, StoreIssues (.st96i f) f.h f.d f.sz (globalAddr f.a f.off.toInt (szBytes f.sz))) ∧
  (∀ f : Mem, StoreIssues (.stl f) f.h f.d f.sz fun s k l => s.localPieces k l (offsetOf f.a 0 s k l) (szBytes f.sz)) ∧
  (∀ f : MemI, StoreIssues (.stl96i f) f.h f.d f.sz
    fun s k l => s.localPieces k l (offsetOf f.a f.off.toInt s k l) (szBytes f.sz)) ∧
  StoreReleaseRules

/-- Where an access of a lane is in fault, the lowest such lane's fault is taken: of a load. -/
def Sys2Proof.LoadFaults (i : Instr) (h : Hdr) (sz : Sz) (kind : LoadKind) (addr : State → WarpKey → Nat → Except Bad (List Piece)) : Prop :=
  FaultsLowest i h .read fun s k l => s.loadLane k kind (szBytes sz) (addr s k l)
/-- The same of a store. -/
def Sys2Proof.StoreFaults (i : Instr) (h : Hdr) (sz : Sz) (addr : State → WarpKey → Nat → Except Bad (List Piece)) : Prop :=
  FaultsLowest i h .write (accessOf addr .write (szBytes sz))
/-- Where an access of a lane is in fault, the lowest such lane's fault is taken, for every load, store and atomic and
for the scratchpad's own (R211). -/
def Sys2Proof.AccessFaultsRules : Prop :=
  (∀ f : Mem, LoadFaults (.ld f) f.h f.sz .ld (globalAddr f.a 0 (szBytes f.sz)) ∧
    LoadFaults (.ldby f) f.h f.sz .ldby (globalAddr f.a 0 (szBytes f.sz)) ∧
    LoadFaults (.lde f) f.h f.sz .lde (globalAddr f.a 0 (szBytes f.sz)) ∧
    LoadFaults (.ldl f) f.h f.sz .ld (fun s k l => s.localPieces k l (offsetOf f.a 0 s k l) (szBytes f.sz)) ∧
    LoadFaults (.ldc f) f.h f.sz .ld (fun s k l => s.constPieces k (offsetOf f.a 0 s k l) (szBytes f.sz)) ∧
    StoreFaults (.st f) f.h f.sz (globalAddr f.a 0 (szBytes f.sz)) ∧
    StoreFaults (.stl f) f.h f.sz (fun s k l => s.localPieces k l (offsetOf f.a 0 s k l) (szBytes f.sz)) ∧
    FaultsLowest (.lds f) f.h .read (fun s k l => s.scratchLane k.crew false (offsetOf f.a 0 s k l) (szBytes f.sz)) ∧
    FaultsLowest (.sts f) f.h .write (fun s k l => s.scratchLane k.crew true (offsetOf f.a 0 s k l) (szBytes f.sz))) ∧
  (∀ f : MemI, LoadFaults (.ld96i f) f.h f.sz .ld (globalAddr f.a f.off.toInt (szBytes f.sz)) ∧
    LoadFaults (.ldby96i f) f.h f.sz .ldby (globalAddr f.a f.off.toInt (szBytes f.sz)) ∧
    LoadFaults (.lde96i f) f.h f.sz .lde (globalAddr f.a f.off.toInt (szBytes f.sz)) ∧
    LoadFaults (.ldl96i f) f.h f.sz .ld (fun s k l => s.localPieces k l (offsetOf f.a f.off.toInt s k l) (szBytes f.sz)) ∧
    LoadFaults (.ldc96i f) f.h f.sz .ld (fun s k l => s.constPieces k (offsetOf f.a f.off.toInt s k l) (szBytes f.sz)) ∧
    StoreFaults (.st96i f) f.h f.sz (globalAddr f.a f.off.toInt (szBytes f.sz)) ∧
    StoreFaults (.stl96i f) f.h f.sz (fun s k l => s.localPieces k l (offsetOf f.a f.off.toInt s k l) (szBytes f.sz)) ∧
    FaultsLowest (.lds96i f) f.h .read (fun s k l => s.scratchLane k.crew false (offsetOf f.a f.off.toInt s k l) (szBytes f.sz)) ∧
    FaultsLowest (.sts96i f) f.h .write (fun s k l => s.scratchLane k.crew true (offsetOf f.a f.off.toInt s k l) (szBytes f.sz))) ∧
  (∀ f : Atom, FaultsLowest (.atom f) f.h .atomic fun s k l => s.atomCheck k f.ty (some f.op) true (narrow f.sc) (atomVa f.a f.off s k l)) ∧
  (∀ f : Atomc, FaultsLowest (.atomc f) f.h .atomic fun s k l => s.atomCheck k f.ty none true (narrow f.sc) (atomVa f.a f.off s k l)) ∧
  (∀ f : Red, FaultsLowest (.red f) f.h .atomic fun s k l => s.atomCheck k f.ty (some f.op) false (narrow f.sc) (globalVa f.a 0 s k l)) ∧
  (∀ f : RedI, FaultsLowest (.red96i f) f.h .atomic fun s k l => s.atomCheck k f.ty (some f.op) false (narrow f.sc) (globalVa f.a 0 s k l)) ∧
  (∀ f : Redc, FaultsLowest (.redc f) f.h .atomic fun s k l => s.redcPlace k (globalVa f.a 0 s k l))

/-- The checks of one access, in order: a canonical address; the window's privilege, through any mapping; alignment, and the size
that a register of the window or an element of a commutative range takes; no atomic on the window; translation with its attributes; what passes lies where the translation says, on memory that the
access tables open to the core, at a peer that answers, and a store's or atomic's without an error (R79, R72, R78, R119, R122,
R193, R196, R392, R93, R211). -/
def Sys2Proof.AccessChecksRules : Prop :=
  ∀ (s : State) k a n (p : Piece),
    (canonical p.va = false → s.checkPiece k a n p = .error (bad .addrRange)) ∧
    (canonical p.va = true → s.inWindow k p.va = true → s.privOf k = false → a ≠ .atomic →
      s.checkPiece k a n p = .error (bad .privilege)) ∧
    (canonical p.va = true → (s.inWindow k p.va = true → s.privOf k = true ∨ a = .atomic) → p.va % p.size ≠ 0 →
      s.checkPiece k a n p = .error (bad .misaligned)) ∧
    (canonical p.va = true → s.inWindow k p.va = true → p.va % p.size = 0 → a = .atomic →
      s.checkPiece k a n p = .error (bad .accessDenied)) ∧
    (∀ t, canonical p.va = true → s.walk (s.coreOf k) k.crew.ctx p.va = .ok t →
      (spaceOf t = .window ∧ s.privOf k = true ∧ a ≠ .atomic ∧ (∃ o w, scrAt (t.pa - winBase) = some (o, w) ∧ (w ≠ n ∨ t.pa - winBase ≠ o)) ∨
        (∃ kk, spaceOf t = .range kk) ∧ a = .read ∧ (p.size ≠ n ∨ ¬ ((n = 8 ∧ p.va % 8 = 0) ∨ n = 4))) →
      s.checkPiece k a n p = .error (bad .misaligned)) ∧
    (∀ b, canonical p.va = true → (s.inWindow k p.va = true → s.privOf k = true ∧ a ≠ .atomic) → p.va % p.size = 0 →
      s.oddAt k a n p = false → s.xlate (s.coreOf k) k.crew.ctx p.va (!s.privOf k) a = .error b → s.checkPiece k a n p = .error b) ∧
    (∀ x, s.checkPiece k a n p = .ok x → canonical p.va = true ∧ p.va % p.size = 0 ∧ x.p = p ∧
      s.xlate (s.coreOf k) k.crew.ctx p.va (!s.privOf k) a = .ok x.tr ∧ x.pa = x.tr.pa ∧
      (x.sp = .window → s.privOf k = true ∧ a ≠ .atomic) ∧ ((a = .write ∨ a = .atomic) → x.tr.bit 2 = true) ∧
      (s.privOf k = false → x.tr.bit 3 = true) ∧
      (x.sp ≠ .window → (a ≠ .read → s.isBad x.pa p.size = false) ∧ s.peerSilent x.pa = false ∧
        s.physOk x.pa 0 (a == .read || a == .atomic) (a == .write || a == .atomic) false = true))

/-- The checks of an access, in their order, and the fault of the lowest lane that fails one (11.2, 05, 09.5). That they are made as the
instruction issues, that an access to a peer that does not answer is waited for, and that one behind the device's own messages to a
peer waits for those, is the model's choice (logs 21, 73). -/
def Obligations.AccessesChecked : Prop := AccessFaultsRules ∧ AccessChecksRules

/-- LDS leaves the bytes at each lane's offset pending for D (R83). -/
def Sys2Proof.LoadsScratch (i : Instr) (h : Hdr) (d a : Reg) (sz : Sz) (off : Int) : Prop :=
  Completes i (LanesOk h fun s k l => s.scratchLane k.crew false (offsetOf a off s k l) (szBytes sz)) fun s t g =>
    ∃ p, Begun s t g p ∧ p.left = 0 ∧ p.regs = (List.range (szRegs sz)).map (d.toNat + ·) ∧ p.writes =
      (s.taking g h).flatMap (fun l => partWrites ⟨0, l, d.toNat, szBytes sz, szSigned sz⟩
        (leNat (s.scratchBytes g.crewK (offsetOf a off s g.warp l).toNat (szBytes sz))))
/-- STS writes D's bytes at each lane's offset, of lanes that meet the highest last; no other byte of the crew's
scratchpad changes (R83, R36). -/
def Sys2Proof.StoresScratch (i : Instr) (h : Hdr) (d a : Reg) (sz : Sz) (off : Int) : Prop :=
  Completes i (None1 h) GoesOn ∧
  Completes i (fun s g => Some1 h s g ∧
    LanesOk h (fun s k l => s.scratchLane k.crew true (offsetOf a off s k l) (szBytes sz)) s g) fun s t g =>
    ∃ x, GoesOn (s.modCrew g.crewK (fun c => { c with scratch := x })) t g ∧ ∀ b,
      ((∀ l ∈ s.taking g h, ¬ ((offsetOf a off s g.warp l).toNat ≤ b ∧ b < (offsetOf a off s g.warp l).toNat + szBytes sz)) →
        sget x b = sget (s.crew g.crewK).scratch b) ∧
      ∀ l ∈ s.taking g h, (offsetOf a off s g.warp l).toNat ≤ b → b < (offsetOf a off s g.warp l).toNat + szBytes sz →
        (∀ k ∈ s.taking g h, l < k → ¬ ((offsetOf a off s g.warp k).toNat ≤ b ∧ b < (offsetOf a off s g.warp k).toNat + szBytes sz)) →
        sget x b = (storeBytes (s.warp g.warp) d l (szBytes sz)).getD (b - (offsetOf a off s g.warp l).toNat) 0
/-- The scratchpad: LDS leaves the bytes at its lane's offset pending for D; STS writes D's bytes at its lane's offset,
the highest lane last, and no other byte of the crew's scratchpad, of another crew's or of memory changes (R83). -/
def Obligations.Scratchpad : Prop :=
  (∀ f : Mem, LoadsScratch (.lds f) f.h f.d f.a f.sz 0 ∧ StoresScratch (.sts f) f.h f.d f.a f.sz 0) ∧
  (∀ f : MemI, LoadsScratch (.lds96i f) f.h f.d f.a f.sz f.off.toInt ∧ StoresScratch (.sts96i f) f.h f.d f.a f.sz f.off.toInt)

/-- CLEAR, once none of the warp's entries is pending, frees them, and the gang goes to the target if one was struck,
else behind the CLEAR (R290); while one is pending it waits. CLDROP frees them at once if a lane takes part (R291). -/
def Sys2Proof.EarlyLoadEndsRules : Prop :=
  (∀ f : Clear, Completes (.clear f) (fun s g => s.entriesPending g.warp = false) fun s t g => SameRegs s t g ∧
    let struck := s.clearing.any (fun e => e.warp = g.warp && e.st == .struck)
    let by_ := if struck then f.off.signExtend 64 * 4#64 else BitVec.ofNat 64 g.len
    Quiet (s.dropEntries g.warp) t g fun _ x => { x with pc := x.pc + by_ }) ∧
  (∀ f : Clear, Completes (.clear f) (fun s g => s.entriesPending g.warp = true) fun s t g =>
    Waits s t g .entries false) ∧
  (∀ f : Bare, Completes (.cldrop f) (Some1 f.h) fun s t g => GoesOn (s.dropEntries g.warp) t g ∧
    ∀ e ∈ t.clearing, e.warp ≠ g.warp) ∧
  (∀ f : Bare, Completes (.cldrop f) (None1 f.h) GoesOn)

/-- Atomics that go to their home: each taking-part lane's operation leaves for its home, and, where the old value
returns, D stays pending until every lane's answer is there (R292 to R294, R119). -/
def Sys2Proof.AtomsGoHome (i : Instr) (h : Hdr) (ty : ATy) (sc : Scope) (d : Option Reg) (place : State → WarpKey → Nat → Except Bad Place2)
    (msg : Warp → Nat → Place2 → Option Part → MsgKind) : Prop :=
  Completes i (fun s g => ∀ l ∈ s.taking g h, ∃ pl, place s g.warp l = .ok pl ∧ inL1 sc pl = false) fun s t g =>
    Sends s t g ∧
    (∀ l ∈ s.taking g h, ∀ pl, place s g.warp l = .ok pl → ∃ m ∈ t.msgs,
      m.k = msg (s.warp g.warp) l pl (d.map (fun r => ⟨s.nextId, l, r.toNat, atyBytes ty, false⟩))) ∧
    (∀ r, d = some r → ∃ p, Newest s t g p ∧ p.left = (s.taking g h).length ∧ p.writes = [] ∧
      p.regs = (List.range (atyRegs ty)).map (r.toNat + ·))
/-- Atomics of one lane in its core's L1, on a leased line without an error that no load of the warp is on its way to: the old value is the line's, and the new one is written
through as a store (R119, R86). -/
def Sys2Proof.AtomsInL1 (i : Instr) (h : Hdr) (ty : ATy) (sc : Scope) (d : Option Reg) (place : State → WarpKey → Nat → Except Bad Place2)
    (new : Warp → Nat → Nat → Option Nat) : Prop :=
  ∀ l pl x, Completes i (fun s g => s.taking g h = [l] ∧ place s g.warp l = .ok pl ∧ inL1 sc pl = true ∧ pl.sp = .device ∧
      s.l1Line (s.coreOf g.warp) (pl.pa / 64) = some x ∧ s.serves g.warp x = true ∧ s.atomOut g.warp (pl.pa / 64) = false ∧
      s.loading g.warp (pl.pa / 64) = false ∧
      Spot.l1 (s.coreOf g.warp) (pl.pa / 64) ∉ s.badSpots) fun s t g =>
    Sends s t g ∧
    (t.msgs.drop s.msgs.length).map (·.k) = (match new (s.warp g.warp) l (leNat (x.bytes (pl.pa % 64) (atyBytes ty))) with
      | some v => [.write pl.pa (nbytes (atyBytes ty) v) .device]
      | none => []) ∧
    (∀ r, d = some r → ∃ p, Newest s t g p ∧ p.left = 0 ∧
      p.writes = partWrites ⟨s.nextId, l, r.toNat, atyBytes ty, false⟩ (leNat (x.bytes (pl.pa % 64) (atyBytes ty))))
/-- ATOM, ATOMC and RED at their homes and in L1, with the new value of the operation, or of the compare that holds. -/
def Sys2Proof.AtomicsIssueRules : Prop :=
  (∀ f : Atom, AtomsGoHome (.atom f) f.h f.ty f.sc (some f.d)
      (fun s k l => s.atomPlace k f.ty (some f.op) true (atomVa f.a f.off s k l))
      (fun w l pl p => .atom pl.pa f.ty f.op (BitVec.ofNat 64 (w.srcN f.ub (atyRegs f.ty) f.b l)) p pl.sp) ∧
    AtomsInL1 (.atom f) f.h f.ty f.sc (some f.d) (fun s k l => s.atomPlace k f.ty (some f.op) true (atomVa f.a f.off s k l))
      (fun w l old => some (aopNew f.ty f.op old (w.srcN f.ub (atyRegs f.ty) f.b l)))) ∧
  (∀ f : Atomc, AtomsGoHome (.atomc f) f.h f.ty f.sc (some f.d)
      (fun s k l => s.atomPlace k f.ty none true (atomVa f.a f.off s k l))
      (fun w l pl p => .cas pl.pa f.ty (BitVec.ofNat 64 (w.srcN f.ub (atyRegs f.ty) f.b l))
        (BitVec.ofNat 64 (w.srcN false (atyRegs f.ty) f.c l)) (p.getD ⟨0, 0, 0, 4, false⟩) pl.sp) ∧
    AtomsInL1 (.atomc f) f.h f.ty f.sc (some f.d) (fun s k l => s.atomPlace k f.ty none true (atomVa f.a f.off s k l))
      (fun w l old => if old = w.srcN f.ub (atyRegs f.ty) f.b l then some (w.srcN false (atyRegs f.ty) f.c l) else none)) ∧
  (∀ f : Red, AtomsGoHome (.red f) f.h f.ty f.sc none
      (fun s k l => s.atomPlace k f.ty (some f.op) false (globalVa f.a 0 s k l))
      (fun w l pl p => .atom pl.pa f.ty f.op (BitVec.ofNat 64 (w.srcN false (atyRegs f.ty) f.b l)) p pl.sp) ∧
    AtomsInL1 (.red f) f.h f.ty f.sc none (fun s k l => s.atomPlace k f.ty (some f.op) false (globalVa f.a 0 s k l))
      (fun w l old => some (aopNew f.ty f.op old (w.srcN false (atyRegs f.ty) f.b l)))) ∧
  (∀ f : RedI, AtomsGoHome (.red96i f) f.h f.ty f.sc none
      (fun s k l => s.atomPlace k f.ty (some f.op) false (globalVa f.a 0 s k l))
      (fun _ _ pl p => .atom pl.pa f.ty f.op (f.imm.setWidth 64) p pl.sp) ∧
    AtomsInL1 (.red96i f) f.h f.ty f.sc none (fun s k l => s.atomPlace k f.ty (some f.op) false (globalVa f.a 0 s k l))
      (fun _ _ old => some (aopNew f.ty f.op old f.imm.toNat)))

/-- What an atomic operation makes of an old value and an operand (Table 15.6): on integers the exact result, reduced;
on whole words the bitwise ones; on packed floats element by element, rounded to nearest. -/
def Sys2Proof.AtomicArithmeticRules : Prop :=
  (∀ a b, a < 2 ^ 32 → b < 2 ^ 32 → aopNew .u32 .add a b = (a + b) % 2 ^ 32 ∧ aopNew .s32 .add a b = (a + b) % 2 ^ 32 ∧
    aopNew .u32 .min a b = min a b ∧ aopNew .u32 .max a b = max a b ∧ aopNew .u32 .and a b = a &&& b ∧
    aopNew .u32 .or a b = a ||| b ∧ aopNew .u32 .xor a b = a ^^^ b ∧ aopNew .u32 .exch a b = b ∧
    aopNew .s32 .min a b = (if intOf true 32 a ≤ intOf true 32 b then a else b) ∧
    aopNew .s32 .max a b = (if intOf true 32 a ≤ intOf true 32 b then b else a)) ∧
  (∀ a b, a < 2 ^ 64 → b < 2 ^ 64 → aopNew .u64 .add a b = (a + b) % 2 ^ 64 ∧ aopNew .u64 .exch a b = b ∧
    aopNew .u64 .min a b = min a b ∧ aopNew .s64 .max a b = (if intOf true 64 a ≤ intOf true 64 b then b else a)) ∧
  (∀ ty op a b, ty = .bf16x2 ∨ ty = .f16x2 → ∀ j, j < 2 → aopNew ty op a b / 2 ^ (16 * j) % 2 ^ 16 =
    aopElem (atyTy ty) op (a / 2 ^ (16 * j) % 2 ^ 16) (b / 2 ^ (16 * j) % 2 ^ 16) % 2 ^ 16)

/-- REDC adds each taking-part lane's value, in ascending lane order, to the partial that its core holds of the lane's
element, or on a page of lease none to the home's slot of its core, once the warp's own accesses to the line have ended: the
addend is the value times 2^k, rounded to an integer; a NaN, an infinity, a value or a sum that does not fit sets the
element's flag (R121, R295). -/
def Sys2Proof.CommutativeReductionRules : Prop :=
  (∀ f : Redc, ∀ place : Nat → Place2, Completes (.redc f)
    (fun s g => ∀ l ∈ s.taking g f.h, s.redcPlace g.warp (globalVa f.a 0 s g.warp l) = .ok (place l) ∧
      s.lineBusy g.warp ((place l).pa / 64) = false) fun s t g =>
      GoesOn (s.redcAll g.warp f.b ((s.taking g f.h).map (fun l => (l, place l)))) t g) ∧
  (∀ f : Redc, ∀ place : Nat → Place2, Completes (.redc f)
    (fun s g => (∀ l ∈ s.taking g f.h, s.redcPlace g.warp (globalVa f.a 0 s g.warp l) = .ok (place l)) ∧
      ∃ l ∈ s.taking g f.h, s.lineBusy g.warp ((place l).pa / 64) = true) fun s t g => ∃ ls, Waits s t g (.lines ls) false) ∧
  (∀ (s : State) core ctx e k x old, old = ((aget s.partials (core, e)).map (·.v)).getD 0 →
    aget (s.redc core ctx e k false x).partials (core, e) = some ⟨ctx, old + BitVec.ofInt 64 (redcAddend k x).1⟩ ∧
    (∀ c, c ≠ (core, e) → aget (s.redc core ctx e k false x).partials c = aget s.partials c) ∧
    (s.redc core ctx e k false x).crSlots = s.crSlots ∧ (s.redc core ctx e k false x).mem = s.mem ∧
    (∀ d, d ∈ (s.redc core ctx e k false x).crFlags ↔ d ∈ s.crFlags ∨ (d = e ∧ ((redcAddend k x).2 = true ∨
      old.toInt + (redcAddend k x).1 < -2 ^ 63 ∨ 2 ^ 63 ≤ old.toInt + (redcAddend k x).1)))) ∧
  (∀ (s : State) core ctx e k x old, old = (aget s.crSlots (core, e)).getD 0 →
    aget (s.redc core ctx e k true x).crSlots (core, e) = some (old + BitVec.ofInt 64 (redcAddend k x).1) ∧
    (∀ c, c ≠ (core, e) → aget (s.redc core ctx e k true x).crSlots c = aget s.crSlots c) ∧
    (s.redc core ctx e k true x).partials = s.partials ∧ (s.redc core ctx e k true x).mem = s.mem ∧
    (∀ d, d ∈ (s.redc core ctx e k true x).crFlags ↔ d ∈ s.crFlags ∨ (d = e ∧ ((redcAddend k x).2 = true ∨
      old.toInt + (redcAddend k x).1 < -2 ^ 63 ∨ 2 ^ 63 ≤ old.toInt + (redcAddend k x).1)))) ∧
  (∀ k, redcAddend k .nan = (0, true) ∧ redcAddend k (.inf false) = (2 ^ 63 - 1, true) ∧ redcAddend k (.inf true) = (-2 ^ 63, true))

/-- Atomics and reductions: what they send, and what they compute (15.4, 06.6, 06.7).
In the clauses that log 23 names it states the model's reading. -/
def Obligations.Atomics : Prop := AtomicsIssueRules ∧ AtomicArithmeticRules ∧ CommutativeReductionRules

/-- FENCE: a release completes when the warp's writes are done as its scope asks, and its gang waits otherwise; an
acquire waits for the warp's loads; ACQ_INV drops the core's L1 lines, and what partials they held are added into the homes'
slots; each acts only if a lane takes part (R296, Table 06.3, R87). FENCE_COMPLETION ends a release's wait: the gang issues
the instruction again with its release done (R116). -/
def Sys2Proof.FencesRules : Prop :=
  (∀ f : Fence, Completes (.fence f) (None1 f.h) GoesOn) ∧
  (∀ f : Fence, f.kind = .rel → Completes (.fence f) (fun s g => Some1 f.h s g ∧
    ((s.warp g.warp).slice g.gang.slice).relDone = false ∧ s.relReady g.warp f.sc = true)
    fun s t g => GoesOn (s.relDo g.warp f.sc) t g) ∧
  (∀ f : Fence, f.kind = .rel ∨ f.kind = .acqRel → Completes (.fence f) (fun s g => Some1 f.h s g ∧
    ((s.warp g.warp).slice g.gang.slice).relDone = false ∧ s.relReady g.warp f.sc = false)
    fun s t g => t = s.waitIn g (.release f.sc false)) ∧
  (∀ f : Fence, f.kind = .rel → Completes (.fence f) (fun s g => Some1 f.h s g ∧
    ((s.warp g.warp).slice g.gang.slice).relDone = true) GoesOn) ∧
  (∀ f : Fence, f.kind = .acqRel → Completes (.fence f) (fun s g => Some1 f.h s g ∧
    ((s.warp g.warp).slice g.gang.slice).relDone = true ∧ s.loadsOut g.warp = false) GoesOn) ∧
  (∀ f : Fence, f.kind = .acq → Completes (.fence f) (fun s g => Some1 f.h s g ∧ s.loadsOut g.warp = false) GoesOn) ∧
  (∀ f : Fence, f.kind = .acqInv → Completes (.fence f) (fun s g => Some1 f.h s g ∧ s.loadsOut g.warp = false)
    fun s t g => GoesOn (s.invL1 (s.coreOf g.warp)) t g) ∧
  (∀ f : Fence, f.kind = .acq ∨ f.kind = .acqInv → Completes (.fence f) (fun s g => Some1 f.h s g ∧ s.loadsOut g.warp = true)
    fun s t g => Waits s t g .loads false) ∧
  (∀ (s : State) core, (s.invL1 core).mem = s.mem ∧ (∀ x, x ∈ (s.invL1 core).l1 ↔ x ∈ s.l1 ∧ x.core ≠ core) ∧
    (∀ x, x ∈ (s.invL1 core).partials ↔ x ∈ s.partials ∧ x.1.1 ≠ core) ∧
    ((s.partials.map (·.1)).Nodup → ∀ c e, aget (s.invL1 core).crSlots (c, e) = match aget s.partials (c, e) with
      | some p => if c = core then some ((aget s.crSlots (c, e)).getD 0 + p.v) else aget s.crSlots (c, e)
      | none => aget s.crSlots (c, e))) ∧
  (∀ f : Fence, f.kind = .acqRel → Completes (.fence f) (fun s g => Some1 f.h s g ∧
    ((s.warp g.warp).slice g.gang.slice).relDone = false ∧ s.relReady g.warp f.sc = true ∧ s.loadsOut g.warp = false)
    fun s t g => GoesOn (s.relDo g.warp f.sc) t g) ∧
  (∀ (s : State) (k : GangKey) sc b, ((s.warp k.warp).slice k.slice).wait = .release sc b → s.relReady k.warp sc = true →
    ∃ t, exec (.fenceCompletion k) s = .next t ∧ t.mem = s.mem ∧
      ∀ i (x : Slice), (s.warp k.warp).slices[i]? = some x → ((s.relDo k.warp sc).warp k.warp).gangOf k.slice = (s.warp k.warp).gangOf k.slice ∧
        (t.warp k.warp).slices[i]? = some (if ((s.warp k.warp).gangOf k.slice).getLsbD i = true then { x with wait := .none, relDone := true } else x)) ∧
  (∀ (s : State) (k : GangKey) sc b, ((s.warp k.warp).slice k.slice).wait = .release sc b → s.relReady k.warp sc = false →
    exec (.fenceCompletion k) s = .next s)

/-- A prefetch into L1: fills set out, of lanes whose access would not fault, for lines that may be held there; afterwards
each such line is under a lease or has a fill on its way. -/
def Sys2Proof.Fetches (s t : State) (g : Cur) (h : Hdr) (a : Reg) (off : Int) : Prop :=
  (∀ m ∈ t.msgs.drop s.msgs.length, ∃ l ∈ s.taking g h, ∃ pl, s.checkPiece g.warp .read 1 ⟨globalVa a off s g.warp l, 1, 0⟩ = .ok pl ∧
    cacheable pl = true ∧ s.homeBad g.warp .ld pl = false ∧ m.k = .fill (pl.pa / 64) (s.leaseLen g.ctx pl.tr) []) ∧
  ∀ l ∈ s.taking g h, ∀ pl, s.checkPiece g.warp .read 1 ⟨globalVa a off s g.warp l, 1, 0⟩ = .ok pl → cacheable pl = true →
    s.homeBad g.warp .ld pl = false → (∃ x, s.l1Line (s.coreOf g.warp) (pl.pa / 64) = some x ∧ s.serves g.warp x = true) ∨ t.filling g.warp (pl.pa / 64) = true
/-- PREF sends fills for lines that are not held under a lease, or names lines to L2; lanes whose address would fault are
dropped, no register changes, and nothing is left pending (R297). -/
def Sys2Proof.PrefetchRules : Prop :=
  (∀ f : Pref, Completes (.pref f) Always fun s t g => Sends s t g ∧ t.pends.map (fun x => { x with look := 0 }) =
    s.pends.map (fun x => { x with look := 0 }) ∧ (f.l2 = true → t.msgs = s.msgs) ∧
    (f.l2 = false → t.l2 = s.l2 ∧ Fetches s t g f.h f.a 0)) ∧
  (∀ f : PrefI, Completes (.pref96i f) Always fun s t g => Sends s t g ∧ t.pends.map (fun x => { x with look := 0 }) =
    s.pends.map (fun x => { x with look := 0 }) ∧ (f.l2 = true → t.msgs = s.msgs) ∧
    (f.l2 = false → t.l2 = s.l2 ∧ Fetches s t g f.h f.a f.off.toInt))

/-- Fences and prefetches (15.5, 06.4).
In the clauses that log 19 names it states the model's reading. -/
def Obligations.FencesAndPrefetch : Prop := FencesRules ∧ PrefetchRules

/-! The homes (05, 06). -/

/-- A home that applies a store puts its bytes where they belong and touches no other byte; it records the store's
completion time, the greatest expiry of the lines it changes, in the acknowledgement, and on a commutative range it
drops the element's partials, slots and flag (R109, R114, R122). -/
def Sys2Proof.HomeWritesRules : Prop :=
  (∀ (s : State) m pa d, s.msg? m.id = some m → m.k = .write pa d .device → s.mustWait m = false →
    ∃ t wct, exec (.homeWrite m.id) s = .next t ∧ t.rdN pa d.length = d ∧
      (∀ a, a < pa ∨ pa + d.length ≤ a → t.rd a = s.rd a) ∧ t.warps = s.warps ∧ t.pends = s.pends ∧
      t.msgs = s.msgs.map (fun x => if x.id = m.id then { x with k := .ack wct } else x) ∧
      ((∃ k, region pa = .tier k) → ∀ l, pa / 64 ≤ l → 64 * l < pa + d.length → s.lineExp l ≤ wct)) ∧
  (∀ (s : State) m pa d kk, s.msg? m.id = some m → m.k = .write pa d (.range kk) → s.mustWait m = false →
    ∃ t wct, exec (.homeWrite m.id) s = .next t ∧ t.rdN pa d.length = d ∧
      (∀ a, a < pa ∨ pa + d.length ≤ a → t.rd a = s.rd a) ∧ t.warps = s.warps ∧
      (∀ p ∈ t.partials, p.1.2 ≠ pa / 8 * 8) ∧ (∀ p ∈ t.crSlots, p.1.2 ≠ pa / 8 * 8) ∧ pa / 8 * 8 ∉ t.crFlags ∧
      t.msgs = s.msgs.map (fun x => if x.id = m.id then { x with k := .ack wct } else x))

/-- A home that makes an atomic answers with the old value, puts the new one in its place and touches no other byte,
in one step; a compare that fails changes no byte (R119, R293). -/
def Sys2Proof.HomeAtomicsRules : Prop :=
  (∀ (s : State) m pa ty op b dst, s.msg? m.id = some m → m.k = .atom pa ty op b dst .device → s.mustWait m = false →
    ∃ t, exec (.homeAtomic m.id) s = .next t ∧
      t.rdN pa (atyBytes ty) = nbytes (atyBytes ty) (aopNew ty op (s.rdNat pa (atyBytes ty)) (b.toNat % 2 ^ (8 * atyBytes ty))) ∧
      (∀ a, a < pa ∨ pa + atyBytes ty ≤ a → t.rd a = s.rd a) ∧ t.warps = s.warps ∧
      t.pends = (match dst with | some q => (s.answer q (s.rdNat pa (atyBytes ty))).pends | none => s.pends)) ∧
  (∀ (s : State) m pa ty b c q, s.msg? m.id = some m → m.k = .cas pa ty b c q .device → s.mustWait m = false →
    s.rdNat pa (atyBytes ty) = b.toNat % 2 ^ (8 * atyBytes ty) →
    ∃ t, exec (.homeAtomic m.id) s = .next t ∧ t.rdN pa (atyBytes ty) = nbytes (atyBytes ty) c.toNat ∧
      (∀ a, a < pa ∨ pa + atyBytes ty ≤ a → t.rd a = s.rd a) ∧ t.warps = s.warps ∧
      t.pends = (s.answer q (s.rdNat pa (atyBytes ty))).pends) ∧
  (∀ (s : State) m pa ty b c q, s.msg? m.id = some m → m.k = .cas pa ty b c q .device → s.mustWait m = false →
    s.rdNat pa (atyBytes ty) ≠ b.toNat % 2 ^ (8 * atyBytes ty) →
    ∃ t, exec (.homeAtomic m.id) s = .next t ∧ t.mem = s.mem ∧ t.msgs = s.msgs.filter (fun x => x.id ≠ m.id) ∧
      t.warps = s.warps ∧ t.pends = (s.answer q (s.rdNat pa (atyBytes ty))).pends)

/-- Reads at the home leave memory as it is but for a fold: HOME_FILL grants the line a lease, installs it in L1 where
there is room beside the pinned lines, and answers every part with the home's bytes (R85, R84, R87); HOME_LDBY answers with the bytes there when it arrives (R113);
HOME_RANGE_LOAD folds every partial of the element, of the cores' L1s and of its slots, into it and answers from the folded
element (R122). -/
def Sys2Proof.HomeReadsRules : Prop :=
  (∀ (s : State) m line len parts, s.msg? m.id = some m → m.k = .fill line len parts → s.mustWait m = false →
    ∃ t r, exec (.homeFill m.id) s = .next t ∧ t.mem = s.mem ∧ t.warps = s.warps ∧
      t.msgs = s.msgs.filter (fun y => y.id ≠ m.id) ∧ aget t.lines line = some r ∧ s.time + len ≤ r.expiry ∧
      (s.pinned m.core < s.l1Lines m.core → ∃ x, t.l1Line m.core line = some x ∧ x.expiry = s.time + len ∧ x.version = r.version ∧
        ((∀ y ∈ s.msgs, y.k.changes = false) → x.data = BitVec.ofNat 512 (leNat (s.rdN (64 * line) 64)))) ∧
      t.pends = (parts.foldl (fun (u : State) q => u.answer q.1 (leNat (((s.rdN (64 * line) 64).drop q.2).take q.1.size))) s).pends) ∧
  (∀ (s : State) m pa ps sp, s.msg? m.id = some m → m.k = .ldby pa ps sp → s.mustWait m = false →
    ∃ t, exec (.homeLdby m.id) s = .next t ∧ t.mem = s.mem ∧ t.warps = s.warps ∧ t.l1 = s.l1 ∧
      t.msgs = s.msgs.filter (fun y => y.id ≠ m.id) ∧
      t.pends = (ps.foldl (fun (u : State) q => u.answer q (s.rdNat pa q.size)) s).pends) ∧
  (∀ (s : State) m pa k q, s.msg? m.id = some m → m.k = .range pa k q → s.mustWait m = false →
    ∃ t, exec (.homeRangeLoad m.id) s = .next t ∧ t.warps = s.warps ∧
      BitVec.ofNat 64 (t.rdNat (pa / 8 * 8) 8) = (s.partsOf (pa / 8 * 8)).foldl (· + ·) (BitVec.ofNat 64 (s.rdNat (pa / 8 * 8) 8)) ∧
      (∀ a, a < pa / 8 * 8 ∨ pa / 8 * 8 + 8 ≤ a → t.rd a = s.rd a) ∧
      (∀ p ∈ t.partials, p.1.2 ≠ pa / 8 * 8) ∧ (∀ p ∈ t.crSlots, p.1.2 ≠ pa / 8 * 8) ∧
      t.pends = (s.answer q (t.rangeValue pa q.size k)).pends)

/-- Writes, atomics and reads as they reach their home (06).
In the clauses that logs 5, 21, 72 name it states the model's reading. -/
def Obligations.HomeAccesses : Prop := HomeWritesRules ∧ HomeAtomicsRules ∧ HomeReadsRules

/-- WRITE_ACKNOWLEDGEMENT raises the warp's horizon to the write's completion time (R115); L1_LEASE_EXPIRY brings
device time to a line's expiry, after which the line is stale unless it is pinned (R84), and what else falls due on the way, a
watchdog, happens (R201). -/
def Sys2Proof.AcksAndExpiryRules : Prop :=
  (∀ (s : State) m wct k, s.msg? m.id = some m → m.k = .ack wct → m.warp = some k → (aget s.warps k).isSome = true →
    ∃ t, exec (.writeAck m.id) s = .next t ∧ (t.warp k).whz = max (s.warp k).whz wct ∧
      (∀ j, j ≠ k → t.warp j = s.warp j) ∧ t.mem = s.mem ∧ t.msgs = s.msgs.filter (fun y => y.id ≠ m.id)) ∧
  (∀ (s : State) core line x, s.l1Line core line = some x →
    ∃ t u : State, exec (.l1LeaseExpiry core line) s = .next t ∧ t = (if x.expiry ≤ s.time then u else u.fireDue) ∧ t.time = max s.time x.expiry ∧
      u.time = t.time ∧ u.mem = s.mem ∧ u.l1 = s.l1 ∧ (s.pinnedLine x = false → u.leased x = false))

/-- LDE_VALIDATION answers with a new lease on the line and says whether its version is still the one that was read;
VALIDATION_ANSWER confirms its entry, if that is still pending, or strikes it, and changes no other (R186, R188, R291). -/
def Sys2Proof.ValidationsRules : Prop :=
  (∀ (s : State) m e line ver len, s.msg? m.id = some m → m.k = .valid e line ver len → s.mustWait m = false →
    ∃ t x, exec (.ldeValidation m.id) s = .next t ∧ t.mem = s.mem ∧ t.clearing = s.clearing ∧
      t.msgs = s.msgs.map (fun y => if y.id = m.id then
        { y with k := .answer e line ((aget s.lines line).any (fun r => r.version = ver)) x } else y) ∧
      x.line = line ∧ x.core = m.core ∧ x.expiry = s.time + len ∧
      ((∀ y ∈ s.msgs, y.k.changes = false) → x.data = BitVec.ofNat 512 (leNat (s.rdN (64 * line) 64)))) ∧
  (∀ (s : State) m n line ok x, s.msg? m.id = some m → m.k = .answer n line ok x →
    ∃ t, exec (.validationAnswer m.id) s = .next t ∧ t.mem = s.mem ∧ t.warps = s.warps ∧
      t.msgs = s.msgs.filter (fun y => y.id ≠ m.id) ∧
      t.clearing = s.clearing.map (fun e =>
        if e.id = n ∧ e.st = .pending then { e with st := if ok then .confirmed else .struck } else e))

/-- Early loads from their entry to CLEAR: expiry, validation, answers and what CLEAR leaves (15.3, 06.5, 09.4).
In the clauses that logs 5, 21 name it states the model's reading. -/
def Obligations.EarlyLoads : Prop := EarlyLoadEndsRules ∧ AcksAndExpiryRules ∧ ValidationsRules

/-- A peer's packet acts at this device only if it names tier-0 memory, within one page, that the port's own access table and the
memory's open to a Link port and that has no error: else nothing changes; a store puts its bytes there and nothing else, a load
changes no byte, and a store leaves its settle message (R91, R94, R117, R196, R392). PEER_SETTLE ends a settle message once device
time has reached its completion time, of this device's own write to a peer that answers or has not for 10,000,000 ticks;
PEER_TIMEOUT does nothing before 10,000,000 ticks, and then the gang that waits takes UNCORRECTABLE at its instruction, its report
naming the access (R392, R210, R212).
In the clauses that log 11 names, and in those on settle messages and waits for silent peers, which are the model's choice
(log 73), it states the model's reading. -/
def Obligations.Peers : Prop :=
  (∀ (s : State) (p : PeerPacket), region p.pa ≠ .tier 0 → exec (.peerPacket p) s = .next s) ∧
  (∀ (s : State) (p : PeerPacket) d, p.op = .store d → s.physOk p.pa 3 false true false = false → exec (.peerPacket p) s = .next s) ∧
  (∀ (s : State) (p : PeerPacket) d, p.op = .store d → s.tableAllows (14 + p.port) p.pa 3 false true = false →
    exec (.peerPacket p) s = .next s) ∧
  (∀ (s : State) (p : PeerPacket) d, p.op = .store d → region p.pa = .tier 0 → s.physOk p.pa 3 false true false = true →
    s.tableAllows (14 + p.port) p.pa 3 false true = true → p.pa % 4096 + d.length ≤ 4096 → s.isBad p.pa d.length = false →
    ∃ t wct, exec (.peerPacket p) s = .next t ∧ t.rdN p.pa d.length = d ∧
      (∀ a, a < p.pa ∨ p.pa + d.length ≤ a → t.rd a = s.rd a) ∧ t.warps = s.warps ∧
      (t.msgs.drop s.msgs.length).map (·.k) = [.settle p.peer wct]) ∧
  (∀ (s : State) (p : PeerPacket) n, p.op = .load n → ∃ t, exec (.peerPacket p) s = .next t ∧ t.mem = s.mem ∧ t.msgs = s.msgs) ∧
  (∀ (s : State) m d wct, s.msg? m.id = some m → m.k = .settle d wct →
    exec (.peerSettle m.id) s = .next (if wct ≤ s.time ∧ (m.ctx = 64 ∨ aget s.peers d ≠ some .silent ∨ m.sent + 10000000 ≤ s.time) then s.dropMsg m.id else s)) ∧
  (∀ (s : State) m, s.msg? m.id = some m → s.time < m.sent + 10000000 → exec (.peerTimeout m.id) s = .next s) ∧
  (∀ (s : State) (m : Msg) p0 i (k : WarpKey) a pa len (lanes : Word) whole, s.msg? m.id = some m → m.k = .unheard p0 i → m.warp = some k →
    m.sent + 10000000 ≤ s.time → ((s.warp k).slice i).wait = .peer a pa len lanes whole → s.undelivered k.crew.ctx (s.privOf k) = false →
    ∃ (t : State) (r : Report), exec (.peerTimeout m.id) s = .next t ∧ t.faultQ = s.faultQ ++ [r] ∧ r.code = .uncorrectable ∧ r.kind = .p ∧ r.warp = some k ∧
      r.access = a ∧ r.addr = pa ∧ (∀ l, l < 32 → r.lanes.testBit l = lanes.getLsbD l) ∧
      (∃ x, (t.warp k).held = some x ∧ x.code = .uncorrectable ∧ x.report = r.id) ∧
      (∀ x l, (t.warp k).rg x l = (s.warp k).rg x l) ∧
      ∀ (j : Nat) (x : Slice), (s.warp k).slices[j]? = some x → ∃ y : Slice, (t.warp k).slices[j]? = some y ∧ y.pc = x.pc ∧ y.mask = x.mask)

/-! Instructions that act once for their gang (R211, R312). -/

/-- The instructions of the copy, matrix, KV and synchronisation groups that act once for their gang. -/
def Sys2Proof.gangWise : Instr → Bool
  | .cpclose _ | .cpwait _ | .spwait _ | .sprel _ | .spqry _ | .tcopy _ | .tcred _ | .dcopy _ | .pgin _ | .pgmove _
  | .accld _ | .accst _ | .mma _ | .mma2 _ | .mmab _ | .accz _ | .accmov _ | .accscl _ | .attn _ | .attnfin _ | .smmerge _
  | .select _ | .kvapp _ | .kvcommit _ | .kvroll _ | .kvclose _ | .kvstep _ | .demreq _ | .kvpin _ | .kvunpin _
  | .cbar _ | .gbar _ | .evadd _ | .evadd96i _ | .evset _ | .evset96i _ | .evwait _ | .taskput _ | .sibcancel _
  | .svc _ | .rte _ | .cacheop _ | .tlbop _ | .ctxop _ => true
  | _ => false
/-- With no lane taking part, none of them has an effect: the gang goes on (R211). -/
def Obligations.GangWiseIdle : Prop :=
  ∀ i h, gangWise i = true → i.hdr = some h → Completes i (None1 h) GoesOn

/-! Group 5: copies, spools and tiers (15.6 to 15.10). -/

/-- What the warp has issued before an instruction that reads memory as it issues is behind it: its writes are applied, and its loads
have returned (R111, R112; log 88). -/
def Sys2Proof.Ordered (s : State) (g : Cur) : Prop := s.unapplied g.warp = false ∧ s.loadsOut g.warp = false
/-- Such an instruction waits for the warp's writes, then for its loads. -/
def Sys2Proof.WaitsOrdered (i : Instr) (pre : State → Cur → Prop) (whole : Bool) : Prop :=
  Completes i (fun s g => pre s g ∧ s.unapplied g.warp = true) (fun s t g => Waits s t g .unapplied whole) ∧
  Completes i (fun s g => pre s g ∧ s.unapplied g.warp = false ∧ s.loadsOut g.warp = true) fun s t g => Waits s t g .loads whole

/-- One request for each of ops, at the engine beside it, joins the queues, for this warp and a sink, and the gang goes on
behind the instruction (R139); u is the state but for the requests. -/
def Sys2Proof.Queues (s u t : State) (g : Cur) (ops : List (Nat × ReqOp)) (sink : Sink) : Prop :=
  ∃ rs, GoesOn { u with reqs := s.reqs ++ rs, nextId := s.nextId + ops.length } t g ∧ rs.map (fun r => (r.engine, r.op)) = ops ∧
    ∀ r ∈ rs, r.warp = some g.warp ∧ r.ctx = g.ctx ∧ r.core = s.coreOf g.warp ∧
      r.sink = sink ∧ r.user = !s.privOf g.warp ∧ r.st = .queued
/-- Each engine that the requests of some lanes go to has room for all of them (R139). -/
def Sys2Proof.Room (s : State) (ops : List (Nat × ReqOp)) : Prop :=
  ∀ o ∈ ops, s.engineFull o.1 (ops.filter (fun x => x.1 = o.1)).length = false
/-- The requests of the taking-part lanes at the engine of their core. -/
def Sys2Proof.atCore (s : State) (g : Cur) (h : Hdr) (op : Nat → ReqOp) : List (Nat × ReqOp) :=
  (s.taking g h).map (fun l => (engineOf (s.coreOf g.warp), op l))

/-- CPA: every taking-part lane's copy, checked, joins the warp's open batch, which counts them, and the engine's queue
(R298, R199, R139). CPCLOSE closes the batch under its number, which D of each lane gets, and opens the next; with eight
closed and not complete it waits for the oldest. CPWAIT goes on once every batch it covers is complete, waits before, takes
the fault of one that failed, and is a cancellation point (R299, R300, R181, R214).
In the clauses that log 26 names it states the model's reading. -/
def Obligations.CopyBatches : Prop :=
  (∀ f : Cpa, ∀ op : Nat → ReqOp, Completes (.cpa f)
    (fun s g => (∀ l ∈ s.taking g f.h, s.cpaLane g.warp f l = .ok (op l)) ∧
      s.engineFull (engineOf (s.coreOf g.warp)) (s.taking g f.h).length = false)
    fun s t g => Queues s (s.modWarp g.warp (fun w => w.addCopies (s.taking g f.h).length)) t g (atCore s g f.h op)
      (.batch (s.warp g.warp).nextBatch)) ∧
  (∀ f : Cpa, FaultsLowest (.cpa f) f.h .read fun s k l => s.cpaLane k f l) ∧
  (∀ f : OnlyD, Completes (.cpclose f)
    (fun s g => Some1 f.h s g ∧ ((s.warp g.warp).batches.filter (fun b => b.closed && !b.done)).length < 8)
    fun s t g => GotWord s t g f.h f.d (fun w _ => w.nextBatch.setWidth 32) ∧
      Quiet (s.modWarp g.warp (fun w => { w with batches := (t.warp g.warp).batches, nextBatch := w.nextBatch + 1, lastBatch := w.nextBatch }))
        t g (onward g) ∧
      (∀ b ∈ (t.warp g.warp).batches, b.closed = true) ∧
      (∀ b ∈ (s.warp g.warp).batches, { b with closed := true } ∈ (t.warp g.warp).batches)) ∧
  (∀ (f : OnlyD) b bs, Completes (.cpclose f)
    (fun s g => Some1 f.h s g ∧ (s.warp g.warp).batches.filter (fun b => b.closed && !b.done) = b :: bs ∧ 7 ≤ bs.length)
    fun s t g => Waits s t g (.oldest b.n) false) ∧
  (∀ f : Cpwait, Completes (.cpwait f) (fun s g => ∃ l ls, s.taking g f.h = l :: ls ∧ (s.warp g.warp).pending = false ∧
      ∀ b ∈ (s.warp g.warp).batches, b.covered f.all (((s.warp g.warp).rg f.a.toNat l).setWidth 16) = true → b.done = true ∧ b.failed = none)
    GoesOn) ∧
  (∀ f : Cpwait, ∀ l ls, Completes (.cpwait f) (fun s g => s.taking g f.h = l :: ls ∧ (s.warp g.warp).pending = false ∧
      ∃ b ∈ (s.warp g.warp).batches, b.covered f.all (((s.warp g.warp).rg f.a.toNat l).setWidth 16) = true ∧ b.done = false)
    fun s t g => Waits s t g (.batches f.all (((s.warp g.warp).rg f.a.toNat l).setWidth 16)) false) ∧
  (∀ f : Cpwait, ∀ l ls c, Completes (.cpwait f) (fun s g => s.taking g f.h = l :: ls ∧ (s.warp g.warp).pending = false ∧
      (∀ b ∈ (s.warp g.warp).batches, b.covered f.all (((s.warp g.warp).rg f.a.toNat l).setWidth 16) = true → b.done = true) ∧
      ((s.warp g.warp).batches.filter (fun b => b.covered f.all (((s.warp g.warp).rg f.a.toNat l).setWidth 16))).findSome? (·.failed) = some c)
    fun s t g => ∃ bs, Excepted (s.modWarp g.warp (fun w => { w with batches := bs })) t g (c.fx (l :: ls))) ∧
  (∀ f : Cpwait, Completes (.cpwait f) (fun s g => Some1 f.h s g ∧ (s.warp g.warp).pending = true)
    fun s t g => t = s.cancelWarp g.warp)

/-- The spools: SPSET defines one, its slots empty and its expected bytes from lanes 0 to n − 1 of B, or frees it;
SPWAIT gives the read slot's number once that slot is filled, with what its requests wrote acquired, so that no older copy in
its core's L1 serves a load of its crew, waits before, and takes the fault of a request that failed; SPREL empties the slot and moves on; SPQRY reads the state; a spool that is not there,
over-full, or for SPREL not filled, is SPOOL_STATE (R301 to R303, R200, R124, R214).
In the clauses that logs 27 and 87 name it states the model's reading. -/
def Obligations.Spools : Prop :=
  (∀ f : Spset, f.free = false → Completes (.spset f)
    (fun s g => (∀ i, i < f.n1.toNat + 1 → i ∈ s.taking g f.h ∧ (s.warp g.warp).rg f.b.toNat i ≠ 0) ∧
      s.spoolTaken (s.coreOf g.warp) g.crewK f.k.toNat = false ∧ s.spoolReqs (s.coreOf g.warp) f.k.toNat (· = g.crewK) = false)
    fun s t g => ∃ x : Spool, GoesOn (s.setSpool g.crewK f.k.toNat x) t g ∧ x.ns = f.n1.toNat + 1 ∧ x.rp = 0 ∧
      ∀ i, i < x.ns → x.exp i = ((s.warp g.warp).rg f.b.toNat i).toNat ∧ x.arr i = 0 ∧ x.failed.getD i none = none) ∧
  (∀ f : Spset, f.free = false → Completes (.spset f)
    (fun s g => ∃ i, i < f.n1.toNat + 1 ∧ (i ∉ s.taking g f.h ∨ (s.warp g.warp).rg f.b.toNat i = 0))
    fun s t g => Excepted s t g (spoolFx f.k.toNat (s.taking g f.h))) ∧
  (∀ f : Spset, f.free = true → Completes (.spset f)
    (fun s g => Some1 f.h s g ∧ s.spoolTaken (s.coreOf g.warp) g.crewK f.k.toNat = false ∧
      s.spoolReqs (s.coreOf g.warp) f.k.toNat (· = g.crewK) = false)
    fun s t g => GoesOn (s.modCrew g.crewK (fun c => { c with spools := adel c.spools f.k.toNat })) t g) ∧
  (∀ f : SpD, ∀ x : Spool, Completes (.spwait f)
    (fun s g => Some1 f.h s g ∧ (s.warp g.warp).pending = false ∧ s.spool? g.crewK f.k.toNat = some x ∧
      x.arr x.rp = x.exp x.rp ∧ x.failed.getD x.rp none = none)
    fun s t g => Quiet (s.acquire g.warp (x.got.getD x.rp {})) t g (onward g) ∧
      GotWord s t g f.h f.d (fun _ _ => BitVec.ofNat 32 x.rp)) ∧
  (∀ (s : State) k (x : Landed), ((s.acquire k x).warp k).whz = max (s.warp k).whz x.wct ∧
    ((s.acquire k x).warp k).settles = (s.warp k).settles ++ x.settles ∧ (s.acquire k x).mem = s.mem ∧
    (s.acquire k x).l1.map (fun l => { l with behind := [] }) = s.l1.map (fun l => { l with behind := [] }) ∧
    (∀ l ∈ (s.acquire k x).l1, l.core = s.coreOf k → ∀ p ∈ x.puts, p.1 < 64 * l.line + 64 → 64 * l.line < p.1 + p.2 →
      (s.acquire k x).serves k l = false)) ∧
  (∀ f : SpD, ∀ x : Spool, Completes (.spwait f)
    (fun s g => Some1 f.h s g ∧ (s.warp g.warp).pending = false ∧ s.spool? g.crewK f.k.toNat = some x ∧
      x.arr x.rp < x.exp x.rp ∧ x.failed.getD x.rp none = none)
    fun s t g => Waits s t g (.spool f.k.toNat) false) ∧
  (∀ f : SpD, ∀ (x : Spool) c, Completes (.spwait f)
    (fun s g => Some1 f.h s g ∧ (s.warp g.warp).pending = false ∧ s.spool? g.crewK f.k.toNat = some x ∧
      x.arr x.rp ≤ x.exp x.rp ∧ x.failed.getD x.rp none = some c)
    fun s t g => Excepted s t g (c.fx (s.taking g f.h))) ∧
  (∀ f : SpD, Completes (.spwait f)
    (fun s g => Some1 f.h s g ∧ (s.warp g.warp).pending = false ∧ ∀ x, s.spool? g.crewK f.k.toNat = some x → x.exp x.rp < x.arr x.rp)
    fun s t g => Excepted s t g (spoolFx f.k.toNat (s.taking g f.h))) ∧
  (∀ f : SpK, ∀ x : Spool, Completes (.sprel f)
    (fun s g => Some1 f.h s g ∧ s.spool? g.crewK f.k.toNat = some x ∧ x.arr x.rp = x.exp x.rp)
    fun s t g => ∃ y : Spool, GoesOn (s.setSpool g.crewK f.k.toNat y) t g ∧ y.rp = (x.rp + 1) % x.ns ∧ y.ns = x.ns ∧
      y.expect = x.expect ∧ (x.rp < x.arrived.length → y.arr x.rp = 0) ∧ ∀ i, i ≠ x.rp → y.arr i = x.arr i) ∧
  (∀ f : SpK, Completes (.sprel f)
    (fun s g => Some1 f.h s g ∧ ∀ x, s.spool? g.crewK f.k.toNat = some x → x.arr x.rp ≠ x.exp x.rp)
    fun s t g => Excepted s t g (spoolFx f.k.toNat (s.taking g f.h))) ∧
  (∀ f : SpD, Completes (.spqry f) (Some1 f.h) fun s t g => Quiet s t g (onward g) ∧
    GotWord s t g f.h f.d (fun _ _ => match s.spool? g.crewK f.k.toNat with
      | none => 0
      | some x => BitVec.ofNat 32 (x.rp + 16 * x.adv + 512 * (x.ns - 1) + 8192 + 16384 * (x.over x.rp).toNat +
          32768 * ((x.failed.getD x.rp none).isSome).toNat)))

/-- The requests of PGIN and PGMOVE, each at the engine of its page's frame (R139). -/
def Sys2Proof.pageMoves (s : State) (g : Cur) (f : Pgmove) (tier : Nat) : List (Nat × ReqOp) :=
  (s.taking g f.h).map (fun l => (s.pageEngine g.warp ((s.warp g.warp).pair f.a l).toNat ((s.warp g.warp).rg f.b.toNat l).toNat,
    .pgmove ((s.warp g.warp).pair f.a l).toNat ((s.warp g.warp).rg f.b.toNat l).toNat tier))
/-- The engine instructions queue one request for each taking-part lane under a slot of a spool, where the lane's
records and addresses pass their checks; TCOPY and TCRED read their records behind the warp's own stores and loads (R301, R304
to R309, R111, R112, R139). -/
def Sys2Proof.QueuedCopiesRules : Prop :=
  (∀ (f : Tcopy) (x : Nat → Tensor) (d : Nat → Nat) (op : State → WarpKey → Nat → ReqOp),
    op = (fun s k l => .tcopy (x l) f.kind f.st (d l) (coords (s.warp k) l [f.b, f.c, f.e, f.f, f.g])) → Completes (.tcopy f)
    (fun s g => Some1 f.h s g ∧ s.slotOk g.crewK f.spool f.slot = true ∧ Ordered s g ∧
      Room s (atCore s g f.h (op s g.warp)) ∧ ∀ l ∈ s.taking g f.h,
      s.readTensor g.warp ((s.warp g.warp).pair f.a l).toNat (4 * 2 ^ 20) = .ok (x l) ∧
      s.imageAt g.warp (x l) f.kind f.tile.toNat (imageReg (s.warp g.warp) f.kind f.d l) = .ok (d l))
    fun s t g => Queues s (s.sawRecords g.warp ((s.taking g f.h).map (fun l => ((s.warp g.warp).pair f.a l).toNat))) t g
      (atCore s g f.h (op s g.warp)) (.slot f.spool.toNat f.slot.toNat)) ∧
  (∀ (f : Tcred) (x : Nat → Tensor) (d : Nat → Nat) (op : State → WarpKey → Nat → ReqOp),
    op = (fun s k l => .tcred (x l) f.kind f.ty f.op (d l) (coords (s.warp k) l [f.b, f.c, f.e, f.f, f.g])) → Completes (.tcred f)
    (fun s g => Some1 f.h s g ∧ s.slotOk g.crewK f.spool f.slot = true ∧ Ordered s g ∧
      Room s (atCore s g f.h (op s g.warp)) ∧ ∀ l ∈ s.taking g f.h,
      s.readTensor g.warp ((s.warp g.warp).pair f.a l).toNat (64 * 1024) = .ok (x l) ∧ (x l).ebytes = atyBytes f.ty ∧
      s.imageAt g.warp (x l) f.kind f.tile.toNat (imageReg (s.warp g.warp) f.kind f.d l) = .ok (d l))
    fun s t g => Queues s (s.sawRecords g.warp ((s.taking g f.h).map (fun l => ((s.warp g.warp).pair f.a l).toNat))) t g
      (atCore s g f.h (op s g.warp)) (.slot f.spool.toNat f.slot.toNat)) ∧
  (∀ f : Tcopy, WaitsOrdered (.tcopy f) (fun s g => Some1 f.h s g ∧ s.slotOk g.crewK f.spool f.slot = true) false) ∧
  (∀ f : Tcred, WaitsOrdered (.tcred f) (fun s g => Some1 f.h s g ∧ s.slotOk g.crewK f.spool f.slot = true) false) ∧
  (∀ (f : Dcopy) (op : State → WarpKey → Nat → ReqOp), op = (fun s k l =>
      if f.kv then .dcopyKv f.fmt.toNat ((s.warp k).pair f.d l).toNat ((s.warp k).rg f.b.toNat l).toNat ((s.warp k).pair f.a l).toNat s.dir
      else .dcopyPage ((s.warp k).pair f.d l).toNat ((s.warp k).pair f.a l).toNat s.dir) → Completes (.dcopy f)
    (fun s g => Some1 f.h s g ∧ s.slotOk g.crewK f.spool f.slot = true ∧ Room s (atCore s g f.h (op s g.warp)) ∧ ∀ l ∈ s.taking g f.h,
      ((s.warp g.warp).pair f.d l).toNat % (if f.kv then 64 else 4096) = 0 ∧ ((s.warp g.warp).pair f.a l).toNat % 4096 = 0)
    fun s t g => Queues s s t g (atCore s g f.h (op s g.warp)) (.slot f.spool.toNat f.slot.toNat)) ∧
  (∀ f : Pgmove, Completes (.pgin f)
    (fun s g => Some1 f.h s g ∧ s.slotOk g.crewK f.spool f.slot = true ∧ Room s (pageMoves s g f 0) ∧
      ∀ l ∈ s.taking g f.h, ((s.warp g.warp).pair f.a l).toNat % 64 = 0)
    fun s t g => Queues s s t g (pageMoves s g f 0) (.slot f.spool.toNat f.slot.toNat)) ∧
  (∀ f : Pgmove, Completes (.pgmove f)
    (fun s g => Some1 f.h s g ∧ s.slotOk g.crewK f.spool f.slot = true ∧ Room s (pageMoves s g f f.tier.toNat) ∧
      ∀ l ∈ s.taking g f.h, ((s.warp g.warp).pair f.a l).toNat % 64 = 0)
    fun s t g => Queues s s t g (pageMoves s g f f.tier.toNat) (.slot f.spool.toNat f.slot.toNat))

/-- A spool's slot that a copy names must be there: else SPOOL_STATE, with nothing queued (R301). -/
def Sys2Proof.SlotMissingRules : Prop :=
  (∀ f : Tcopy, Completes (.tcopy f) (fun s g => Some1 f.h s g ∧ s.slotOk g.crewK f.spool f.slot = false)
    fun s t g => Excepted s t g (spoolFx f.spool.toNat (s.taking g f.h))) ∧
  (∀ f : Tcred, Completes (.tcred f) (fun s g => Some1 f.h s g ∧ s.slotOk g.crewK f.spool f.slot = false)
    fun s t g => Excepted s t g (spoolFx f.spool.toNat (s.taking g f.h))) ∧
  (∀ f : Dcopy, Completes (.dcopy f) (fun s g => Some1 f.h s g ∧ s.slotOk g.crewK f.spool f.slot = false)
    fun s t g => Excepted s t g (spoolFx f.spool.toNat (s.taking g f.h))) ∧
  (∀ f : Pgmove, Completes (.pgin f) (fun s g => Some1 f.h s g ∧ s.slotOk g.crewK f.spool f.slot = false)
    (fun s t g => Excepted s t g (spoolFx f.spool.toNat (s.taking g f.h))) ∧
    Completes (.pgmove f) (fun s g => Some1 f.h s g ∧ s.slotOk g.crewK f.spool f.slot = false)
    fun s t g => Excepted s t g (spoolFx f.spool.toNat (s.taking g f.h)))

/-- Copies that engines queue, and the SPOOL_STATE fault where a named slot is missing (15.8, 15.9).
In the clauses that logs 27, 75 name it states the model's reading. -/
def Obligations.QueuedTransfers : Prop := QueuedCopiesRules ∧ SlotMissingRules

/-- CRCCHK: each taking-part lane gets 1 for a protected block of a tier whose check holds, 0 for one that is not
protected, and DATA_CRC or UNCORRECTABLE is taken for one whose check fails (R310). -/
def Sys2Proof.CrcCheckRules : Prop :=
  (∀ (f : CallX) (n : Nat → Nat), Completes (.crcchk f)
    (fun s g => ∀ l ∈ s.taking g f.h, s.crcLane g.warp (globalVa f.a 0 s g.warp l) = .ok (n l))
    fun s t g => ∃ p, Begun s t g p ∧ p.left = 0 ∧ p.regs = [f.d.toNat] ∧ WritesWord s g f.h p f.d (fun _ l => BitVec.ofNat 32 (n l))) ∧
  (∀ f : CallX, FaultsLowest (.crcchk f) f.h .read fun s k l => s.crcLane k (globalVa f.a 0 s k l)) ∧
  (∀ (s : State) k va, (canonical va = false → s.crcLane k va = .error (bad .addrRange)) ∧
    (canonical va = true → s.inWindow k va = true → s.privOf k = false → s.crcLane k va = .error (bad .privilege)) ∧
    ∀ t, canonical va = true → (s.inWindow k va = true → s.privOf k = true) →
      s.xlate (s.coreOf k) k.crew.ctx va (!s.privOf k) .read = .ok t →
      (region t.pa = .window → s.crcLane k va = .ok 0) ∧
      ∀ i, region t.pa = .tier i → s.physOk t.pa 0 true false false = true →
        (t.prot = false → s.crcLane k va = .ok 0) ∧
        (t.prot = true → s.checkBlock k.crew.ctx t.pa = none → s.crcLane k va = .ok 1) ∧
        ∀ c, t.prot = true → s.checkBlock k.crew.ctx t.pa = some c → s.crcLane k va = .error { c with refused := false })

/-- The destination pages of an ACCST whose image lies at the address of lane l. -/
def Sys2Proof.accstPages (s : State) (g : Cur) (f : Accx) (l : Nat) : List (Nat × Tr × List Byte) :=
  s.accPages ⟨s.coreOf g.warp, g.ctx, !s.privOf g.warp, 0⟩ (cutPages (1024 * (f.n1.toNat + 1) / 4096 + 2) (accAddr (s.warp g.warp) f l)
    ((List.range (256 * (f.n1.toNat + 1))).flatMap (fun i => nbytes 4 (s.tileWord g.crewK f.k.toNat (256 * f.row0.toNat + i)).toNat)))
/-- ACCLD leaves the image's words, from row0, pending for the tile; ACCST writes a tile's rows to the scratchpad; or as
stores where no page of the image is protected; or, where every page is, by the Shuttle engine, once no access of the warp to
their lines is under way and the engine's turn has come, and then the core's own copies have the bytes too. Tile, rows, alignment,
and every page of the image are checked first (R311, R211, R86, R139). -/
def Sys2Proof.AccumulatorTransfersRules : Prop :=
  (∀ (f : Accx) l ls, f.s = true → Completes (.accld f)
    (fun s g => s.taking g f.h = l :: ls ∧ Ordered s g ∧
      s.imageCheck g.warp f false (accAddr (s.warp g.warp) f l) = .ok ())
    fun s t g => ∃ p, Begun s t g p ∧ p.left = 0 ∧ p.writes = [] ∧ p.tiles = [(g.crewK, f.k.toNat,
      imageWords (256 * f.row0.toNat) (256 * (f.n1.toNat + 1))
        (s.scratchBytes g.crewK (accAddr (s.warp g.warp) f l) (1024 * (f.n1.toNat + 1))))]) ∧
  (∀ (f : Accx) l ls b v, f.s = false → Completes (.accld f)
    (fun s g => s.taking g f.h = l :: ls ∧ Ordered s g ∧
      s.imageCheck g.warp f false (accAddr (s.warp g.warp) f l) = .ok () ∧
      s.takeRead ⟨s.coreOf g.warp, g.ctx, !s.privOf g.warp, 0⟩ (accAddr (s.warp g.warp) f l) (1024 * (f.n1.toNat + 1)) true = .ok (b, v))
    fun _ t g => ∃ p, Begun v t g p ∧ p.left = 0 ∧ p.writes = [] ∧ p.tiles = [(g.crewK, f.k.toNat,
      imageWords (256 * f.row0.toNat) (256 * (f.n1.toNat + 1)) b)]) ∧
  (∀ (f : Accx) l ls b, Completes (.accld f)
    (fun s g => s.taking g f.h = l :: ls ∧ Ordered s g ∧
      s.imageCheck g.warp f false (accAddr (s.warp g.warp) f l) = .error b)
    fun s t g => Raised s t g (b.fx .read (l :: ls))) ∧
  (∀ f : Accx, WaitsOrdered (.accld f) (Some1 f.h) false) ∧
  (∀ (f : Accx) l ls b, Completes (.accst f)
    (fun s g => s.taking g f.h = l :: ls ∧
      s.imageCheck g.warp f true (accAddr (s.warp g.warp) f l) = .error b)
    fun s t g => Raised s t g (b.fx .write (l :: ls))) ∧
  (∀ (f : Accx) l ls, f.s = true → Completes (.accst f)
    (fun s g => s.taking g f.h = l :: ls ∧ s.imageCheck g.warp f true (accAddr (s.warp g.warp) f l) = .ok ())
    fun s t g => ∃ x, GoesOn (s.modCrew g.crewK (fun c => { c with scratch := x })) t g ∧
      (∀ b, b < accAddr (s.warp g.warp) f l ∨ accAddr (s.warp g.warp) f l + 1024 * (f.n1.toNat + 1) ≤ b →
        sget x b = sget (s.crew g.crewK).scratch b) ∧
      ∀ i, i < 256 * (f.n1.toNat + 1) → leNat (sgetList x (accAddr (s.warp g.warp) f l + 4 * i) 4) =
        (s.tileWord g.crewK f.k.toNat (256 * f.row0.toNat + i)).toNat) ∧
  (∀ (f : Accx) l ls, f.s = false → Completes (.accst f)
    (fun s g => s.taking g f.h = l :: ls ∧ s.imageCheck g.warp f true (accAddr (s.warp g.warp) f l) = .ok () ∧
      ∀ p ∈ accstPages s g f l, p.2.1.prot = false ∧ s.isBad p.2.1.pa p.2.2.length = false)
    fun s t g => Sends s t g ∧ (t.msgs.drop s.msgs.length).map (·.k) = (accstPages s g f l).flatMap (fun p =>
      (cutLines (p.2.2.length / 64 + 2) p.2.1.pa p.2.2).map (fun x => .write x.1 x.2 (spaceOf p.2.1)))) ∧
  (∀ (f : Accx) l ls w v, f.s = false → Completes (.accst f)
    (fun s g => s.taking g f.h = l :: ls ∧ s.imageCheck g.warp f true (accAddr (s.warp g.warp) f l) = .ok () ∧
      accstPages s g f l ≠ [] ∧ (∀ p ∈ accstPages s g f l, p.2.1.prot = true ∧
        ∀ i, i ≤ p.2.2.length / 64 → s.lineBusy g.warp (p.2.1.pa / 64 + i) = false) ∧
      s.engineFull (engineOf (s.coreOf g.warp)) 1 = false ∧ s.engineBusy (engineOf (s.coreOf g.warp)) = false ∧
      s.engineWriteP ⟨s.coreOf g.warp, g.ctx, !s.privOf g.warp, 1⟩ (.warp g.warp 0) ((accstPages s g f l).map (fun p => (p.1, p.2.2))) =
        .ok (some w, v))
    fun s t g => GoesOn (((accstPages s g f l).foldl (fun x p => x.ownCopy (s.coreOf g.warp) p.2.1.pa p.2.2) v).ackOut g) t g) ∧
  (∀ (f : Accx) l ls, f.s = false → Completes (.accst f)
    (fun s g => s.taking g f.h = l :: ls ∧ s.imageCheck g.warp f true (accAddr (s.warp g.warp) f l) = .ok () ∧
      accstPages s g f l ≠ [] ∧ (∀ p ∈ accstPages s g f l, p.2.1.prot = true ∧
        ∀ i, i ≤ p.2.2.length / 64 → s.lineBusy g.warp (p.2.1.pa / 64 + i) = false) ∧
      (∀ a ∈ s.poolQ, a.who.ofWarp g.warp = false) ∧
      s.engineFull (engineOf (s.coreOf g.warp)) 1 = false ∧ s.engineBusy (engineOf (s.coreOf g.warp)) = true)
    fun s t g => Waits s t g (.turn (engineOf (s.coreOf g.warp))) false)

/-- Accumulator transfers, and the check of a frame's CRC (15.9, 15.10, 05.7). That the checks and the transfer are made as the
instruction issues, its result landing later, that one message acknowledges what the engine wrote for it, and that an access to a
silent peer is waited for, is the model's choice (logs 21, 25, 29, 73). -/
def Obligations.AccumulatorAndFrameChecks : Prop := CrcCheckRules ∧ AccumulatorTransfersRules

/-! Group 6: matrix products and tiles (16.2, 16.3). -/

/-- The faults of a product of na rows and nb columns, once pre holds: a tile that the launch does not have is ACCUM_RANGE, then an
image fails its own check, then an operand with an error that cannot be corrected is UNCORRECTABLE (R313, R318, R321, R93). -/
def Sys2Proof.ProductFaults (i : Instr) (f : Mma) (na nb : Nat) (two : Bool) (pre : State → Cur → Prop) : Prop :=
  ∀ l ls,
    let a : State → Cur → Nat := fun s g => ((s.warp g.warp).rg f.a.toNat l).toNat
    let b : State → Cur → Nat := fun s g => ((s.warp g.warp).rg f.b.toNat l).toNat
    Completes i (fun s g => s.taking g f.h = l :: ls ∧ pre s g ∧
        ((s.packetOf g.crewK).tiles ≤ f.dt.toNat ∨ (f.src = .acc ∧ (s.packetOf g.crewK).tiles ≤ f.tt.toNat)))
      (fun s t g => Excepted s t g { code := .accumRange, lanes := s.taking g f.h }) ∧
    (∀ e, Completes i (fun s g => s.taking g f.h = l :: ls ∧ pre s g ∧ s.mmaCheck g.crewK f (a s g) (b s g) na nb = .error e)
      (fun s t g => Excepted s t g (e.fx .none (s.taking g f.h)))) ∧
    Completes i (fun s g => s.taking g f.h = l :: ls ∧ pre s g ∧ s.mmaCheck g.crewK f (a s g) (b s g) na nb = .ok () ∧
        s.mmaBad g f (a s g) (b s g) na nb two = true)
      fun s t g => Excepted s t g { code := .uncorrectable, lanes := s.taking g f.h }
/-- The products leave pending, for each word of their tiles, the old word or 0 plus the exact sum of the products of
its row and column: in S8 as an integer modulo 2^32, else rounded in chunks of 16 (R316 to R323); MMA2 for the two
tiles of the pair, MMAB for sixteen products of 32 rows by 64 columns. Each of the three takes ACCUM_RANGE for a tile that the
launch does not have, the fault of an image that fails its check, and UNCORRECTABLE for an operand with an error (R313, R93). -/
def Sys2Proof.MatrixProductsRules : Prop :=
  (∀ (f : Mma) l ls, Completes (.mma f) (fun s g => s.taking g f.h = l :: ls ∧
      s.mmaCheck g.crewK f ((s.warp g.warp).rg f.a.toNat l).toNat ((s.warp g.warp).rg f.b.toNat l).toNat 128 256 = .ok () ∧
      s.mmaBad g f ((s.warp g.warp).rg f.a.toNat l).toNat ((s.warp g.warp).rg f.b.toNat l).toNat 128 256 false = false)
    fun s t g => ∃ p ws, Begun s t g p ∧ p.left = 0 ∧ p.writes = [] ∧ p.tiles = [(g.crewK, f.dt.toNat, ws)] ∧
      ∀ r c, r < 128 → c < 256 → (256 * r + c, mmaWord f.ta (if f.acc then s.tileWord g.crewK f.dt.toNat (256 * r + c) else 0)
        (s.mmaA g f ((s.warp g.warp).rg f.a.toNat l).toNat 128 r) (s.mmaB g f ((s.warp g.warp).rg f.b.toNat l).toNat 256 c)) ∈ ws) ∧
  (∀ (f : Mma) l ls, Completes (.mma2 f) (fun s g => s.taking g f.h = l :: ls ∧ s.pairOk g.crewK = true ∧
      s.mmaCheck g.crewK f ((s.warp g.warp).rg f.a.toNat l).toNat ((s.warp g.warp).rg f.b.toNat l).toNat 256 256 = .ok () ∧
      s.mmaBad g f ((s.warp g.warp).rg f.a.toNat l).toNat ((s.warp g.warp).rg f.b.toNat l).toNat 256 256 true = false)
    fun s t g => ∃ p ws vs, Begun s t g p ∧ p.left = 0 ∧ p.writes = [] ∧
      p.tiles = [(g.crewK, f.dt.toNat, ws), (partner g.crewK, f.dt.toNat, vs)] ∧ ∀ r c, r < 128 → c < 256 →
        (256 * r + c, mmaWord f.ta (if f.acc then s.tileWord g.crewK f.dt.toNat (256 * r + c) else 0)
          (s.mmaA g f ((s.warp g.warp).rg f.a.toNat l).toNat 256 r) (s.mmaB g f ((s.warp g.warp).rg f.b.toNat l).toNat 256 c)) ∈ ws ∧
        (256 * r + c, mmaWord f.ta (if f.acc then s.tileWord (partner g.crewK) f.dt.toNat (256 * r + c) else 0)
          (s.mmaA g f ((s.warp g.warp).rg f.a.toNat l).toNat 256 (128 + r)) (s.mmaB g f ((s.warp g.warp).rg f.b.toNat l).toNat 256 c)) ∈ vs) ∧
  (∀ (f : Mma) l ls, Completes (.mma2 f) (fun s g => s.taking g f.h = l :: ls ∧ s.pairOk g.crewK = false)
    fun s t g => Excepted s t g { code := .pairState, lanes := s.taking g f.h }) ∧
  (∀ (f : Mma) l ls, Completes (.mmab f) (fun s g => s.taking g f.h = l :: ls ∧
      s.mmaCheck g.crewK f ((s.warp g.warp).rg f.a.toNat l).toNat ((s.warp g.warp).rg f.b.toNat l).toNat 512 1024 = .ok () ∧
      s.mmaBad g f ((s.warp g.warp).rg f.a.toNat l).toNat ((s.warp g.warp).rg f.b.toNat l).toNat 512 1024 false = false)
    fun s t g => ∃ p ws, Begun s t g p ∧ p.left = 0 ∧ p.writes = [] ∧ p.tiles = [(g.crewK, f.dt.toNat, ws)] ∧
      ∀ i j r c, i < 4 → j < 4 → r < 32 → c < 64 →
        (256 * (32 * i + r) + (64 * j + c), mmaWord f.ta (if f.acc then s.tileWord g.crewK f.dt.toNat (256 * (32 * i + r) + (64 * j + c)) else 0)
          (s.mmaA g f ((s.warp g.warp).rg f.a.toNat l).toNat 512 (32 * (4 * i + j) + r))
          (s.mmaB g f ((s.warp g.warp).rg f.b.toNat l).toNat 1024 (64 * (4 * i + j) + c))) ∈ ws) ∧
  (∀ f : Mma, ProductFaults (.mma f) f 128 256 false (fun _ _ => True) ∧
    ProductFaults (.mma2 f) f 256 256 true (fun s g => s.pairOk g.crewK = true) ∧ ProductFaults (.mmab f) f 512 1024 false (fun _ _ => True))

/-- What a tile instruction does to the crew's tiles: word i of tile d becomes v i, every word of another tile stays,
and nothing else changes. -/
def Sys2Proof.WritesTile (s t : State) (g : Cur) (d : Nat) (v : Nat → Word) : Prop :=
  ∃ x, GoesOn (s.modCrew g.crewK (fun c => { c with tiles := x })) t g ∧
    (∀ i, i < 32768 → sget x (32768 * d + i) = v i) ∧
    ∀ b, b < 32768 * d ∨ 32768 * (d + 1) ≤ b → sget x b = sget (s.crew g.crewK).tiles b
/-- ACCZ carries its tile in D[4:0], with D[7:5], A, B and MOD 0, and writes 0 to every word of it, so that the words read
as FP32 +0 or as S32 0 (R324). -/
def Obligations.AcczClears : Prop :=
  (∀ f : Tile1, (Instr.accz f).fields = { d := f.k.setWidth 8 } ∧
    Completes (.accz f) (fun s g => Some1 f.h s g ∧ f.k.toNat < (s.packetOf g.crewK).tiles)
      fun s t g => WritesTile s t g f.k.toNat fun _ => 0) ∧
  f32 0 = .fin false 0 (-149) ∧ (0 : Word).toInt = 0

/-- A tile the launch does not have is ACCUM_RANGE, for ACCZ, ACCMOV and ACCSCL, and so is a word that a lane of ACCMOV names outside
its tile; a word in error that ACCMOV or ACCSCL reads is UNCORRECTABLE; ACCMOV copies a tile, or moves single words between a tile and D or B; ACCSCL scales each row by
a word of another tile (R88, R325, R326). -/
def Sys2Proof.TileInstructionsRules : Prop :=
  (∀ f : Tile1, Completes (.accz f) (fun s g => Some1 f.h s g ∧ (s.packetOf g.crewK).tiles ≤ f.k.toNat)
    fun s t g => Excepted s t g { code := .accumRange, lanes := s.taking g f.h }) ∧
  (∀ f : Accmov, Completes (.accmov f) (fun s g => Some1 f.h s g ∧
      match f.mode with
      | .tt => (s.packetOf g.crewK).tiles ≤ f.d.toNat ∨ (s.packetOf g.crewK).tiles ≤ f.a.toNat
      | .tr => (s.packetOf g.crewK).tiles ≤ f.b.toNat ∨ ∃ l ∈ s.taking g f.h, accKey ((s.warp g.warp).rg f.a.toNat l) = none
      | .rt => (s.packetOf g.crewK).tiles ≤ f.d.toNat ∨ ∃ l ∈ s.taking g f.h, accKey ((s.warp g.warp).rg f.a.toNat l) = none)
    fun s t g => Excepted s t g { code := .accumRange, lanes := s.taking g f.h }) ∧
  (∀ f : Accmov, f.mode = .tt → f.d ≠ f.a → Completes (.accmov f) (fun s g => Some1 f.h s g ∧ f.d.toNat < (s.packetOf g.crewK).tiles ∧
      f.a.toNat < (s.packetOf g.crewK).tiles ∧ s.tileBad g.crewK f.a.toNat 0 32768 = true)
    fun s t g => Excepted s t g { code := .uncorrectable, lanes := s.taking g f.h }) ∧
  (∀ f : Accscl, Completes (.accscl f) (fun s g => Some1 f.h s g ∧
      ((s.packetOf g.crewK).tiles ≤ f.k.toNat ∨ (s.packetOf g.crewK).tiles ≤ f.j.toNat))
    fun s t g => Excepted s t g { code := .accumRange, lanes := s.taking g f.h }) ∧
  (∀ f : Accscl, Completes (.accscl f) (fun s g => Some1 f.h s g ∧ f.k.toNat < (s.packetOf g.crewK).tiles ∧
      f.j.toNat < (s.packetOf g.crewK).tiles ∧ (s.tileBad g.crewK f.k.toNat 0 32768 = true ∨
        ∃ i, i < 128 ∧ s.tileBad g.crewK f.j.toNat (256 * i + f.col.toNat) 1 = true))
    fun s t g => Excepted s t g { code := .uncorrectable, lanes := s.taking g f.h }) ∧
  (∀ f : Accmov, f.mode = .tt → f.d ≠ f.a → Completes (.accmov f) (fun s g => Some1 f.h s g ∧ f.d.toNat < (s.packetOf g.crewK).tiles ∧
      f.a.toNat < (s.packetOf g.crewK).tiles ∧ s.tileBad g.crewK f.a.toNat 0 32768 = false)
    fun s t g => WritesTile s t g f.d.toNat fun i => s.tileWord g.crewK f.a.toNat i) ∧
  (∀ f : Accmov, f.mode = .tt → f.d = f.a → Completes (.accmov f) (fun s g => Some1 f.h s g ∧ f.d.toNat < (s.packetOf g.crewK).tiles)
    GoesOn) ∧
  (∀ f : Accmov, f.mode = .tr → Completes (.accmov f) (fun s g => Some1 f.h s g ∧ f.b.toNat < (s.packetOf g.crewK).tiles ∧
      ∀ l ∈ s.taking g f.h, ∃ n, accKey ((s.warp g.warp).rg f.a.toNat l) = some n ∧ s.tileBad g.crewK f.b.toNat n 1 = false)
    fun s t g => Quiet s t g (onward g) ∧ GotWord s t g f.h f.d (fun w l =>
      s.tileWord g.crewK f.b.toNat ((accKey (w.rg f.a.toNat l)).getD 0))) ∧
  (∀ f : Accmov, f.mode = .rt → Completes (.accmov f) (fun s g => Some1 f.h s g ∧ f.d.toNat < (s.packetOf g.crewK).tiles ∧
      ∀ l ∈ s.taking g f.h, (accKey ((s.warp g.warp).rg f.a.toNat l)).isSome = true)
    fun s t g => ∃ v, WritesTile s t g f.d.toNat v ∧ ∀ i,
      ((∀ l ∈ s.taking g f.h, accKey ((s.warp g.warp).rg f.a.toNat l) ≠ some i) → v i = s.tileWord g.crewK f.d.toNat i) ∧
      ∀ l ∈ s.taking g f.h, accKey ((s.warp g.warp).rg f.a.toNat l) = some i →
        (∀ k ∈ s.taking g f.h, l < k → accKey ((s.warp g.warp).rg f.a.toNat k) ≠ some i) → v i = (s.warp g.warp).rg f.b.toNat l) ∧
  (∀ f : Accscl, Completes (.accscl f) (fun s g => Some1 f.h s g ∧ f.k.toNat < (s.packetOf g.crewK).tiles ∧
      f.j.toNat < (s.packetOf g.crewK).tiles ∧ s.tileBad g.crewK f.k.toNat 0 32768 = false ∧
      ∀ i, i < 128 → s.tileBad g.crewK f.j.toNat (256 * i + f.col.toNat) 1 = false)
    fun s t g => WritesTile s t g f.k.toNat fun i => rne (mulX (f32 (s.tileWord g.crewK f.k.toNat i))
      (f32 (s.tileWord g.crewK f.j.toNat (256 * (i / 256) + f.col.toNat)))))

/-- Matrix products and the instructions on accumulator tiles (16.2, 16.3).
In the clauses that logs 16, 25 name it states the model's reading. -/
def Obligations.MatrixInstructions : Prop := MatrixProductsRules ∧ TileInstructionsRules

/-! Group 6: attention, selection and the KV records (16.4 to 16.6, 08). -/

/-- The instruction has left pending, for its warp, register writes and tile words, all there already; its gang goes
on, and u is what else it did. -/
def Sys2Proof.Leaves (u t : State) (g : Cur) (regs : List Nat) (ws : List (Nat × Nat × Word)) (ts : List (CrewKey × Nat × List (Nat × Word))) : Prop :=
  Moved u t g (onward g) ∧ SameRegs u t g ∧ t.mem = u.mem ∧
    ∃ p ∈ t.pends, p.warp = g.warp ∧ p.left = 0 ∧ p.regs = regs ∧ p.writes = ws ∧ p.tiles = ts
/-- Row i of the state in tile t with its output in tile o. -/
def Sys2Proof.tileRow (s : State) (k : CrewKey) (o t dim i : Nat) : AttnRow :=
  ⟨f32 (s.st k t i 0), f32 (s.st k t i 1), (List.range dim).map (fun d => f32 (s.tileWord k o (256 * i + d))), false⟩
/-- ATTN: each listed page that it can read is captured, one reader more, and a capture of the warp; each of another tier is
a tier miss; the words of O and S that the online softmax over the captured pages gives stay pending; of a state begun with
INIT, m is minus infinity, l and O are 0; without INIT skipped pages leave O as it is, and no page at all m and l too. A page with readers 0xFFFF is waited for. Its checks come first, in order (R328 to R331, R150). -/
def Sys2Proof.AttentionRules : Prop :=
  (∀ (f : Attn) l ls r ps cs u, Completes (.attn f) (fun s g => s.taking g f.h = l :: ls ∧ Ordered s g ∧
      s.attnPages g f ((s.warp g.warp).pair f.a l).toNat ((s.warp g.warp).rg f.b.toNat l).toNat ((s.warp g.warp).rg f.d.toNat l).toNat =
        .ok (r, ps) ∧
      (∀ p ∈ ps, p.2.readers ≠ 0xFFFF) ∧ s.loadPages (s.kvMaster g.warp) r ps = .ok cs ∧
      s.missFull (s.kvMaster g.warp) r (cs.filter (·.data.isNone)) = none ∧
      (s.sawPages (s.kvMaster g.warp) r cs).storeCaptures (s.kvMaster g.warp) (s.coreOf g.warp) cs = .ok u)
    fun s t g => ∃ q, Leaves (((cs.filter (·.data.isNone)).foldl (fun v c => v.tierMiss g (s.kvMaster g.warp) r c)
          (u.modWarp g.warp (fun w => { w with caps := w.caps ++ ((cs.filter (·.data.isSome)).map
            (fun c => ⟨r.addr, c.page, c.va, r.dim, f.s.toNat, !s.privOf g.warp⟩)) }))).ackOut g)
        t g [] [] [(g.crewK, f.o.toNat, (s.attnWords g.crewK f r (f32 ((s.warp g.warp).rg f.c.toNat l)) q cs).1),
          (g.crewK, f.s.toNat, (s.attnWords g.crewK f r (f32 ((s.warp g.warp).rg f.c.toNat l)) q cs).2)] ∧
      (f.tileQ = true → ∀ i d, q i d = bf16X (f32 (s.tileWord g.crewK f.q.toNat (256 * i + d)))) ∧
      (f.tileQ = false → ∀ i d, q i d = dec fBf16 (leNat (s.scratchBytes g.crewK
        (((s.warp g.warp).rg f.d.toNat l).toNat + 2 * (i * r.dim + d)) 2)))) ∧
  (∀ (f : Attn) l ls r p ps, Completes (.attn f) (fun s g => s.taking g f.h = l :: ls ∧ Ordered s g ∧
      s.attnPages g f ((s.warp g.warp).pair f.a l).toNat ((s.warp g.warp).rg f.b.toNat l).toNat ((s.warp g.warp).rg f.d.toNat l).toNat =
        .ok (r, ps) ∧ ps.find? (fun p => p.2.readers = 0xFFFF) = some p)
    fun s t g => Waits s t g (s.bytesAt (s.kvMaster g.warp) (r.pteVa p.1 + 0x1C) 2 0xFFFF) false) ∧
  (∀ (f : Attn) l ls b, Completes (.attn f) (fun s g => s.taking g f.h = l :: ls ∧ Ordered s g ∧
      s.attnPages g f ((s.warp g.warp).pair f.a l).toNat ((s.warp g.warp).rg f.b.toNat l).toNat ((s.warp g.warp).rg f.d.toNat l).toNat =
        .error b)
    fun s t g => Raised s t g (b.fx .read (s.taking g f.h))) ∧
  (∀ (s : State) g (f : Attn) a b qo e, s.attnCheck g.crewK f qo b = .error e → s.attnPages g f a b qo = .error e) ∧
  (∀ (s : State) k (f : Attn) r qs q i d, f.init = true → i ≤ f.nr1.toNat → d < r.dim →
    (256 * i + d, rne zeroX) ∈ (s.attnWords k f r qs q []).1 ∧ (stKey i 0, rne negInf) ∈ (s.attnWords k f r qs q []).2 ∧
    (stKey i 1, rne zeroX) ∈ (s.attnWords k f r qs q []).2 ∧ (stKey 0 252, 0#32) ∈ (s.attnWords k f r qs q []).2 ∧
    (stKey 4 252, BitVec.ofNat 32 r.dim) ∈ (s.attnWords k f r qs q []).2) ∧
  (∀ (s : State) k (f : Attn) r qs q cs, f.init = false → (∀ c ∈ cs, Captured.data c = none) → (s.attnWords k f r qs q cs).1 = []) ∧
  (∀ (s : State) k (f : Attn) r qs q, f.init = false → ∀ i c, c < 252 → ∀ w, (stKey i c, w) ∉ (s.attnWords k f r qs q []).2)

/-- The four tiles of an SMMERGE are the launch's and distinct, and its two states fit together (R333). -/
def Sys2Proof.Mergeable (s : State) (k : CrewKey) (f : Smmerge) : Prop :=
  (∀ x ∈ [f.o1, f.s1, f.o2, f.s2], s.tileOk k x = true) ∧ [f.o1, f.s1, f.o2, f.s2].Nodup ∧
  (s.attnHead k f.s1.toNat).ksr = (s.attnHead k f.s2.toNat).ksr ∧ (s.attnHead k f.s1.toNat).nr = (s.attnHead k f.s2.toNat).nr ∧
  (s.attnHead k f.s1.toNat).dim = (s.attnHead k f.s2.toNat).dim ∧ (s.attnHead k f.s1.toNat).ns + (s.attnHead k f.s2.toNat).ns ≤ 64 ∧
  ∀ i j, i < (s.attnHead k f.s1.toNat).ns → j < (s.attnHead k f.s2.toNat).ns → s.slotPage k f.s1.toNat i ≠ s.slotPage k f.s2.toNat j
/-- ATTNFIN divides O by l, adds each captured slot's mass to its page's entry and releases the capture, and empties
the state; SMMERGE joins two states of the same record, rows, dimension and disjoint pages: the greater m, the scaled
sums, the slots of the second, with what each row has in them, behind those of the first; of a row whose m in the second state is
minus infinity nothing is written (R332, R333). Tiles that are not the launch's, or not distinct, are ACCUM_RANGE; states that
differ in record, rows or dimension, have more than 64 slots together, or share a page, are KV_FORMAT. -/
def Sys2Proof.AttentionEndsRules : Prop :=
  (∀ (f : Attnfin) l ls r u, Completes (.attnfin f) (fun s g => s.taking g f.h = l :: ls ∧ Ordered s g ∧
      s.tileOk g.crewK f.o = true ∧ s.tileOk g.crewK f.s = true ∧ f.o ≠ f.s ∧ s.stateBad g.crewK f.o.toNat f.s.toNat = false ∧
      s.heldSlots g.crewK f.s.toNat ≠ [] ∧ s.readKsr (s.kvMaster g.warp) (s.attnHead g.crewK f.s.toNat).ksr = .ok r ∧
      (s.sawKsr (s.kvMaster g.warp) r ((s.heldSlots g.crewK f.s.toNat).map (·.2))).finSlots (s.kvMaster g.warp) (s.coreOf g.warp) r
        (fun j => if f.nomass then 0
        else (List.range (min (s.attnHead g.crewK f.s.toNat).nr 128)).foldl (fun n i => n + massOf
          (f32 (s.st g.crewK f.s.toNat i (4 + 2 * j))) (f32 (s.st g.crewK f.s.toNat i (5 + 2 * j)))
          (f32 (s.st g.crewK f.s.toNat i 0)) (f32 (s.st g.crewK f.s.toNat i 1))) 0) (s.heldSlots g.crewK f.s.toNat) = .ok u)
    fun s t g => ∃ ow sw, Leaves (((s.heldSlots g.crewK f.s.toNat).foldl (fun v p => v.dropCap g.crewK (fun c =>
          c.tile = f.s.toNat && c.ksr = (s.attnHead g.crewK f.s.toNat).ksr && c.page = p.2)) u).ackOut g)
        t g [] [] [(g.crewK, f.o.toNat, ow), (g.crewK, f.s.toNat, sw)] ∧ (stKey 0 252, 0#32) ∈ sw ∧
      (∀ j, j < 64 → (stKey j 255, 0#32) ∈ sw) ∧
      ∀ i d, i < (s.attnHead g.crewK f.s.toNat).nr → i < 128 → d < (s.attnHead g.crewK f.s.toNat).dim → d < 256 →
        (256 * i + d, rne (divX (f32 (s.tileWord g.crewK f.o.toNat (256 * i + d))) (f32 (s.st g.crewK f.s.toNat i 1)))) ∈ ow) ∧
  (∀ f : Attnfin, Completes (.attnfin f) (fun s g => Some1 f.h s g ∧ Ordered s g ∧
      (s.tileOk g.crewK f.o = false ∨ s.tileOk g.crewK f.s = false ∨ f.o = f.s))
    fun s t g => Excepted s t g { code := .accumRange, lanes := s.taking g f.h }) ∧
  (∀ f : Smmerge, Completes (.smmerge f) (fun s g => Some1 f.h s g ∧
      Mergeable s g.crewK f ∧
      s.stateBad g.crewK f.o1.toNat f.s1.toNat = false ∧ s.stateBad g.crewK f.o2.toNat f.s2.toNat = false)
    fun s t g =>
      let a := s.attnHead g.crewK f.s1.toNat
      let b := s.attnHead g.crewK f.s2.toNat
      ∃ ow sw, Leaves (s.mapCaps g.crewK (fun x => x.map (fun c => if c.tile = f.s2.toNat then { c with tile := f.s1.toNat } else c)))
        t g [] [] [(g.crewK, f.o1.toNat, ow), (g.crewK, f.s1.toNat, sw), (g.crewK, f.s2.toNat, [(stKey 0 252, 0)])] ∧
      (stKey 0 252, BitVec.ofNat 32 (a.ns + b.ns)) ∈ sw ∧
      (∀ j, j < b.ns → (stKey (a.ns + j) 253, s.st g.crewK f.s2.toNat j 253) ∈ sw ∧
        (stKey (a.ns + j) 255, s.st g.crewK f.s2.toNat j 255) ∈ sw) ∧
      (∀ i, i < a.nr → i < 128 → f32 (s.st g.crewK f.s2.toNat i 0) ≠ negInf → f32 (s.st g.crewK f.s1.toNat i 0) = negInf →
        (stKey i 0, s.st g.crewK f.s2.toNat i 0) ∈ sw ∧ (stKey i 1, s.st g.crewK f.s2.toNat i 1) ∈ sw ∧
        ∀ d, d < a.dim → d < 256 → (256 * i + d, s.tileWord g.crewK f.o2.toNat (256 * i + d)) ∈ ow) ∧
      ∀ i, i < a.nr → i < 128 → f32 (s.st g.crewK f.s2.toNat i 0) ≠ negInf → f32 (s.st g.crewK f.s1.toNat i 0) ≠ negInf →
        let x := mergeRow (tileRow s g.crewK f.o1.toNat f.s1.toNat (min a.dim 256) i) (tileRow s g.crewK f.o2.toNat f.s2.toNat (min a.dim 256) i)
        (stKey i 0, rne x.m) ∈ sw ∧ (stKey i 1, rne x.l) ∈ sw ∧ ∀ d, d < a.dim → d < 256 → (256 * i + d, rne (x.o.getD d zeroX)) ∈ ow) ∧
  (∀ f : Smmerge, Completes (.smmerge f) (fun s g => Some1 f.h s g ∧ Mergeable s g.crewK f ∧
      s.stateBad g.crewK f.o1.toNat f.s1.toNat = false ∧ s.stateBad g.crewK f.o2.toNat f.s2.toNat = false)
    fun s t g => ∃ u ow sw, Leaves u t g [] [] [(g.crewK, f.o1.toNat, ow), (g.crewK, f.s1.toNat, sw), (g.crewK, f.s2.toNat, [(stKey 0 252, 0)])] ∧
      ∀ i, i < (s.attnHead g.crewK f.s1.toNat).nr → i < 128 →
        (f32 (s.st g.crewK f.s2.toNat i 0) = negInf → ∀ v, (stKey i 0, v) ∉ sw ∧ (stKey i 1, v) ∉ sw ∧ ∀ d, d < 256 → (256 * i + d, v) ∉ ow) ∧
        ∀ j, j < (s.attnHead g.crewK f.s2.toNat).ns →
          (stKey i (4 + 2 * ((s.attnHead g.crewK f.s1.toNat).ns + j)), s.st g.crewK f.s2.toNat i (4 + 2 * j)) ∈ sw ∧
          (stKey i (5 + 2 * ((s.attnHead g.crewK f.s1.toNat).ns + j)), s.st g.crewK f.s2.toNat i (5 + 2 * j)) ∈ sw) ∧
  (∀ f : Smmerge, Completes (.smmerge f) (fun s g => Some1 f.h s g ∧
      (∀ x ∈ [f.o1, f.s1, f.o2, f.s2], s.tileOk g.crewK x = true) ∧ [f.o1, f.s1, f.o2, f.s2].Nodup ∧
      ((s.attnHead g.crewK f.s1.toNat).ksr ≠ (s.attnHead g.crewK f.s2.toNat).ksr ∨
        (s.attnHead g.crewK f.s1.toNat).nr ≠ (s.attnHead g.crewK f.s2.toNat).nr ∨
        (s.attnHead g.crewK f.s1.toNat).dim ≠ (s.attnHead g.crewK f.s2.toNat).dim ∨
        64 < (s.attnHead g.crewK f.s1.toNat).ns + (s.attnHead g.crewK f.s2.toNat).ns ∨
        ∃ i j, i < (s.attnHead g.crewK f.s1.toNat).ns ∧ j < (s.attnHead g.crewK f.s2.toNat).ns ∧
          s.slotPage g.crewK f.s1.toNat i = s.slotPage g.crewK f.s2.toNat j))
    fun s t g => Excepted s t g { code := .kvFormat, lanes := s.taking g f.h }) ∧
  (∀ f : Smmerge, Completes (.smmerge f) (fun s g => Some1 f.h s g ∧
      ((∃ x ∈ [f.o1, f.s1, f.o2, f.s2], s.tileOk g.crewK x = false) ∨ ¬ [f.o1, f.s1, f.o2, f.s2].Nodup))
    fun s t g => Excepted s t g { code := .accumRange, lanes := s.taking g f.h })

/-- ATTN, ATTNFIN and SMMERGE (16.4).
In the clauses that logs 25, 28, 29, 73, 76, 88, 89 name it states the model's reading. -/
def Obligations.AttentionInstructions : Prop := AttentionRules ∧ AttentionEndsRules

/-- A page ranks above another: its score is a number and the other's is not, or is the greater, or, the scores being equal or both
not numbers, its index is the lower (R154). -/
def Sys2Proof.RanksAbove (a b : Nat × X) : Prop :=
  (a.2.isNan = false ∧ b.2.isNan = true) ∨ (a.2.isNan = true ∧ b.2.isNan = true ∧ a.1 < b.1) ∨
  (a.2.isNan = false ∧ b.2.isNan = false ∧ (b.2.lt a.2 = true ∨ (a.2.eqv b.2 = true ∧ a.1 < b.1)))
/-- SELECT writes the chosen pages, ascending and padded, to the scratchpad and leaves their number pending in D; chosen
are every sink, every recent page, every page without a valid summary, and of the others, as many as the count asked for or all,
those that rank above the rest (R154, R155, R334). KVINFO leaves four words pending: a page's entry, or the oldest tier miss, which leaves the list
(R339).
In the clauses that logs 28 and 88 name it states the model's reading. -/
def Obligations.SelectionAndInfo : Prop :=
  (∀ (f : Select) l ls k sums, Completes (.select f) (fun s g => s.taking g f.h = l :: ls ∧ Ordered s g ∧
      ((s.warp g.warp).rg f.b.toNat l).toNat % 16 = 0 ∧ ((s.warp g.warp).rg f.f.toNat l).toNat % 64 = 0 ∧
      0 < ((s.warp g.warp).rg f.g.toNat l).toNat ∧ ((s.warp g.warp).rg f.g.toNat l).toNat % 16 = 0 ∧
      s.readKsr (s.kvMaster g.warp) ((s.warp g.warp).pair f.a l).toNat = .ok k ∧
      ((s.warp g.warp).rg f.b.toNat l).toNat + 2 * k.dim ≤ s.scratchSize g.crewK ∧
      ((s.warp g.warp).rg f.f.toNat l).toNat + 4 * ((s.warp g.warp).rg f.g.toNat l).toNat ≤ s.scratchSize g.crewK ∧
      s.scratchBad g.crewK ((s.warp g.warp).rg f.b.toNat l).toNat (2 * k.dim) = false ∧
      s.readSummaries (s.kvMaster g.warp) k ((List.range k.pages).filter k.isLive) = .ok sums)
    fun s t g =>
      let q := (List.range k.dim).map (fun j => dec fBf16 (leNat (s.scratchBytes g.crewK (((s.warp g.warp).rg f.b.toNat l).toNat + 2 * j) 2)))
      let ps := chosen k ((s.warp g.warp).rg f.e.toNat l).toNat (scoreOf q (f32 ((s.warp g.warp).rg f.c.toNat l))) sums
      Leaves (((sums.map (·.1)).foldl (fun v pg => v.sawRead (s.kvMaster g.warp) (k.summVa pg) (2 * k.dim + 8))
          (s.sawRead (s.kvMaster g.warp) k.addr 64)).scratchPut g.crewK ((s.warp g.warp).rg f.f.toNat l).toNat
          ((selectOut ((s.warp g.warp).rg f.g.toNat l).toNat ps).flatMap (nbytes 4)))
        t g [f.d.toNat] ((l :: ls).map (fun x => (f.d.toNat, x, BitVec.ofNat 32 ps.length))) []) ∧
  (∀ k n score (l : List (Nat × Summary)), (l.map (·.1)).Nodup →
    (chosen k n score l).Sublist (l.map (·.1)) ∧
    (∀ x ∈ l, ∀ y ∈ l, (k.isSink x.1 || k.isRecent x.1 || !x.2.valid) = false → (k.isSink y.1 || k.isRecent y.1 || !y.2.valid) = false →
      x.1 ∈ chosen k n score l → y.1 ∉ chosen k n score l → RanksAbove (x.1, score x.2) (y.1, score y.2)) ∧
    (∀ x ∈ l, (k.isSink x.1 = true ∨ k.isRecent x.1 = true ∨ x.2.valid = false) → x.1 ∈ chosen k n score l) ∧
    ((l.filter (fun x => !(k.isSink x.1 || k.isRecent x.1 || !x.2.valid) && (chosen k n score l).contains x.1)).length =
      min n ((l.filter (fun x => !(k.isSink x.1 || k.isRecent x.1 || !x.2.valid))).length))) ∧
  (∀ f : Kvinfo, f.tmiss = true → Completes (.kvinfo f) (fun s g => Some1 f.h s g ∧ Ordered s g ∧ (s.ctx g.ctx).tierMiss = [])
    fun s t g => Leaves s t g ((List.range 4).map (f.d.toNat + ·)) (fourWrites f.d (s.taking g f.h) [0, 0, 0, 0]) []) ∧
  (∀ (f : Kvinfo) a pg r, f.tmiss = true → Completes (.kvinfo f) (fun s g => Some1 f.h s g ∧ Ordered s g ∧
      (s.ctx g.ctx).tierMiss = (a, pg) :: r)
    fun s t g => Leaves s t g ((List.range 4).map (f.d.toNat + ·)) (fourWrites f.d (s.taking g f.h)
      [BitVec.ofNat 32 a, BitVec.ofNat 32 (a / 2 ^ 32), BitVec.ofNat 32 pg, 1]) [] ∧ (t.ctx g.ctx).tierMiss = r) ∧
  (∀ (f : Kvinfo) l ls k p, f.tmiss = false → Completes (.kvinfo f) (fun s g => s.taking g f.h = l :: ls ∧ Ordered s g ∧
      s.readKsr (s.kvMaster g.warp) ((s.warp g.warp).pair f.a l).toNat = .ok k ∧
      s.kvPage (s.kvMaster g.warp) k ((s.warp g.warp).rg f.b.toNat l).toNat = .ok p)
    fun s t g => Leaves (s.sawKsr (s.kvMaster g.warp) k [((s.warp g.warp).rg f.b.toNat l).toNat]) t g ((List.range 4).map (f.d.toNat + ·)) (fourWrites f.d (l :: ls)
      [p.cur.lo, p.cur.hi, BitVec.ofNat 32 p.mass, BitVec.ofNat 32 (p.readers + 65536 * p.flags.toNat)]) [])

/-- A record instruction with the operation f: where f succeeds, in the state u that it leaves the gang goes on, and the
acknowledgement that carries the greatest completion time of its writes is on its way to the warp; where f must wait
the warp waits for that, and nothing else of it issues, a full queue of the engine being counted once; where f fails its fault is
taken with the state as it was, named a store's where it met a store's check. All of it waits for the warp's own writes and loads
first (R145, R312, R315, R341, R139, R114, R111). -/
def Sys2Proof.RecordOp (i : Instr) (h : Hdr) (f : Cur → State → Nat → KvEnd) : Prop :=
  ∀ l ls, (∀ u, Completes i (fun s g => s.taking g h = l :: ls ∧ Ordered s g ∧ f g s l = .ok (none, u))
    fun _ t g => GoesOn (u.ackOut g) t g) ∧
  (∀ b u, (∀ e n, b ≠ .engine e n) → Completes i (fun s g => s.taking g h = l :: ls ∧ Ordered s g ∧ f g s l = .ok (some b, u))
    fun _ t g => Waits u t g b true) ∧
  (∀ e n u, Completes i (fun s g => s.taking g h = l :: ls ∧ Ordered s g ∧ f g s l = .ok (some (.engine e n), u))
    fun _ t g => Waits (if u.queueHeld g then u else u.count (some g.ctx) 0x1E 1) t g (.engine e n) true) ∧
  (∀ b, Completes i (fun s g => s.taking g h = l :: ls ∧ Ordered s g ∧ f g s l = .error b)
    fun s t g => Raised s t g (b.fx .read (s.taking g h)) true) ∧
  WaitsOrdered i (fun s g => s.taking g h = l :: ls) true
/-- The record instructions complete with their operation on the record that A names (R336 to R338, R162). -/
def Sys2Proof.KvInstructionsRules : Prop :=
  (∀ f : Kvapp, RecordOp (.kvapp f) f.h fun g s l =>
    s.kvapp g ((s.warp g.warp).pair f.a l).toNat ((s.warp g.warp).rg f.b.toNat l).toNat ((s.warp g.warp).rg f.c.toNat l).toNat) ∧
  (∀ f : KvAB, RecordOp (.kvcommit f) f.h fun g s l =>
    s.kvcommit g ((s.warp g.warp).pair f.a l).toNat ((s.warp g.warp).rg f.b.toNat l).toNat) ∧
  (∀ f : OnlyA, RecordOp (.kvroll f) f.h fun g s l => s.kvroll g ((s.warp g.warp).pair f.a l).toNat) ∧
  (∀ f : KvAB, RecordOp (.kvclose f) f.h fun g s l =>
    s.readKsr (s.kvMaster g.warp) ((s.warp g.warp).pair f.a l).toNat >>= fun k =>
      if k.isFull ((s.warp g.warp).rg f.b.toNat l).toNat then
        s.summarise (s.kvMaster g.warp) (s.coreOf g.warp) k ((s.warp g.warp).rg f.b.toNat l).toNat
      else .error (bad .kvFormat)) ∧
  (∀ f : KvAB, RecordOp (.kvpin f) f.h fun g s l =>
    s.setPin g true ((s.warp g.warp).pair f.a l).toNat ((s.warp g.warp).rg f.b.toNat l).toNat) ∧
  (∀ f : KvAB, RecordOp (.kvunpin f) f.h fun g s l =>
    s.setPin g false ((s.warp g.warp).pair f.a l).toNat ((s.warp g.warp).rg f.b.toNat l).toNat) ∧
  (∀ f : KvAB, RecordOp (.demreq f) f.h fun g s l =>
    s.demreq g ((s.warp g.warp).pair f.a l).toNat ((s.warp g.warp).rg f.b.toNat l).toNat) ∧
  (∀ f : KvAB, RecordOp (.kvstep f) f.h fun g s l =>
    s.kvstep g ((s.warp g.warp).pair f.a l).toNat ((s.warp g.warp).rg f.b.toNat l).toNat)

/-- What the operations on a record say: the checks that make them KV_FORMAT; a pin writes the pinned bit of the cur
word; a request already queued is not queued twice, and one for a full queue waits; a KVSTEP reads its list once, as its lane's loads of
8 bytes, waits for the sweep, the requests and the earlier KVSTEPs of its context, then counts, keeps its list and starts a sweep; a page whose length falls out of the window is dead (R144, R148, R160, R162,
R336 to R338). -/
def Sys2Proof.KvOperationsRules : Prop :=
  (∀ (s : State) g a k off n, s.readKsr (s.kvMaster g.warp) a = .ok k →
    (n = 0 ∨ 1024 < n → s.kvapp g a off n = .error (bad .kvFormat)) ∧
    (0 < n → n ≤ 1024 → off % 16 ≠ 0 → s.kvapp g a off n = .error (bad .misaligned)) ∧
    (0 < n → n ≤ 1024 → off % 16 = 0 → s.scratchSize g.crewK < off + 4 * k.dim * n → s.kvapp g a off n = .error (bad .scratchRange)) ∧
    (0 < n → n ≤ 1024 → off % 16 = 0 → off + 4 * k.dim * n ≤ s.scratchSize g.crewK → 64 * k.pages < k.tent + n →
      s.kvapp g a off n = .error (bad .kvFormat)) ∧
    (k.tent < k.length + n → s.kvcommit g a n = .error (bad .kvFormat)) ∧
    (k.pages ≤ n → s.demreq g a n = .error (bad .kvFormat)) ∧
    (∀ p, n < k.pages → s.readPte (s.kvMaster g.warp) (k.pteVa n) = .ok p →
      (s.demreqs.any (fun d => d.ctx = g.ctx && d.ksr = a && d.page = n) = true → s.demreq g a n = .ok (none, s)) ∧
      (s.demreqs.any (fun d => d.ctx = g.ctx && d.ksr = a && d.page = n) = false →
        s.demandsFull (s.pageDie (s.kvMaster g.warp) (k.pteVa n)) = true →
        s.demreq g a n = .ok (some (.demands (s.pageDie (s.kvMaster g.warp) (k.pteVa n))), s))) ∧
    (∀ v p, s.kvPage (s.kvMaster g.warp) k n = .ok p → fwValid p.cur = false → s.setPin g v a n = .error (bad .kvFormat)) ∧
    (∀ v p w u, s.kvPage (s.kvMaster g.warp) k n = .ok p → fwValid p.cur = true → fwPin p.cur v ≠ p.cur →
      s.storePte (s.kvMaster g.warp) (some (s.coreOf g.warp)) (k.pteVa n) { p with cur := fwPin p.cur v } = .ok (w, u) →
      s.setPin g v a n = .ok (none, u.sawKsr (s.kvMaster g.warp) k [n]))) ∧
  (∀ v w, fwPinned (fwPin w v) = v ∧ ∀ i, i < 64 → i ≠ 47 → (fwPin w v).getLsbD i = w.getLsbD i) ∧
  (∀ (s : State) g a n, (s.ctx g.ctx).steps.find? (fun r => r.warp = g.warp) = none →
    (a % 8 ≠ 0 → s.kvstep g a n = .error (bad .misaligned)) ∧
    (a % 8 = 0 → 4096 < n → s.kvstep g a n = .error (bad .kvFormat)) ∧
    ∀ v : Nat → Nat, a % 8 = 0 → n ≤ 4096 → (∀ i, i < n → s.ldby8 g.warp (a + 8 * i) = .ok (v i)) →
      s.stepList g a n = .ok ((List.range n).map v, ((List.range n).map (fun i => a + 8 * i)).foldl
        (fun x va => x.sawRead ⟨s.coreOf g.warp, g.ctx, !s.privOf g.warp, 0⟩ va 8) s)) ∧
  (∀ (s : State) g a n list x, s.stepList g a n = .ok (list, x) →
    (x.stepWaits g.warp = true → s.kvstep g a n = .ok (some .clipper, x.stepQueue g list)) ∧
    (x.stepWaits g.warp = false → x.stepPeer (x.kvMaster g.warp) ((x.ctx g.ctx).sweepList ++ list) = none → ∃ u, s.kvstep g a n = .ok (none, u) ∧ (u.ctx g.ctx).kvstep = (s.ctx g.ctx).kvstep + 1 ∧
        (u.ctx g.ctx).stepped = true ∧ (u.ctx g.ctx).sweepList = list)) ∧
  (∀ (s : State) g a n list, (s.ctx g.ctx).steps.find? (fun r => r.warp = g.warp) = none → (s.stepQueue g list).stepList g a n = .ok (list, s.stepQueue g list)) ∧
  (∀ (k : Ksr) n, (k.window ≠ 0 → 0 < n → k.firstAt n = max k.first (max k.sinks ((n - 1) / 64 + 1 - k.window))) ∧
    (k.window = 0 ∨ n = 0 → k.firstAt n = k.first)) ∧
  (∀ sh m, decayed sh m ≤ m ∧ decayed sh m = m - m / 2 ^ sh)

/-- What the operations that succeed write to the session's records, field by field. KVCOMMIT adds n to length, and with a window that
moves first_live_page stores that; where nothing is released or summarised no other byte changes. KVROLL sets tentative_length to
length; where no page holds tentative tokens alone and none is marked EVICTED no other byte changes. KVCLOSE of a page stores its
summary: the centre, the radius, VALID, and zeros. KVAPP within one page that has its own BF16 frame in tier 0 writes the tokens'
K and V rows in their places and adds n to tentative_length; a page that is entered gets version 0, valid, BF16, tier 0, its new
frame, mass 0, and of its flags RETAINED alone; EVICTED is one bit of the flags (R162, R153, R152, R147, R149). -/
def Sys2Proof.KvFieldsRules : Prop :=
  (∀ (s u : State) g a n k t, s.readKsr (s.kvMaster g.warp) a = .ok k → s.kvcommit g a n = .ok (none, u) → k.flags / 2 % 2 = 0 →
    k.firstAt (k.length + n) = k.first → s.unitAt (s.kvMaster g.warp) (a + 0x14) .write = .ok t →
    leNat (u.rdN t.pa 4) = k.length + n ∧ ∀ b, b < t.pa ∨ t.pa + 4 ≤ b → u.rd b = s.rd b) ∧
  (∀ (s u v : State) g a n k t, s.readKsr (s.kvMaster g.warp) a = .ok k → s.kvcommit g a n = .ok (none, u) → k.flags / 2 % 2 = 0 →
    k.firstAt (k.length + n) ≠ k.first →
    (∀ pg, k.first ≤ pg → pg < k.firstAt (k.length + n) → pg < k.pages → k.isSink pg = true) →
    (s.sawKsr (s.kvMaster g.warp) k []).putField (s.kvMaster g.warp) (some (s.coreOf g.warp)) (a + 0x14) (k.length + n) = .ok v →
    v.unitAt (s.kvMaster g.warp) (a + 0x24) .write = .ok t →
    leNat (u.rdN t.pa 4) = k.firstAt (k.length + n) ∧ ∀ b, b < t.pa ∨ t.pa + 4 ≤ b → u.rd b = v.rd b) ∧
  (∀ (s u v : State) g a k t, s.readKsr (s.kvMaster g.warp) a = .ok k → s.kvroll g a = .ok (none, u) →
    (k.tent - 1) / 64 ≤ (k.length - 1) / 64 → (k.length = 0 → k.tent = 0) →
    (s.sawKsr (s.kvMaster g.warp) k (List.range k.pages)).putField (s.kvMaster g.warp) (some (s.coreOf g.warp)) (a + 0x18) k.length = .ok v →
    (∀ pg, pg < k.pages → ∃ p, v.readPte (s.kvMaster g.warp) (k.pteVa pg) = .ok p ∧ p.evicted = false) →
    (s.sawKsr (s.kvMaster g.warp) k (List.range k.pages)).unitAt (s.kvMaster g.warp) (a + 0x18) .write = .ok t →
    leNat (u.rdN t.pa 4) = k.length ∧ ∀ b, b < t.pa ∨ t.pa + 4 ≤ b →
      u.rd b = (s.sawKsr (s.kvMaster g.warp) k (List.range k.pages)).rd b) ∧
  (∀ (s u : State) m core k pg p d t, s.kvPage m k pg = .ok p → s.loadPage m k p = .ok d → (summaryOf d).2.2 = false →
    s.summarise m core k pg = .ok (none, u) → s.readKsr m k.addr = .ok k →
    s.unitAt m (k.summVa pg) .write = .ok t → t.pa % 4096 + 2 * k.dim + 64 ≤ 4096 →
    (∀ j, j < k.dim → leNat (u.rdN (t.pa + 2 * j) 2) = enc fBf16 (.rm .rne) false ((summaryOf d).1.getD j zeroX) % 2 ^ 16) ∧
    leNat (u.rdN (t.pa + 2 * k.dim) 4) = (rne (summaryOf d).2.1).toNat ∧ leNat (u.rdN (t.pa + 2 * k.dim + 4) 4) = 1 ∧
    (∀ j, j < 56 → u.rd (t.pa + 2 * k.dim + 8 + j) = 0) ∧
    ∀ b, b < t.pa ∨ t.pa + 2 * k.dim + 64 ≤ b → u.rd b = s.rd b) ∧
  (∀ (s u v : State) g a off n k p t, s.readKsr (s.kvMaster g.warp) a = .ok k → s.kvapp g a off n = .ok (none, u) → k.window = 0 →
    (k.tent + n - 1) / 64 = k.tent / 64 → s.readPte (s.kvMaster g.warp) (k.pteVa (k.tent / 64)) = .ok p → fwValid p.cur = true →
    s.needsRun p = false → s.dir.on = false → (∀ x ∈ s.poolQ, x.who.ofWarp g.warp = false) →
    (s.sawKsr (s.kvMaster g.warp) k [k.tent / 64]).frameWrite g.ctx (byPage (
      cutPages (n * (2 * k.dim) / 4096 + 2) (framePa 0 (fwFrame p.cur) + k.tent % 64 * (2 * k.dim)) (s.scratchBytes g.crewK off (n * (2 * k.dim))) ++
      cutPages (n * (2 * k.dim) / 4096 + 2) (framePa 0 (fwFrame p.cur) + k.tent % 64 * (2 * k.dim) + 64 * (2 * k.dim))
        (s.scratchBytes g.crewK (off + n * (2 * k.dim)) (n * (2 * k.dim))))) = .ok v →
    v.unitAt (s.kvMaster g.warp) (a + 0x18) .write = .ok t →
    (∀ i j, i < n → j < 2 * k.dim →
      v.rd (framePa 0 (fwFrame p.cur) + (k.tent % 64 + i) * (2 * k.dim) + j) = sget (s.crew g.crewK).scratch (off + i * (2 * k.dim) + j) ∧
      v.rd (framePa 0 (fwFrame p.cur) + (64 + k.tent % 64 + i) * (2 * k.dim) + j) =
        sget (s.crew g.crewK).scratch (off + (n + i) * (2 * k.dim) + j)) ∧
    leNat (u.rdN t.pa 4) = k.tent + n ∧ ∀ b, b < t.pa ∨ t.pa + 4 ≤ b → u.rd b = v.rd b) ∧
  (∀ (s : State) ctx dim p f, fwValid p.cur = false → f < 2 ^ 40 → ∃ q, s.appendFrame ctx dim p (some f) = .ok (s, q) ∧
    fwVersion q.cur = 0 ∧ fwValid q.cur = true ∧ fwShared q.cur = false ∧ fwPinned q.cur = false ∧ fwFormat q.cur = 0 ∧ fwTier q.cur = 0 ∧
    fwFrame q.cur = f ∧ q.mass = 0 ∧ q.next = p.next ∧ q.readers = p.readers ∧ ∀ i, i < 16 → q.flags.getLsbD i = (i == 1 && p.flags.getLsbD 1)) ∧
  (∀ (p : Pte) v, (p.flag 3 v).evicted = v ∧ (∀ i, i < 16 → i ≠ 3 → (p.flag 3 v).flags.getLsbD i = p.flags.getLsbD i) ∧
    (p.flag 3 v).cur = p.cur ∧ (p.flag 3 v).next = p.next ∧ (p.flag 3 v).mass = p.mass ∧ (p.flag 3 v).readers = p.readers)

/-- The key-value instructions, the operations behind them, and what they write (16.6, 08).
In the clauses that logs 29, 30, 32, 73, 77, 78, 88, 89, 91 name it states the model's reading. -/
def Obligations.KeyValuePages : Prop := KvInstructionsRules ∧ KvOperationsRules ∧ KvFieldsRules

/-! Group 7: barriers, events, tasks, the ballot, launches, sleep, counters (17.2 to 17.5, 09.2, 09.3). -/

/-- The release in front of the instruction is complete now, in one step. -/
def Sys2Proof.RelNow (sc : Scope) : State → Cur → Prop :=
  fun s g => ((s.warp g.warp).slice g.gang.slice).relDone = false ∧ s.relReady g.warp sc = true
/-- The release in front of the instruction has to wait. -/
def Sys2Proof.RelWaits (sc : Scope) : State → Cur → Prop :=
  fun s g => ((s.warp g.warp).slice g.gang.slice).relDone = false ∧ s.relReady g.warp sc = false
/-- Slices of a warp that all wait, in one gang, in the same wait. -/
def Sys2Proof.AllWait (s : State) (k : WarpKey) (x : Wait) : Prop :=
  ∀ i, i < 8 → ((s.warp k).slice i).gang = 0 ∧ ((s.warp k).slice i).exited = false ∧ ((s.warp k).slice i).wait = x

/-- A crew barrier is complete: somebody has arrived, every warp of the crew has exited or arrived, and what precedes the arrivals has
been performed (R343, R344, R110). -/
def Sys2Proof.CrewBarDone (s : State) (k : CrewKey) (b : Barrier) : Prop :=
  b.arrived ≠ [] ∧ (∀ w ∈ s.warpsOf k, (s.warp w).exited = true ∨ w ∈ b.arrived) ∧
    ∀ w ∈ b.arrived, s.writesOut w = false ∧ s.loadsOut w = false
/-- A group barrier is complete: it is a BARRIER group's, somebody has arrived, every warp of its member crews that has not exited has,
and the device-scope release of each arrival is complete (R343, R344). -/
def Sys2Proof.GroupBarDone (s : State) (c l : Nat) (y : Group) : Prop :=
  y.sibling = false ∧ y.bar.arrived ≠ [] ∧
    (∀ m ∈ y.members, ∀ w ∈ s.warpsOf ⟨c, l, m⟩, (aget s.warps w).isSome = true → (s.warp w).exited = false → w ∈ y.bar.arrived) ∧
    ∀ w ∈ y.bar.arrived, s.relReady w .device = true ∧ s.loadsOut w = false
/-- The slices of a warp that waited in x go on behind the instruction. -/
def Sys2Proof.WentOn (s t : State) (w : WarpKey) (len : Nat) : Prop :=
  ∀ i, i < 8 → ((t.warp w).slice i).wait = .none ∧ ((t.warp w).slice i).pc = ((s.warp w).slice i).pc + BitVec.ofNat 64 len

/-- CBAR and GBAR: the warp arrives at the barrier, once, and the gang waits there; the barrier of a slot that is not a
BARRIER group's is GROUP_SLOT, and each is a cancellation point. A barrier at which a participant has not arrived stays as it is. When
every participant has arrived, its generation advances, nobody has arrived at the next, and the warps that waited there go on
behind their CBAR or GBAR (R343, R344, R181).
In the clauses that log 19 names it states the model's reading. -/
def Obligations.Barriers : Prop :=
  (∀ f : Cbar, Completes (.cbar f) (fun s g => Some1 f.h s g ∧ (s.warp g.warp).pending = false)
    fun s t g => ∃ b, t = (s.modCrew g.crewK (fun c => { c with bars := c.bars.set f.n.toNat b })).waitIn g (.cbar f.n.toNat g.len) ∧
      g.warp ∈ b.arrived ∧ b.gen = ((s.crew g.crewK).bars.getD f.n.toNat ⟨0, []⟩).gen ∧
      ∀ k, k ∈ b.arrived ↔ k = g.warp ∨ k ∈ ((s.crew g.crewK).bars.getD f.n.toNat ⟨0, []⟩).arrived) ∧
  (∀ (f : Gbar) i, Completes (.gbar f) (fun s g => Some1 f.h s g ∧ (s.warp g.warp).pending = false ∧
      s.groupOf g.crewK f.g.toNat false = some i)
    fun s t g => (∀ y, (s.launch g.ctx g.crewK.launch).groups[i]? = some y →
        ∃ z, (t.launch g.ctx g.crewK.launch).groups[i]? = some z ∧ g.warp ∈ z.bar.arrived ∧ z.bar.gen = y.bar.gen ∧ z.members = y.members) ∧
      (∀ j, g.slices.getLsbD j = true → ∀ x, (t.warp g.warp).slices[j]? = some x → x.wait = .gbar i g.len) ∧
      SameRegs s t g ∧ t.mem = s.mem ∧ ∀ k, k ≠ g.warp → t.warp k = s.warp k) ∧
  (∀ f : Gbar, Completes (.gbar f) (fun s g => Some1 f.h s g ∧ (s.warp g.warp).pending = false ∧
      s.groupOf g.crewK f.g.toNat false = none)
    fun s t g => Excepted s t g { code := .groupSlot, lanes := s.taking g f.h }) ∧
  (∀ f : Cbar, Completes (.cbar f) (fun s g => Some1 f.h s g ∧ (s.warp g.warp).pending = true) fun s t g => t = s.cancelWarp g.warp) ∧
  (∀ f : Gbar, Completes (.gbar f) (fun s g => Some1 f.h s g ∧ (s.warp g.warp).pending = true) fun s t g => t = s.cancelWarp g.warp) ∧
  (∀ (s : State) k, (∀ n, n < 8 → ¬ CrewBarDone s k ((s.crew k).bars.getD n ⟨0, []⟩)) → s.crewBars k = s) ∧
  (∀ (s : State) k n, (s.crew k).bars.length = 8 → n < 8 → CrewBarDone s k ((s.crew k).bars.getD n ⟨0, []⟩) →
    (∀ m, m < 8 → m ≠ n → ¬ CrewBarDone s k ((s.crew k).bars.getD m ⟨0, []⟩)) →
    (∀ m, ((s.crewBars k).crew k).bars.getD m ⟨0, []⟩ = if m = n then ⟨((s.crew k).bars.getD n ⟨0, []⟩).gen + 1, []⟩
      else (s.crew k).bars.getD m ⟨0, []⟩) ∧
    ∀ w len, w ∈ ((s.crew k).bars.getD n ⟨0, []⟩).arrived → (aget s.warps w).isSome = true → AllWait s w (.cbar n len) →
      WentOn s (s.crewBars k) w len) ∧
  (∀ (s : State) c l, (∀ y ∈ (s.launch c l).groups, ¬ GroupBarDone s c l y) → s.groupBars c l = s) ∧
  (∀ (s : State) c l n y, (aget s.launches (c, l)).isSome = true → (s.launch c l).groups[n]? = some y → GroupBarDone s c l y →
    (∀ m z, m ≠ n → (s.launch c l).groups[m]? = some z → ¬ GroupBarDone s c l z) →
    (∀ m : Nat, ((s.groupBars c l).launch c l).groups[m]? = if m = n then some { y with bar := ⟨y.bar.gen + 1, []⟩ }
      else (s.launch c l).groups[m]?) ∧
    ∀ w len, w ∈ y.bar.arrived → (aget s.warps w).isSome = true → AllWait s w (.gbar n len) → WentOn s (s.groupBars c l) w len)

/-- EVADD and EVSET send the update of the event to its home once their device-scope release is complete, and the gang
goes on (R346). -/
def Sys2Proof.EventSends (i : Instr) (h : Hdr) (nm : EvName) (set_ : Bool) (v : Warp → Nat → Word) : Prop :=
  (∀ l ls, Completes i (fun s g => s.taking g h = l :: ls ∧ s.noEvents g.ctx = false ∧ RelNow .device s g)
    fun s t g => GoesOn ((s.relDo g.warp .device).send g.ctx (s.coreOf g.warp) (s.coreOf g.warp) (some g.warp)
      (.event (eventName (s.warp g.warp) l nm) set_ (v (s.warp g.warp) l))) t g) ∧
  Completes i (fun s g => Some1 h s g ∧ s.noEvents g.ctx = false ∧ RelWaits .device s g)
    (fun s t g => t = s.waitIn g (.release .device true)) ∧
  Completes i (fun s g => Some1 h s g ∧ s.noEvents g.ctx = true)
    fun s t g => Excepted s t g { code := .eventArea, lanes := s.taking g h }
/-- The event instructions: updates set out, EVWAIT sets out and its gang waits, EVTEST reads the event at its place,
TASKPUT attaches or readies a task, TASKPOP takes one payload for each lane (R342, R346 to R350, R175). -/
def Sys2Proof.EventInstructionsRules : Prop :=
  (∀ f : Ev, EventSends (.evadd f) f.h f.nm false fun w l => w.rg f.b.toNat l) ∧
  (∀ f : EvI, EventSends (.evadd96i f) f.h f.nm false fun _ _ => f.imm) ∧
  (∀ f : Ev, EventSends (.evset f) f.h f.nm true fun w l => w.rg f.b.toNat l) ∧
  (∀ f : EvI, EventSends (.evset96i f) f.h f.nm true fun _ _ => f.imm) ∧
  (∀ (f : Evwait) l ls, Completes (.evwait f) (fun s g => s.taking g f.h = l :: ls ∧ (s.warp g.warp).pending = false ∧ s.noEvents g.ctx = false)
    fun s t g => t = (s.send g.ctx (s.coreOf g.warp) (s.coreOf g.warp) (some g.warp)
      (.evwait (eventName (s.warp g.warp) l f.nm) f.eq g.gang.slice ((s.warp g.warp).slice g.gang.slice).evSeq)).waitIn g (.event f.eq (eventName (s.warp g.warp) l f.nm) g.len)) ∧
  (∀ (f : Evtest) l ls v, Completes (.evtest f) (fun s g => s.taking g f.h = l :: ls ∧ s.noEvents g.ctx = false ∧
      s.evSent g.warp (eventName (s.warp g.warp) l f.nm) = false ∧ s.evRead g.ctx (eventName (s.warp g.warp) l f.nm) = .ok v)
    fun s t g => Quiet (s.evSeen g.ctx (eventName (s.warp g.warp) l f.nm)) t g (onward g) ∧ GotWord s t g f.h f.d fun _ _ =>
      if (if f.eq then v.count = 0 else v.count.toInt ≤ 0) then 1 else 0) ∧
  (∀ (f : Evtest) l ls, Completes (.evtest f) (fun s g => s.taking g f.h = l :: ls ∧ s.noEvents g.ctx = false ∧
      s.evSent g.warp (eventName (s.warp g.warp) l f.nm) = true)
    fun s t g => Waits s t g (.event (eventName (s.warp g.warp) l f.nm)) false) ∧
  (∀ (f : Taskput) l ls v u, Completes (.taskput f) (fun s g => s.taking g f.h = l :: ls ∧ s.noEvents g.ctx = false ∧
      RelNow .device s g ∧ (s.ctx g.ctx).desc.taskArea ≠ 0 ∧ s.evSent g.warp (eventName (s.warp g.warp) l f.nm) = false ∧
      (s.relDo g.warp .device).evRead g.ctx (eventName (s.warp g.warp) l f.nm) = .ok v ∧ v.task.getLsbD 63 = false ∧
      ((s.relDo g.warp .device).evSeen g.ctx (eventName (s.warp g.warp) l f.nm)).taskPut g.ctx (eventName (s.warp g.warp) l f.nm)
        f.cls.toNat ((s.warp g.warp).pair f.b l) = .ok u)
    fun _ t g => GoesOn u t g) ∧
  (∀ (f : Taskput) l ls v, Completes (.taskput f) (fun s g => s.taking g f.h = l :: ls ∧ s.noEvents g.ctx = false ∧
      RelNow .device s g ∧ (s.ctx g.ctx).desc.taskArea ≠ 0 ∧ s.evSent g.warp (eventName (s.warp g.warp) l f.nm) = false ∧
      (s.relDo g.warp .device).evRead g.ctx (eventName (s.warp g.warp) l f.nm) = .ok v ∧ v.task.getLsbD 63 = true)
    fun s t g => Excepted (s.relDo g.warp .device) t g { code := .eventArea, lanes := s.taking g f.h }) ∧
  (∀ (f : Taskpop) ws u, Completes (.taskpop f) (fun s g => Some1 f.h s g ∧ s.noEvents g.ctx = false ∧
      (s.ctx g.ctx).desc.taskArea ≠ 0 ∧ s.taskTakes g.ctx f.cls.toNat f.d.toNat (s.taking g f.h) = .ok (ws, u))
    fun _ t g => Leaves u t g [f.d.toNat, f.d.toNat + 1] ws []) ∧
  (∀ (f : Taskpop), Completes (.taskpop f) (fun s g => Some1 f.h s g ∧ s.noEvents g.ctx = false ∧ (s.ctx g.ctx).desc.taskArea = 0)
    fun s t g => Excepted s t g { code := .eventArea, lanes := s.taking g f.h }) ∧
  (∀ (s : State) ctx cls d ls, (s.taskQ ctx cls).count = 0 → s.taskTakes ctx cls d ls =
    .ok (ls.flatMap (fun l => [(d, l, 0), (d + 1, l, 0x80000000)]), s)) ∧
  (∀ (s : State) ctx n cls p v, s.evRead ctx n = .ok v → v.task.getLsbD 63 = true → s.taskPut ctx n cls p = .error (bad .eventArea))

/-- What an update does to an event (R172): the sum modulo 2^32 or the value; a count of 0 advances zseq, a count of 0 or
less lseq; TASK is not touched. An update that arrives does so to the event's place, its hardware entry or its word in the event
area; a task whose event then counts 0 or less enters its class's queue and leaves its event, or stays there until the full queue has
room (R175, R127); and EVWAITs are tested where they
arrive and again: one whose condition holds, or whose recorded sequence number has moved, goes on (R173, R174). -/
def Sys2Proof.EventUpdatesRules : Prop :=
  (∀ (v : EvVal) x, (v.update true x).count = x ∧ (v.update false x).count = v.count + x) ∧
  (∀ (v : EvVal) a x, (v.update a x).task = v.task ∧
    (v.update a x).zseq = (if (v.update a x).count = 0 then v.zseq + 1 else v.zseq) ∧
    (v.update a x).lseq = (if (v.update a x).count.toInt ≤ 0 then v.lseq + 1 else v.lseq)) ∧
  (∀ (s : State) m n a x u, s.msg? m.id = some m → m.k = .event n a x → (∀ w, m.warp = some w → s.evBefore w n m.id = false) →
    s.noEvents m.ctx = false → ((s.dropMsg m.id).evSeen m.ctx n).evUpdate m.ctx n a x = .ok u →
    exec (.eventUpdate m.id) s = .next (u.answered (.msg m.id))) ∧
  (∀ (s : State) ctx n a x v w t, s.evEntry ctx n = none → (∀ o ∈ s.evOver, ¬ (o.ctx = ctx ∧ o.name = n)) → s.evRead ctx n = .ok v →
    v.task.getLsbD 63 = false → s.unitStore (evUnit ctx n) none (s.evVa ctx n) (v.update a x).bytes = .ok (w, t) →
    s.evUpdate ctx n a x = .ok t) ∧
  (∀ (s : State) ctx n v, 0 < v.count.toInt ∨ v.task.getLsbD 63 = false → s.taskReady ctx n v = .ok (v, s)) ∧
  (∀ (s : State) ctx n v q, s.taskQ ctx v.taskClass = q → v.task.getLsbD 63 = true → v.count.toInt ≤ 0 →
    (∀ w t, q.count < 4096 → s.unitStore ⟨128, ctx, false, 1⟩ none (s.taskVa ctx v.taskClass (q.head + q.count)) (nbytes 8 (v.task.toNat % 2 ^ 59)) =
        .ok (w, t) →
      s.taskReady ctx n v = .ok ({ v with task := v.task &&& 0x7FFFFFFFFFFFFFFF#64 }, t.setTaskQ ctx v.taskClass { q with count := q.count + 1 })) ∧
    (4096 ≤ q.count → (s.ctx ctx).tasks.length = 16 → ∃ u, s.taskReady ctx n v = .ok (v, u) ∧ u.mem = s.mem ∧
      (u.taskQ ctx v.taskClass).count = q.count ∧ n ∈ (u.taskQ ctx v.taskClass).late ∧ ∀ y ∈ q.late, y ∈ (u.taskQ ctx v.taskClass).late)) ∧
  (∀ (s : State) ctx n a x e, s.evEntry ctx n = some e → (∀ y ∈ s.evEntries, y.ctx = ctx → y.name = n → y = e) →
    e.task.getLsbD 63 = false → (∃ w ∈ e.waiters, (EvVal.update ⟨e.count, e.zseq, e.lseq, e.task⟩ a x).holds w.eq = false) →
    ∃ u y, s.evUpdate ctx n a x = .ok u ∧ u.evEntry ctx n = some y ∧
      y.count = (EvVal.update ⟨e.count, e.zseq, e.lseq, e.task⟩ a x).count ∧ u.mem = s.mem ∧
      ∀ w ∈ y.waiters, (EvVal.update ⟨e.count, e.zseq, e.lseq, e.task⟩ a x).holds w.eq = false) ∧
  (∀ (s : State) m k n eq i seq v, s.msg? m.id = some m → m.k = .evwait n eq i seq → m.warp = some k → s.evBefore k n m.id = false →
    (s.dropMsg m.id).evRead m.ctx n = .ok v →
    let u := ((s.dropMsg m.id).answered (.msg m.id)).evSeen m.ctx n
    (v.holds eq = true → exec (.eventWaitArrival m.id) s = .next (u.evGo ⟨k, i⟩)) ∧
    (v.holds eq = false → seq = none → (u.evEntry m.ctx n).isNone = true →
      (u.evEntries.filter (fun e => e.name % 4 = n % 4)).length < 1024 →
      ∃ t, exec (.eventWaitArrival m.id) s = .next t ∧ t.warps = s.warps ∧ t.mem = u.mem ∧ t.evEntries =
        u.evEntries ++ [⟨m.ctx, n, v.count, v.zseq, v.lseq, v.task, [⟨m.id, ⟨k, i⟩, eq, v.zseq.toNat, v.lseq.toNat⟩]⟩]) ∧
    (∀ z y, seq = some (z, y) → v.holds eq = false → (if eq then v.zseq.toNat ≠ z else v.lseq.toNat ≠ y) →
      exec (.eventWaitArrival m.id) s = .next (u.evGo ⟨k, i⟩)) ∧
    (∀ z y, seq = some (z, y) → v.holds eq = false → (if eq then v.zseq.toNat = z else v.lseq.toNat = y) →
      exec (.eventWaitArrival m.id) s = .next { u with evOver := u.evOver ++ [⟨m.ctx, n, ⟨m.id, ⟨k, i⟩, eq, z, y⟩⟩] })) ∧
  (∀ (s : State) o v, s.evOver.find? (fun x => x.w.id = o.w.id) = some o → s.evRead o.ctx o.name = .ok v →
    exec (.eventReread o.w.id) s = .next (if v.holds o.w.eq = true ∨ (if o.w.eq then v.zseq.toNat ≠ o.w.zseq else v.lseq.toNat ≠ o.w.lseq)
      then ((({ s with evOver := s.evOver.filter (fun x => x.w.id ≠ o.w.id) } : State).answered (.over o.w.id)).evSeen o.ctx o.name).evGo o.w.gang
      else (s.answered (.over o.w.id)).evSeen o.ctx o.name)) ∧
  (∀ (s : State) k i eq n len, ((s.warp k).slice i).wait = .event eq n len → i < (s.warp k).slices.length →
    ((s.warp k).gangOf i).getLsbD i = true →
    (((s.evGo ⟨k, i⟩).warp k).slice i).wait = .none ∧
      (((s.evGo ⟨k, i⟩).warp k).slice i).pc = ((s.warp k).slice i).pc + BitVec.ofNat 64 len)

/-- Events: the instructions, and the updates as they reach the event tables (17.3, 09.2).
In the clauses that logs 33, 40, 41 name it states the model's reading. -/
def Obligations.Events : Prop := EventInstructionsRules ∧ EventUpdatesRules

/-- SIBPOST sends the member's post to the Teller and leaves D pending until its status is there (R351). -/
def Sys2Proof.Posts (i : Instr) (h : Hdr) (slot : Nat) (d a : Reg) (n : Nat) (off : Warp → Nat → Nat) : Prop :=
  ∀ l ls tt x m hs, Completes i (fun s g => s.taking g h = l :: ls ∧ s.ballot g.crewK slot = some (tt, x, m) ∧
      (s.warp g.warp).pending = false ∧ (n = 0 ∨ (off (s.warp g.warp) l % 8 = 0 ∧ off (s.warp g.warp) l + 8 * n ≤ s.scratchSize g.crewK)) ∧
      hs = (List.range n).map (fun j => le64 (s.scratchBytes g.crewK (off (s.warp g.warp) l) (8 * n)) (8 * j)) ∧ (∀ v ∈ hs, v % 64 = 0) ∧
      (n = 0 ∨ s.scratchBad g.crewK (off (s.warp g.warp) l) (8 * n) = false) ∧
      (x.members.getD m { crew := 0 }).st = .running ∧ s.posting tt m = false ∧
      (x.members.getD m { crew := 0 }).holds.length + n ≤ 256 ∧ x.members.foldl (fun c y => c + y.holds.length) (s.holdsOut tt) + n ≤ 4096)
    fun s t g => Sends s t g ∧ ∃ p, Newest s t g p ∧ p.left = 1 ∧ p.regs = [d.toNat] ∧
      (t.msgs.drop s.msgs.length).map (·.k) = [.post tt m ((s.warp g.warp).pair a l) hs p.id (l :: ls) d.toNat]
/-- The sibling ballot: SIBPOST posts, SIBQRY reads the Teller's or a member's state into four registers, SIBCANCEL sets
PENDING of the members it names; TELLER_POST applies a post: the first eight hashes have slots that count their posts,
the others count together, and the quorum decides; HOLDING_RELEASE releases one holding of a loser (R177 to R182, R351
to R353).
In the clauses that logs 50, 51, 52 name it states the model's reading. -/
def Obligations.Ballot : Prop :=
  (∀ f : Sibpost, Posts (.sibpost f) f.h f.g.toNat f.d f.a 0 fun _ _ => 0) ∧
  (∀ f : SibpostC, Posts (.sibpost96c f) f.h f.g.toNat f.d f.a f.n.toNat fun w l => (w.rg f.c.toNat l).toNat) ∧
  (∀ (f : Sibqry) l ls e tt me, Completes (.sibqry f) (fun s g => s.taking g f.h = l :: ls ∧ s.ballot g.crewK f.g.toNat = some (e, tt, me) ∧
      s.posting e me = false ∧ (f.member = true → ((s.warp g.warp).rg f.b.toNat l).toNat < tt.members.length))
    fun s t g => Quiet s t g (onward g) ∧ ∀ r k, k < 32 → (t.warp g.warp).rg r k =
      if f.d.toNat ≤ r ∧ r < f.d.toNat + 4 ∧ k ∈ l :: ls then
        (if f.member then s.memberWords tt (tt.members.getD ((s.warp g.warp).rg f.b.toNat l).toNat { crew := 0 }) else tt.groupWords).getD (r - f.d.toNat) 0
      else (s.warp g.warp).rg r k) ∧
  (∀ (f : Sibcancel) e tt me, f.self = true → Completes (.sibcancel f) (fun s g => Some1 f.h s g ∧ me < tt.members.length ∧
      s.ballot g.crewK f.g.toNat = some (e, tt, me) ∧ s.posting e me = false)
    fun s t g => GoesOn ((s.taking g f.h).foldl (fun s _ => s.cancelMember e me) s) t g) ∧
  (∀ (f : Sibcancel) e tt me, f.self = false → Completes (.sibcancel f) (fun s g => Some1 f.h s g ∧
      s.ballot g.crewK f.g.toNat = some (e, tt, me) ∧ s.posting e me = false ∧
      ∀ l ∈ s.taking g f.h, ((s.warp g.warp).rg f.b.toNat l).toNat < tt.members.length)
    fun s t g => GoesOn ((s.taking g f.h).foldl (fun u l => u.cancelMember e ((s.warp g.warp).rg f.b.toNat l).toNat) s) t g) ∧
  (∀ (f : Sibqry) e tt me, Completes (.sibqry f) (fun s g => Some1 f.h s g ∧ s.ballot g.crewK f.g.toNat = some (e, tt, me) ∧
      s.posting e me = true) fun s t g => Waits s t g (.post e me) false) ∧
  (∀ (f : Sibcancel) e tt me, Completes (.sibcancel f) (fun s g => Some1 f.h s g ∧ s.ballot g.crewK f.g.toNat = some (e, tt, me) ∧
      s.posting e me = true) fun s t g => Waits s t g (.post e me) true) ∧
  (∀ f : Sibcancel, Completes (.sibcancel f) (fun s g => Some1 f.h s g ∧ s.ballot g.crewK f.g.toNat = none)
    fun s t g => Excepted s t g { code := .groupSlot, lanes := s.taking g f.h }) ∧
  (∀ (s : State) m a b h hs p ls r, s.msg? m.id = some m → m.k = .post a b h hs p ls r →
    exec (.tellerPost m.id) s = .next (s.postLands m.id m.k)) ∧
  (∀ (tt : Teller) m h, tt.decided = false →
    (∀ i c, tt.slots.findIdx? (fun x => x.1 = h) = some i → tt.slots[i]? = some (h, c) →
      (tt.post m h).1.slots = tt.slots.set i (h, c + 1) ∧ (tt.post m h).1.other = tt.other ∧
      (tt.post m h).2 = (c + 1, decide (c + 1 = tt.q), true)) ∧
    (tt.slots.findIdx? (fun x => x.1 = h) = none → tt.slots.length < 8 →
      (tt.post m h).1.slots = tt.slots ++ [(h, 1)] ∧ (tt.post m h).2 = (1, decide (tt.q = 1), true)) ∧
    (tt.slots.findIdx? (fun x => x.1 = h) = none → 8 ≤ tt.slots.length →
      (tt.post m h).1.slots = tt.slots ∧ (tt.post m h).1.other = tt.other + 1 ∧ (tt.post m h).2 = (0, false, false))) ∧
  (∀ (s : State) e i tt va r u, aget s.teller e = some tt → (tt.members.getD i { crew := 0 }).holds = va :: r → tt.decided = true →
    tt.outcome ≠ .none → tt.winner ≠ some i → (tt.members.getD i { crew := 0 }).over = true →
    s.drained ⟨tt.ctx, tt.launch, (tt.members.getD i { crew := 0 }).crew⟩ = true → (∃ y ∈ tt.members, y.st ≠ .retired) →
    s.releasePage (unitOf tt.ctx tt.user va) none false 64 va = .ok (none, u) →
    ∃ t x, exec (.holdingRelease e i) s = .next t ∧ aget t.teller e = some x ∧ x.pages = tt.pages + 1 ∧ t.mem = u.mem ∧
      (i < tt.members.length → (x.members.getD i { crew := 0 }).holds = r))

/-- The packets of some lanes are enqueued one after the other: what each lane gets, its code and its launch id, and the state after
(R354). -/
def Sys2Proof.launchAll (ctx : Nat) (sup : Bool) (st : Nat → Nat) : List (Nat × List Byte) → State → List (Nat × Nat × Nat) × State
  | [], s => ([], s)
  | x :: xs, s =>
    let e := s.enqueue ctx (packetOf x.2) true sup (fun _ => .store (st x.1))
    let r := launchAll ctx sup st xs e.2.2
    ((x.1, e.1, e.2.1) :: r.1, r.2)
/-- LAUNCH reads a packet for each taking-part lane, enqueues them in ascending lane order and leaves the code and the launch id of each
in its pair D (R354, R128 to R130); SLEEP
waits for its deadline, 0 ticks not at all, and SLEEP_WAKE ends the wait when device time is there (R355); PERF reads a
count (R356).
In the clauses that log 60 names it states the model's reading. -/
def Obligations.LaunchSleepPerf : Prop :=
  (∀ (f : DAB) (bs : List (Nat × List Byte)), Completes (.launch f) (fun s g => Some1 f.h s g ∧ bs.map (·.1) = s.taking g f.h ∧
      RelNow .device s g ∧ Ordered s g ∧ ∀ x ∈ bs, ((s.warp g.warp).pair f.a x.1).toNat % 64 = 0 ∧ ((s.warp g.warp).pair f.b x.1).toNat % 4 = 0 ∧
        (s.relDo g.warp .device).recordRead g.warp ((s.warp g.warp).pair f.a x.1).toNat 64 = .ok x.2)
    fun s t g =>
      let r := launchAll g.ctx (s.privOf g.warp) (fun l => ((s.warp g.warp).pair f.b l).toNat) bs
        ((s.relDo g.warp .device).sawRecords g.warp ((s.taking g f.h).map (fun l => ((s.warp g.warp).pair f.a l).toNat)))
      Quiet r.2 t g (onward g) ∧ GotPair s t g f.h f.d (fun _ l =>
        let y := (r.1.find? (fun y => y.1 = l)).getD (l, 0, 0); BitVec.ofNat 32 y.2.2 ++ BitVec.ofNat 32 y.2.1)) ∧
  (∀ (s : State) c p dev sup dst, p.refusal (s.noEvents c) sup = none →
    (s.queueOf c (2 * p.priority + dev.toNat)).length < 64 →
    ∃ u x, s.enqueue c p dev sup dst = (0, (s.ctx c).nextLaunch.toNat, u) ∧ (u.ctx c).nextLaunch = (s.ctx c).nextLaunch + 1 ∧
      u.launches = s.launches ++ [((c, (s.ctx c).nextLaunch.toNat), x)] ∧ x.packet = p ∧ x.stamp = s.time ∧ x.stage = .queued ∧
      x.queue = 2 * p.priority + dev.toNat ∧ x.status = dst (s.ctx c).nextLaunch.toNat) ∧
  (∀ (s : State) c p dev sup dst e, p.refusal (s.noEvents c) sup = some e → s.enqueue c p dev sup dst = (e, 0xFFFFFFFF, s)) ∧
  (∀ (s : State) c p dev sup dst, p.refusal (s.noEvents c) sup = none → 64 ≤ (s.queueOf c (2 * p.priority + dev.toNat)).length →
    s.enqueue c p dev sup dst = (2, 0xFFFFFFFF, s)) ∧
  (∀ (f : OnlyB) l ls, Completes (.sleep f) (fun s g => s.taking g f.h = l :: ls) fun s t g =>
    if (s.warp g.warp).rg f.b.toNat l = 0 then GoesOn s t g
    else t = s.waitIn g (.sleep (s.time + ((s.warp g.warp).rg f.b.toNat l).toNat) g.len)) ∧
  (∀ (f : NopI), Completes (.sleep96i f) (Some1 f.h) fun s t g =>
    if f.imm = 0 then GoesOn s t g else t = s.waitIn g (.sleep (s.time + f.imm.toNat) g.len)) ∧
  (∀ (s : State) (k : GangKey) d len, ((s.warp k.warp).slice k.slice).wait = .sleep d len →
    ∃ u t, u = (if d ≤ s.time then s else (s.passTicks (d - s.time)).fireDue) ∧ u.time = max s.time d ∧
      exec (.sleepWake k) s = .next t ∧ t.time = max s.time d ∧ t.mem = u.mem ∧
      ∀ i (x : Slice), (u.warp k.warp).slices[i]? = some x → ((u.warp k.warp).gangOf k.slice).getLsbD i = true →
        ∃ y : Slice, (t.warp k.warp).slices[i]? = some y ∧ y.wait = .none ∧ y.pc = x.pc + BitVec.ofNat 64 len ∧ y.mask = x.mask) ∧
  (∀ f : Perf, Completes (.perf f) Always fun s t g => Quiet s t g (onward g) ∧ GotPair s t g f.h f.d (fun _ _ =>
    BitVec.ofNat 64 (if f.dev then s.scr.prfCnt.getD (f.code.toNat % 8) 0 else (aget (s.ctx g.ctx).counts f.code.toNat).getD 0)))

/-! Group 8: system instructions (17.6, 17.7), and Uaten-2 (12.8). -/

/-- The status that a CTXOP leaves in D of every taking-part lane, with nothing else changed but what u says. -/
def Sys2Proof.Status (u t : State) (g : Cur) (h : Hdr) (d : Reg) (v : Nat) : Prop :=
  Quiet u t g (onward g) ∧ GotWord u t g h d fun _ _ => BitVec.ofNat 32 v
/-- A TLBOP has dropped its targets: the entries of the context that cover the address (a leaf of a 64 KiB page covers all of it), of
the context, or all; and with them, as a choice of the model (R238), the instruction blocks that were filled under a translation which the
tables held no longer. -/
def Sys2Proof.TlbDropped (kind : TlbKind) (a c : Nat) (s u : State) : Prop :=
  u = { s with tlb := u.tlb, icache := u.icache } ∧
  (∀ x, x ∈ u.tlb ↔ x ∈ s.tlb ∧ ¬ (kind = .all ∨ (kind = .ctx ∧ x.ctx = c) ∨ (kind = .va ∧ x.ctx = c ∧ x.covers a = true))) ∧
  ∀ x, x ∈ u.icache ↔ x ∈ s.icache ∧ ¬ (x.late = true ∧ (kind = .all ∨ ((kind = .va ∨ kind = .ctx) ∧ x.ctx = c)))

/-- SVC at privilege 0 takes TRAP with the lanes that take part, at privilege 1, or with no lane, it goes on (R357). RTE,
after a device-scope release, ends the hold of the warp that the named precise report holds: RETRY leaves it at its
instruction, NEXT moves its gang behind it, END ends the warp; a report that holds no warp changes nothing (R358, R216).
CACHEOP, behind the warp's own writes, changes caches only; TLBOP drops the entries it names, and waits for the accesses that
may have used them (R359, R360). -/
def Sys2Proof.SystemInstructionsRules : Prop :=
  (∀ f : Code8, (Instr.svc f).fields.b = f.code ∧
    Completes (.svc f) (fun s g => Some1 f.h s g ∧ s.privOf g.warp = false)
      (fun s t g => Excepted s t g { code := .trap, lanes := s.taking g f.h }) ∧
    Completes (.svc f) (fun s g => None1 f.h s g ∨ s.privOf g.warp = true) GoesOn) ∧
  (∀ (f : Rte) l ls, Completes (.rte f) (fun s g => s.taking g f.h = l :: ls ∧ RelNow .device s g ∧
      (s.relDo g.warp .device).heldOn g.ctx ((s.warp g.warp).pair f.b l).toNat = none)
    fun s t g => GoesOn (s.relDo g.warp .device) t g) ∧
  (∀ (f : Rte) l ls k h r, Completes (.rte f) (fun s g => s.taking g f.h = l :: ls ∧ RelNow .device s g ∧ r.kind = .p ∧
      (s.relDo g.warp .device).heldOn g.ctx ((s.warp g.warp).pair f.b l).toNat = some (k, h, r))
    fun s t g => GoesOn ((s.relDo g.warp .device).rteDo f.mode k h) t g) ∧
  (∀ (f : Rte), Completes (.rte f) (fun s g => Some1 f.h s g ∧ RelWaits .device s g) fun s t g => t = s.waitIn g (.release .device true)) ∧
  (∀ (s : State) k (h : Held), h.code ≠ .regangCycle → h.len ≠ 0 →
    ((s.rteDo .next k h).warp k).held = none ∧ (s.rteDo .next k h).mem = s.mem ∧
    (∀ r l, ((s.rteDo .next k h).warp k).rg r l = (s.warp k).rg r l) ∧
    ∀ i (x : Slice), (s.warp k).slices[i]? = some x → ((s.rteDo .next k h).warp k).slices[i]? =
      some (if h.slices.getLsbD i then { x with pc := x.pc + BitVec.ofNat 64 h.len, wait := .none, evSeq := none, relDone := false, tried := false }
        else x)) ∧
  (∀ (s : State) k (h : Held), (∀ i, ((s.warp k).slice i).atRegang = false) →
    ((s.rteDo .retry k h).warp k).held = none ∧ ((s.rteDo .retry k h).warp k).slices = (s.warp k).slices ∧
    (s.rteDo .retry k h).mem = s.mem ∧ ∀ r l, ((s.rteDo .retry k h).warp k).rg r l = (s.warp k).rg r l) ∧
  (∀ (f : Cacheop) l ls, Completes (.cacheop f) (fun s g => s.taking g f.h = l :: ls ∧ Ordered s g ∧ (s.warp g.warp).rg f.b.toNat l = 0)
    fun s t g => GoesOn (s.cacheDo f.kind (fun _ => true) (fun _ => true)) t g) ∧
  (∀ f : Cacheop, Completes (.cacheop f) (fun s g => Some1 f.h s g ∧ s.unapplied g.warp = true) fun s t g => Waits s t g .unapplied true) ∧
  (∀ (f : Cacheop) l ls ns, Completes (.cacheop f) (fun s g => s.taking g f.h = l :: ls ∧ Ordered s g ∧ (s.warp g.warp).rg f.b.toNat l ≠ 0 ∧
      s.cacheLines g.warp (cachePages ((s.warp g.warp).pair f.a l).toNat ((s.warp g.warp).rg f.b.toNat l).toNat) = .ok ns)
    fun s t g => GoesOn (s.cacheDo f.kind ns.contains (fun b =>
      (b.ctx = g.ctx && decide (((s.warp g.warp).pair f.a l).toNat / 64 * 64 ≤ 32 * b.block) && decide (32 * b.block <
        (((s.warp g.warp).pair f.a l).toNat + ((s.warp g.warp).rg f.b.toNat l).toNat + 63) / 64 * 64)) || ns.contains (b.pa / 2))) t g) ∧
  (∀ (s : State) line blk, (s.cacheDo .l1 line blk).mem = s.mem ∧ (s.cacheDo .l2flush line blk).mem = s.mem ∧
    (∀ x, x ∈ (s.cacheDo .l1 line blk).l1 ↔ x ∈ s.l1 ∧ (line x.line = false ∨ s.pinnedLine x = true)) ∧
    (∀ x, x ∈ (s.cacheDo .l2flush line blk).l2 ↔ x ∈ s.l2 ∧ line x.1 = false) ∧
    (∀ x, x ∈ (s.cacheDo .icache line blk).icache ↔ x ∈ s.icache ∧ blk x = false) ∧
    (∀ x, x ∈ (s.cacheDo .l2clean line blk).l2 → line x.1 = true → x.2 = false)) ∧
  (∀ (f : Tlbop) l ls, f.kind ≠ .resolve → Completes (.tlbop f) (fun s g => s.taking g f.h = l :: ls ∧
      (f.kind = .all ∨ ((s.warp g.warp).rg f.b.toNat l).toNat < 64) ∧
      s.accessOut (f.kind == .all) ((s.warp g.warp).rg f.b.toNat l).toNat = false)
    fun s t g => ∃ u, GoesOn u t g ∧ TlbDropped f.kind ((s.warp g.warp).pair f.a l).toNat ((s.warp g.warp).rg f.b.toNat l).toNat s u) ∧
  (∀ (f : Tlbop) l ls, f.kind ≠ .resolve → Completes (.tlbop f) (fun s g => s.taking g f.h = l :: ls ∧
      (f.kind = .all ∨ ((s.warp g.warp).rg f.b.toNat l).toNat < 64) ∧
      s.accessOut (f.kind == .all) ((s.warp g.warp).rg f.b.toNat l).toNat = true)
    fun s t g => ∃ u, Waits u t g (.accesses (f.kind == .all) ((s.warp g.warp).rg f.b.toNat l).toNat) true ∧
      TlbDropped f.kind ((s.warp g.warp).pair f.a l).toNat ((s.warp g.warp).rg f.b.toNat l).toNat s u) ∧
  (∀ (f : Tlbop) l ls, f.kind ≠ .all → Completes (.tlbop f) (fun s g => s.taking g f.h = l :: ls ∧
      64 ≤ ((s.warp g.warp).rg f.b.toNat l).toNat) GoesOn) ∧
  (∀ (f : Tlbop) l ls, f.kind = .resolve → Completes (.tlbop f) (fun s g => s.taking g f.h = l :: ls ∧
      ((s.warp g.warp).rg f.b.toNat l).toNat < 64)
    fun s t g => GoesOn (s.resolve ((s.warp g.warp).rg f.b.toNat l).toNat ((s.warp g.warp).pair f.a l).toNat) t g)

/-- CTXOP: CREATE makes a context of a descriptor that keeps Table 17.7, KILL starts a kill and waits for its end,
PREEMPT asks for the launch's crews and waits for those outside the issuing warp's own set, RESUME and ABORT act on a
launch that has fired or has crews stopped in place, and ABORT waits for the launch's end; D gets the status, which names what is wrong before anything is changed (R361, R362). -/
def Sys2Proof.ContextOperationsRules : Prop :=
  (∀ (f : Ctxop) l ls b d, f.op = .create → Completes (.ctxop f) (fun s g => s.taking g f.h = l :: ls ∧ (aget s.warps g.warp).isSome = true ∧
      ((s.warp g.warp).rg f.b.toNat l).toNat < 64 ∧ s.hasCtx ((s.warp g.warp).rg f.b.toNat l).toNat = false ∧
      ((s.warp g.warp).pair f.a l).toNat % 64 = 0 ∧ Ordered s g ∧
      s.recordRead g.warp ((s.warp g.warp).pair f.a l).toNat 64 = .ok b ∧ descOf b = some d)
    fun s t g => Status ((s.sawRecords g.warp [((s.warp g.warp).pair f.a l).toNat]).createCtx ((s.warp g.warp).rg f.b.toNat l).toNat d) t g f.h f.d 0) ∧
  (∀ (f : Ctxop) l ls, f.op = .create → Completes (.ctxop f) (fun s g => s.taking g f.h = l :: ls ∧ (aget s.warps g.warp).isSome = true ∧
      (64 ≤ ((s.warp g.warp).rg f.b.toNat l).toNat ∨ s.hasCtx ((s.warp g.warp).rg f.b.toNat l).toNat = true))
    fun s t g => Status s t g f.h f.d 1) ∧
  (∀ (s : State) c d, s.hasCtx c = false → (s.createCtx c d).hasCtx c = true ∧ ((s.createCtx c d).ctx c).desc = d ∧
    ((s.createCtx c d).ctx c).lease = s.scr.leaseDefault ∧ ((s.createCtx c d).ctx c).nextLaunch = 0 ∧
    (∀ x, x ≠ c → (s.createCtx c d).ctx x = s.ctx x) ∧ (s.createCtx c d).mem = s.mem) ∧
  (∀ (f : Ctxop) l ls, f.op = .kill → Completes (.ctxop f) (fun s g => s.taking g f.h = l :: ls ∧
      ((s.warp g.warp).rg f.b.toNat l).toNat < 63 ∧ s.hasCtx ((s.warp g.warp).rg f.b.toNat l).toNat = true)
    fun s t g => t = (s.startKill ((s.warp g.warp).rg f.b.toNat l).toNat none []).waitIn g (.ctxop .kill
      ((s.warp g.warp).rg f.b.toNat l).toNat (((s.warp g.warp).pair f.a l).toNat % 2 ^ 32) g.len f.d.toNat (BitVec.ofNat 32 (maskOf (l :: ls))) [])) ∧
  (∀ (f : Ctxop) l ls, f.op ≠ .create → Completes (.ctxop f) (fun s g => s.taking g f.h = l :: ls ∧ (aget s.warps g.warp).isSome = true ∧
      (64 ≤ ((s.warp g.warp).rg f.b.toNat l).toNat ∨ s.hasCtx ((s.warp g.warp).rg f.b.toNat l).toNat = false))
    fun s t g => Status s t g f.h f.d 1) ∧
  (∀ (f : Ctxop) l ls, f.op = .preempt ∨ f.op = .resume ∨ f.op = .abort → Completes (.ctxop f) (fun s g => s.taking g f.h = l :: ls ∧
      (aget s.warps g.warp).isSome = true ∧ ((s.warp g.warp).rg f.b.toNat l).toNat < 64 ∧
      s.hasCtx ((s.warp g.warp).rg f.b.toNat l).toNat = true ∧ s.killing ((s.warp g.warp).rg f.b.toNat l).toNat = false ∧
      s.admitted ((s.warp g.warp).rg f.b.toNat l).toNat (((s.warp g.warp).pair f.a l).toNat % 2 ^ 32) = false)
    fun s t g => Status s t g f.h f.d 3) ∧
  (∀ (f : Ctxop) l ls k ks, f.op = .preempt → Completes (.ctxop f) (fun s g => s.taking g f.h = l :: ls ∧
      ((s.warp g.warp).rg f.b.toNat l).toNat < 64 ∧ s.hasCtx ((s.warp g.warp).rg f.b.toNat l).toNat = true ∧
      s.killing ((s.warp g.warp).rg f.b.toNat l).toNat = false ∧
      s.admitted ((s.warp g.warp).rg f.b.toNat l).toNat (((s.warp g.warp).pair f.a l).toNat % 2 ^ 32) = true ∧
      s.runningCrews ((s.warp g.warp).rg f.b.toNat l).toNat (((s.warp g.warp).pair f.a l).toNat % 2 ^ 32) = k :: ks ∧
      ∀ x ∈ k :: ks, x.ctx ≠ g.ctx)
    fun s t g => t = ((k :: ks).foldl (fun s x => s.askCrew x false true false) s).waitIn g (.ctxop .preempt
      ((s.warp g.warp).rg f.b.toNat l).toNat (((s.warp g.warp).pair f.a l).toNat % 2 ^ 32) g.len f.d.toNat
      (BitVec.ofNat 32 (maskOf (l :: ls))) (k :: ks))) ∧
  (∀ (f : Ctxop) l ls, f.op = .resume → Completes (.ctxop f) (fun s g => s.taking g f.h = l :: ls ∧ (aget s.warps g.warp).isSome = true ∧
      ((s.warp g.warp).rg f.b.toNat l).toNat < 64 ∧ s.hasCtx ((s.warp g.warp).rg f.b.toNat l).toNat = true ∧
      s.killing ((s.warp g.warp).rg f.b.toNat l).toNat = false ∧
      s.admitted ((s.warp g.warp).rg f.b.toNat l).toNat (((s.warp g.warp).pair f.a l).toNat % 2 ^ 32) = true ∧
      ((s.launch ((s.warp g.warp).rg f.b.toNat l).toNat (((s.warp g.warp).pair f.a l).toNat % 2 ^ 32)).fired = true ∨
        (s.crewsOf ((s.warp g.warp).rg f.b.toNat l).toNat (((s.warp g.warp).pair f.a l).toNat % 2 ^ 32)).any (fun p => p.2.parked) = true))
    fun s t g => Status (s.resumeLaunch ((s.warp g.warp).rg f.b.toNat l).toNat (((s.warp g.warp).pair f.a l).toNat % 2 ^ 32)) t g f.h f.d 0) ∧
  (∀ (f : Ctxop) l ls c n, f.op = .abort → Completes (.ctxop f) (fun s g => s.taking g f.h = l :: ls ∧
      c = ((s.warp g.warp).rg f.b.toNat l).toNat ∧ n = ((s.warp g.warp).pair f.a l).toNat % 2 ^ 32 ∧ c < 64 ∧
      s.hasCtx c = true ∧ s.killing c = false ∧ c ≠ g.ctx ∧ s.admitted c n = true ∧
      ((s.launch c n).fired = true ∨ (s.crewsOf c n).any (fun p => p.2.parked) = true) ∧
      (aget (s.abortLaunch c n).warps g.warp).isSome = true)
    fun s t g => if (aget (s.abortLaunch c n).launches (c, n)).isNone then Status (s.abortLaunch c n) t g f.h f.d 0
      else t = (s.abortLaunch c n).waitIn g (.ctxop .abort c n g.len f.d.toNat (BitVec.ofNat 32 (maskOf (l :: ls))) []))

/-- SVC, RTE, CACHEOP, TLBOP and CTXOP (17.6, 17.7).
In the clauses that logs 19, 55, 57 name it states the model's reading. -/
def Obligations.SystemOperations : Prop := SystemInstructionsRules ∧ ContextOperationsRules

/-- A Uaten-2 word acts as its Uaten-3 counterpart at its address; a word that has none raises ILLEGAL_INSTRUCTION as it
executes. The worked words of R239: 0x0803020A038D0080 is IADD.S32 v10, v2, v3 guarded by bit 3 of v7, and
0x0000000400006000 a branch to pc + 32 (R237, R239).
In the clauses that log 22 names it states the model's reading. -/
def Obligations.UatenTwo : Prop :=
  (∀ w i (s : State), s.cur ≠ none → decodeU2 w = .ok i → exec (.uaten2 w) s = exec i s) ∧
  (∀ w r (s : State) g, s.cur = some g → decodeU2 w = .error r →
    ∃ t, exec (.uaten2 w) s = .next t ∧ Excepted s t g { code := .illegalInstruction, lanes := s.activeOf g }) ∧
  (∃ f : Bin, decodeU2 0x0803020A038D0080#64 = .ok (.iadd f) ∧ f.d = 10#8 ∧ f.a = 2#8 ∧ f.b = 3#8 ∧
    ∀ s g, Free (.iadd f) s g → ∃ t, exec (.uaten2 0x0803020A038D0080#64) s = .next t ∧ ∀ r l, l < 32 → (t.warp g.warp).rg r l =
      if r = 10 ∧ l ∈ s.activeOf g ∧ ((s.warp g.warp).rg 7 l).getLsbD 3 = true then (s.warp g.warp).rg 2 l + (s.warp g.warp).rg 3 l
      else (s.warp g.warp).rg r l) ∧
  (∃ f : Bra, decodeU2 0x0000000400006000#64 = .ok (.bra f) ∧ f.off = 32#32)

/-! Warps, launches, pre-emption (02, 07, 11). -/

/-- SWAP_IN takes the picked ready creel warp into a free loom slot; ROTATION, where all eight are taken and a warp has
been ready in the creel for 512 clocks, sends the ready loom warp that entered longest ago to the creel for it; registers
stay (R135, R137). At an issue slot a ready loom warp issues, by a gang of it that is free, and while none has been passed over 16 times one of the
greatest priority (R136).
In the clauses that logs 8, 70 name it states the model's reading. -/
def Obligations.Scheduling : Prop :=
  (∀ (s : State) (q : Quarter) k, (s.loom q.core q.quarter).length < 8 → s.swapPick q.core q.quarter = some k →
    ∃ t, exec (.swapIn q) s = .next t ∧ (t.warp k).place = .loom s.time ∧ t.mem = s.mem ∧
      ∀ j, (t.warp j).regs = (s.warp j).regs ∧ (t.warp j).slices = (s.warp j).slices) ∧
  (∀ (s : State) (q : Quarter), 8 ≤ (s.loom q.core q.quarter).length ∨ s.swapPick q.core q.quarter = none → exec (.swapIn q) s = .next s) ∧
  (∀ (s : State) (q : Quarter) a b, 8 ≤ (s.loom q.core q.quarter).length →
    (∃ k ∈ s.creelReady q.core q.quarter, s.longReady k = true) →
    a ∈ s.loom q.core q.quarter → s.ready a = true → (∀ x ∈ s.loom q.core q.quarter, s.ready x = true → x ≠ a →
      ∃ i j, (s.warp a).place = .loom i ∧ (s.warp x).place = .loom j ∧ i < j) → s.swapPick q.core q.quarter = some b →
    exec (.rotation q) s = .next ((s.toCreel a).enter b)) ∧
  (∀ (s : State) (q : Quarter), (s.loom q.core q.quarter).length < 8 ∨
    (∀ k ∈ s.creelReady q.core q.quarter, s.longReady k = false) → exec (.rotation q) s = .next s) ∧
  (∀ (s : State) k, ((s.warp k).readyAt = none → s.longReady k = false) ∧
    ∀ t, (s.warp k).readyAt = some t → (s.longReady k = true ↔ 512000 ≤ (s.time - t) * s.clockMHz)) ∧
  (∀ (s : State) k i, s.gangPick k = some i → i ∈ s.freeGangs k ∧ s.gangFree k i = true) ∧
  (∀ (s : State) c q k, s.issuePick c q = some k → k ∈ s.loom c q ∧ s.ready k = true ∧
    ((∀ x ∈ s.loom c q, s.ready x = true → (s.warp x).passedIssue < 16) → ∀ x ∈ s.loom c q, s.ready x = true → s.prio x ≤ s.prio k))

/-- LAUNCH_ADMISSION admits the first eligible launch that need not wait, or ends it with its code; one that has been checked and
waits is not checked anew; PLACEMENT places the
next unit of the first launch that fits, CREW_RESUMPTION returns a crew of a resume list, PREEMPTION_BY_PRIORITY asks
for victims where a unit fits nowhere (R131 to R134, R223). A crew that is placed for the first time starts on its core
with every register 0, an empty scratchpad, and every slice whole at the entry; one that returns has its registers from its record
(R18, R20, R222).
In the clauses that logs 14, 53, 80 to 83 name it states the model's reading. -/
def Obligations.Placement : Prop :=
  (∀ (s : State) x xs, s.ranked.filter s.launchEligible = x :: xs →
    (∀ t, s.tryAdmit x.1.1 x.1.2 = .ok t → exec .launchAdmission s = .next t) ∧
    (∀ e t, s.tryAdmit x.1.1 x.1.2 = .fail e t → exec .launchAdmission s = .next (t.endLaunch x.1.1 x.1.2 e)) ∧
    (∀ t, s.tryAdmit x.1.1 x.1.2 = .wait t → exec .launchAdmission s = .next (t.admitFirst xs))) ∧
  (∀ (s : State) c l, (s.launch c l).stage = .checked → s.tryAdmit c l = s.reserve c l) ∧
  (∀ (s : State), (∀ x ∈ s.launches, s.launchEligible x = false) → exec .launchAdmission s = .next s) ∧
  (∀ (s : State) x xs t, s.ranked.filter s.placing = x :: xs → x.2.resume = [] → s.returnsFirst x.2.packet.priority = false →
    s.placeUnit x.1.1 x.1.2 = some t → exec .placement s = .next t) ∧
  (∀ (s : State) x xs t, s.ranked.filter s.placing = x :: xs → s.higherUnit x.2.packet.priority = false →
    s.returnUnit x.1.1 x.1.2 = some t → exec .crewResumption s = .next t) ∧
  (∀ (s : State) x xs v, s.ranked.filter s.placing = x :: xs → x.2.waits = true →
    (s.without ((s.crews.filter (fun p => p.2.preempt.isSome)).map (·.1))).nextFits x.1.1 x.1.2 = false →
    (s.without ((s.crews.filter (fun p => p.2.preempt.isSome)).map (·.1))).victims x.1.1 x.1.2 = some v →
    exec .preemptByPriority s = .next (v.foldl (fun s k => s.askCrew k false true true) s)) ∧
  (∀ (s : State) core (k : CrewKey) w, aget s.crews k = none → (∀ i, aget s.warps ⟨k, i⟩ = none) → s.crewCancelled k = false →
    w < (s.packetOf k).warps → ((s.placeOn core k).crew k).seat = .on core ∧ ((s.placeOn core k).crew k).scratch = [] ∧
    ((s.placeOn core k).crew k).priv = (s.packetOf k).flags.getLsbD 3 ∧ (s.placeOn core k).mem = s.mem ∧
    (∀ r l, ((s.placeOn core k).warp ⟨k, w⟩).rg r l = 0) ∧ ∀ i, i < 8 →
      (((s.placeOn core k).warp ⟨k, w⟩).slice i).pc = (s.packetOf k).entry ∧ (((s.placeOn core k).warp ⟨k, w⟩).slice i).mask = 0xF#4 ∧
      (((s.placeOn core k).warp ⟨k, w⟩).slice i).stack = [] ∧ (((s.placeOn core k).warp ⟨k, w⟩).slice i).exited = false) ∧
  (∀ (s : State) core (k : CrewKey) c o n w, aget s.crews k = some c → c.seat = .saved o n → w < (s.packetOf k).warps →
    ((s.placeOn core k).crew k).seat = .on core ∧ (s.placeOn core k).mem = s.mem ∧
    ∀ r l, r < 8 * (s.packetOf k).vregsDiv8 → l < 32 → ((s.placeOn core k).warp ⟨k, w⟩).rg r l =
      BitVec.ofNat 32 (s.rdNat (s.recordAt k o + recordRegs (s.packetOf k) w + 4 * (32 * r + l)) 4))

/-- PREEMPTION_SAVE takes the crews of a set off their cores together, once all have stopped and drained and their
records fit the save window, and stops them in place, or lets those issue again that only a launch of higher priority asked for, where
they do not fit or cannot be written; a save writes to the crew's record alone, of a warp
the registers of live groups and no others; FORCED_PREEMPTION forces a request whose limit has passed (R217 to R222).
In the clauses that logs 14, 54 name it states the model's reading. -/
def Obligations.Preemption : Prop :=
  (∀ (s : State) k u, u = (s.unitOfCrew k).filter (fun x => match aget s.crews x with | some c => c.running | none => false) →
    u ≠ [] → s.killing k.ctx = false → (∀ x ∈ u, (s.crew x).preempt.isSome = true ∧ s.crewIdle x = true) →
    (∀ p, s.saveSpots [] u = some p → (∀ x ∈ p, s.recordBad x.1 x.2 false true = none) →
      exec (.preemptionSave k) s = .next (p.foldl (fun s x => s.saveCrew x.1 x.2) s)) ∧
    (∀ p b, s.saveSpots [] u = some p → p.findSome? (fun x => s.recordBad x.1 x.2 false true) = some b →
      exec (.preemptionSave k) s = .next ((s.meet k.ctx b).stayAll u)) ∧
    (s.saveSpots [] u = none → (∃ x ∈ u, ∀ p, (s.crew x).preempt = some p → p.byPrio = false) →
      exec (.preemptionSave k) s = .next (u.foldl State.parkCrew s)) ∧
    (s.saveSpots [] u = none → (∀ x ∈ u, ∃ p, (s.crew x).preempt = some p ∧ p.byPrio = true) →
      exec (.preemptionSave k) s = .next (u.foldl State.goInPlace s))) ∧
  (∀ (s : State) k, (∃ x ∈ s.unitOfCrew k, (∃ c, aget s.crews x = some c ∧ c.running = true) ∧ s.crewIdle x = false) →
    exec (.preemptionSave k) s = .next s) ∧
  (∀ (s : State) k off, ((s.saveCrew k off).crew k).seat = .saved off (recordSize (s.packetOf k)) ∧
    ((s.saveCrew k off).crew k).preempt = none ∧
    (∀ a, a < s.recordAt k off + 4096 ∨ s.recordAt k off + recordSize (s.packetOf k) ≤ a → (s.saveCrew k off).rd a = s.rd a) ∧
    ∀ x ∈ (s.saveCrew k off).l1, x ∈ s.l1 ∧ (x.core ≠ ((s.crew k).core?).getD 0 ∨ x.ctx ≠ k.ctx)) ∧
  (∀ (w : Warp) r l, l < 32 → w.saved.rg r l = (if w.stopMask.getLsbD (r / 8) then w.rg r l else 0)) ∧
  (∀ (s : State) k p, (s.crew k).preempt = some p → (s.crew k).running = true → p.at_ + p.limit ≤ s.time →
    exec (.forcedPreemption k) s = .next (s.modCrew k (fun c => { c with preempt := some { p with force := true } }))) ∧
  (∀ (s : State) k p, (s.crew k).preempt = some p → s.time < p.at_ + p.limit → exec (.forcedPreemption k) s = .next s)

/-- WATCHDOG_FIRE marks a launch whose timer has reached its limit and its bit, and reports it as of that tick; a report waits for its
warp's accesses and for room among the 4,096 of its die's queue; FAULT_REPORT_DELIVERY writes the first report of a context
into its ring slot, numbers it and signals its event, and kills the context where it cannot be written, where the peer that holds the
ring does not answer only once 10,000,000 ticks have passed; KILL_DONE leaves
nothing of the context and remembers its code (R201, R227, R207, R212, R213, R225, R386).
In the clauses that logs 56, 60, 73, 74, 86 name it states the model's reading. -/
def Obligations.WatchdogFaultsKills : Prop :=
  (∀ (s : State) c l tm, c < 64 → (aget s.launches (c, l)).bind (·.due) = some tm → (s.launch c l).fired = false → s.killing c = false →
    ∃ t, exec (.watchdogFire c l) s = .next t ∧ (t.launch c l).fired = true ∧ t.scr.wdgFired.getLsbD c = true ∧ t.time = s.time ∧
      (s.undelivered c false = false → ∃ r, t.faultQ = s.faultQ ++ [r] ∧ r.code = .watchdog ∧ r.kind = .l ∧ r.ctx = c ∧ r.launch = l ∧
        r.time = tm) ∧
      (s.undelivered c false = true → if c = 63 then t.phase = .recovery else t.killing c = true)) ∧
  (∀ (s : State) c l, ((s.launch c l).fired = true ∨ (s.launch c l).due = none) → exec (.watchdogFire c l) s = .next s) ∧
  (∀ (x : Launch) now dt since en counts, x.due = none → x.timer < x.limit →
    (x.pass now dt since en counts).timer = (if counts then x.timer + dt else x.timer) ∧
    (x.pass now dt since en counts).due = if en = true ∧ counts = true ∧ x.limit < x.timer + dt then some (now + (x.limit - x.timer))
      else none) ∧
  (∀ (x : Launch) now dt since en counts, x.due = none → x.limit ≤ x.timer → ∀ n, n = (if since < now then now else now + 1) →
    (x.pass now dt since en counts).due = if en = true ∧ n < now + dt then some n else none) ∧
  (∀ (s : State) c r, s.firstReport c = some r → s.hasCtx c = true → s.killing c = false → r.entered = true → s.reportRoom c = true →
    (∀ w u, s.unitStore (unitOf c false (((s.ctx c).desc.faultRing + 128 * ((s.ctx c).nextSeq % 256)) % 2 ^ 64)) none
        (((s.ctx c).desc.faultRing + 128 * ((s.ctx c).nextSeq % 256)) % 2 ^ 64) (reportBytes r (s.ctx c).nextSeq) = .ok (w, u) →
      ∃ t m, exec (.faultDelivery c) s = .next t ∧ t.mem = (u.evSeen c (s.ctx c).desc.faultEvent).mem ∧ t.faultQ = u.faultQ.filter (fun q => q.id ≠ r.id) ∧
        (t.ctx c).nextSeq = (s.ctx c).nextSeq + 1 ∧ ((s.ctx c).nextSeq, r) ∈ (t.ctx c).delivered ∧
        t.msgs = u.msgs ++ [m] ∧ m.ctx = c ∧ m.k = .event (s.ctx c).desc.faultEvent false (BitVec.allOnes 32)) ∧
    (∀ b, s.unitStore (unitOf c false (((s.ctx c).desc.faultRing + 128 * ((s.ctx c).nextSeq % 256)) % 2 ^ 64)) none
        (((s.ctx c).desc.faultRing + 128 * ((s.ctx c).nextSeq % 256)) % 2 ^ 64) (reportBytes r (s.ctx c).nextSeq) = .error b →
      (∀ u, s.later (.ring c) b = some u → exec (.faultDelivery c) s = .next u) ∧
      (s.later (.ring c) b = none → exec (.faultDelivery c) s = .next ((s.answered (.ring c)).killFor c b.code)))) ∧
  (∀ (s : State) who b, (b.busy = true → s.later who b = some s) ∧
    (b.busy = false → (b.code ≠ .uncorrectable ∨ s.peerSilent b.addr = false) → s.later who b = none) ∧
    (b.busy = false → b.code = .uncorrectable → s.peerSilent b.addr = true →
      ((s.later who b).isSome = true ↔ s.time < (aget s.unheard who).getD s.time + 10000000))) ∧
  (∀ (s : State) c r, s.firstReport c = some r → r.entered = false → exec (.faultDelivery c) s = .next s) ∧
  (∀ (s : State) r, s.reportReady r = false ∨ 4096 ≤ (s.faultQ.filter (fun x => x.die = r.die && x.entered)).length → s.enterReport r = s) ∧
  (∀ r n, (reportBytes r n).length = 128) ∧
  (∀ (s : State) c k, (s.ctx c).kill = some k → s.hasCtx c = true → s.drainedCtx c = true →
    ∃ t, exec (.killDone c) s = .next t ∧ t.hasCtx c = false ∧ aget t.dead c = some ((k.code.map Code.num).getD 0x17) ∧
      t.scr.killDone = true ∧ (∀ p ∈ t.launches, p.1.1 ≠ c) ∧ (∀ p ∈ t.crews, p.1.ctx ≠ c) ∧ (∀ p ∈ t.warps, p.1.crew.ctx ≠ c) ∧
      (∀ m ∈ t.msgs, m.ctx ≠ c) ∧ ∀ m ∈ t.l1, m.ctx ≠ c) ∧
  (∀ (s : State) c, s.drainedCtx c = false → exec (.killDone c) s = .next s)

/-! The Shuttle and the Clipper (15.6 to 15.9, 08). -/

/-- The step that carries a request out, from what it has written until now: it is done with its bytes, waits with what it has
written, fails after a part of it, or meets its fault with nothing written. As a choice of the model (log 73), an access that goes behind
earlier ones of the device to a peer's page leaves the request as it is, and one to a peer that does not answer is tried again for
10,000,000 ticks (R139, R140, R193, R214, R109, R392). -/
def Sys2Proof.CarriesOut (row : Nat → Instr) (r : Req) (f : State → ReqEnd) : Prop :=
  ∀ s : State, s.req? r.id = some r → s.inFlight r = true →
    (∀ n u, f { s with out := r.made } = .ok (.ends n, u) → exec (row r.id) s = .next (u.setReq r.id (.done n u.out))) ∧
    (∀ u, f { s with out := r.made } = .ok (.waits, u) → exec (row r.id) s = .next (u.waitReq r.id)) ∧
    (∀ b u, f { s with out := r.made } = .ok (.fails b, u) → exec (row r.id) s = .next (u.reqFault r b)) ∧
    ∀ b, f { s with out := r.made } = .error b → exec (row r.id) s = .next
      (if b.busy = true then s
       else if b.code = .uncorrectable ∧ s.peerSilent b.addr = true ∧ s.time < r.unheard.getD s.time + 10000000 then s.unheardReq r
       else s.reqFault r b)
/-- The engines' steps carry out the request of their kind; a CPA puts the bytes of its source, then zeros, into the
scratchpad; the swizzle is its own inverse; TCRED checks every destination first and applies elements in order; a
delivery adds its bytes to the slot; a batch ends when its copies have; a pool that is enabled serves its oldest request (R298, R305 to
R309, R200, R299, R140).
In the clauses that logs 30, 31 and 73 name (the pools; the engines' steps; a silent peer) it states the model's choice. -/
def Obligations.ShuttleSteps : Prop :=
  (∀ r dst n v src, r.op = .cpa dst n v src → CarriesOut .shuttleCpa r fun s => s.cpa r dst n v src) ∧
  (∀ r x k st d c, r.op = .tcopy x k st d c → CarriesOut .shuttleTcopy r fun s => s.tcopy r x k st d c) ∧
  (∀ r d a dir, r.op = .dcopyPage d a dir → CarriesOut .shuttleDcopy r fun s => s.dcopyPage r d a dir) ∧
  (∀ r fmt k pg a dir, r.op = .dcopyKv fmt k pg a dir → CarriesOut .shuttleDcopy r fun s => s.dcopyKv r fmt k pg a dir) ∧
  (∀ r k pg tr, r.op = .pgmove k pg tr → CarriesOut .shuttlePageMove r fun s => s.pgmove r k pg tr) ∧
  (∀ r x kd ty op d c, r.op = .tcred x kd ty op d c → CarriesOut .shuttleTcred r fun s => s.tcred r x kd ty op d c) ∧
  (∀ (s : State) r (x : Tensor) kd ty op d c img ps, s.imageOf ((r.warp.map (·.crew)).getD default) x kd d = .ok img →
    ps = (List.range x.elems).filterMap (fun e => (x.addr c e).map (fun a => (a, img.getD e []))) →
    (∀ b, s.redPlaces r.master ty op (ps.map (·.1)) = .error b → s.tcred r x kd ty op d c = .error b) ∧
    (s.redPlaces r.master ty op (ps.map (·.1)) = .ok () → ∀ u, s.unshareP r.master (.req r.id) (ps.map (·.1)) = .ok (true, u) → ∀ v,
      (u.redApply r.master ty op x.ebytes ps = (v, none) → s.tcred r x kd ty op d c = .ok (.ends x.image, v)) ∧
      ∀ b, u.redApply r.master ty op x.ebytes ps = (v, some b) → s.tcred r x kd ty op d c = .ok (.fails b, v))) ∧
  (∀ (s : State) r w dst n v src b t, r.warp = some w → s.takeRead r.master src v true = .ok (b, t) → (aget t.crews w.crew).isSome = true →
    b.length = v → v ≤ n → ∃ u, s.cpa r dst n v src = .ok (.ends n, u) ∧ u.mem = t.mem ∧
      u.scratchBytes w.crew dst n = b ++ List.replicate (n - v) 0) ∧
  (∀ z o, z ≤ 3 → swizzle z (swizzle z o) = o) ∧
  (∀ (s : State) r n k, s.req? r.id = some r → r.st = .done n k →
    exec (.spoolDelivery r.id) s = .next ((s.dropReq r.id).sinkEnd r (.ok (n, k)))) ∧
  (∀ (s : State) r n tw k i w x, r.sink = .slot k i → r.warp = some w → s.spool? w.crew k = some x → (aget s.crews w.crew).isSome = true →
    i < x.arrived.length → ∃ y, (s.sinkEnd r (.ok (n, tw))).spool? w.crew k = some y ∧ y.arr i = (x.arr i + n) % 2 ^ 32 ∧
      y.rp = x.rp ∧ y.expect = x.expect ∧ ∀ j, j ≠ i → y.arr j = x.arr j) ∧
  (∀ (s : State) w n, (aget s.warps w).isSome = true → ∃ t, exec (.copyBatchComplete w n) s = .next t ∧ t.mem = s.mem ∧
    (∀ b ∈ (t.warp w).batches, b.n.toNat = n → b.closed = true → b.left = 0 → b.done = true) ∧
    (∀ b ∈ (s.warp w).batches, b.n.toNat ≠ n → b ∈ (t.warp w).batches) ∧ ∀ k, k ≠ w → t.warp k = s.warp k) ∧
  (∀ (s : State) tier a u, s.poolQ.find? (fun a => a.tier = tier && a.got.isNone) = some a → s.scr.poolEn.getD tier false = true →
    s.bmpBad tier = none → s.poolRun tier a.units = some u → s.takeBad tier u a.units = none →
    ∃ t, exec (.poolAllocation tier) s = .next t ∧ t.mem = (s.takeRun a.ctx tier u a.units).mem ∧
      ∀ x ∈ t.poolQ, x.who = a.who → x.got = some u) ∧
  (∀ (s : State) tier a, s.poolQ.find? (fun a => a.tier = tier && a.got.isNone) = some a →
    s.scr.poolEn.getD tier false = false ∨ (s.bmpBad tier = none ∧ s.poolRun tier a.units = none) →
    exec (.poolAllocation tier) s = .next s)

/-- A sweep stages only full pages in tiers 0 and 1 whose words are valid, not pinned, sink, recent, non-finite or evicted
and have nothing staged (R158); STAGE and STAGE_COLD take the format steps and the cold moves, passing records with none
left, and waiting at a page whose turn at its engine has not come; a sweep without records ends; a request for a record that is not in the sweep list is discarded and counted (R157,
R160).
In the clauses that logs 31, 32, 73, 78, 79 name it states the model's reading. -/
def Obligations.Clipper : Prop :=
  (∀ (s : State) c k pg p, s.eligible c k pg p = true → fwValid p.cur = true ∧ fwPinned p.cur = false ∧ fwValid p.next = false ∧
    fwTier p.cur ≤ 1 ∧ 64 * (pg + 1) ≤ k.length ∧ k.sinks ≤ pg ∧ k.isRecent pg = false ∧ p.nonfinite = false ∧ p.evicted = false) ∧
  (∀ (w : Sweep) p m, (fwFormat p.cur = 0 → w.action p m = if m < w.thBf16 then some false else none) ∧
    (fwFormat p.cur = 1 → w.action p m = if m < w.thE4m3 then some false else none) ∧
    (fwFormat p.cur = 2 → w.action p m = if m < w.thE2m3 then some false else none) ∧
    (fwFormat p.cur = 3 → w.action p m = if fwTier p.cur = 0 ∧ m < w.cold then some true else none)) ∧
  (∀ (s : State) c w a as k n, (s.ctx c).sweep = some w → w.list = a :: as →
    s.staging.find? (fun g => g.ctx = c && !g.fromReq) = none → s.readKsr (unitOf c w.user a) a = .ok k →
    (s.sweepNext (unitOf c w.user a) w k (k.pages - w.page) w.page = .ok (n, none) →
      exec (.stage c) s = .next ((s.modSweep c (fun w => { w with list := as, page := 0 })).answered (.sweep c)) ∧
      exec (.stageCold c) s = .next ((s.modSweep c (fun w => { w with list := as, page := 0 })).answered (.sweep c))) ∧
    (∀ p t, s.sweepNext (unitOf c w.user a) w k (k.pages - w.page) w.page = .ok (n, some (p, false)) → p.retained = false →
      s.engineBusy (s.stageEngine (unitOf c w.user a) k n p) = false →
      (s.modSweep c (fun w => { w with page := n })).beginStage (unitOf c w.user a) k n p false false = .ok t →
      (∃ g ∈ t.staging, g.ctx = c ∧ g.fromReq = false) → exec (.stage c) s = .next (t.answered (.sweep c))) ∧
    (∀ p t, s.sweepNext (unitOf c w.user a) w k (k.pages - w.page) w.page = .ok (n, some (p, true)) → p.retained = false →
      s.engineBusy (s.stageEngine (unitOf c w.user a) k n p) = false →
      (s.modSweep c (fun w => { w with page := n })).beginStage (unitOf c w.user a) k n p true false = .ok t →
      (∃ g ∈ t.staging, g.ctx = c ∧ g.fromReq = false) → exec (.stageCold c) s = .next (t.answered (.sweep c))) ∧
    (∀ p, s.sweepNext (unitOf c w.user a) w k (k.pages - w.page) w.page = .ok (n, some (p, false)) →
      s.engineBusy (s.stageEngine (unitOf c w.user a) k n p) = true →
      exec (.stage c) s = .next ((s.modSweep c (fun w => { w with page := n })).answered (.sweep c)))) ∧
  (∀ (s : State) c, (s.ctx c).sweep = none → exec (.stage c) s = .next s ∧ exec (.stageCold c) s = .next s ∧ exec (.sweepEnd c) s = .next s) ∧
  (∀ (s : State) c w, (s.ctx c).sweep = some w → w.list = [] → ∃ t, exec (.sweepEnd c) s = .next t ∧ (t.ctx c).sweep = none ∧ t.mem = s.mem) ∧
  (∀ (s : State) die d, s.demreqs.find? (fun d => d.die = die) = some d →
    (∀ u, s.demServe (clipMaster die d.ctx d.user) d = .ok u → exec (.demreqServe die) s = .next (u.answered (.demand die))) ∧
    (s.staging.find? (fun g => g.ctx = d.ctx && g.fromReq && g.ksr = d.ksr && g.page = d.page) = none →
      d.ksr ∉ (s.ctx d.ctx).sweepList → ∃ t, exec (.demreqServe die) s = .next t ∧ t.demreqs = s.demreqs.erase d)) ∧
  (∀ (s : State) die, (∀ d ∈ s.demreqs, d.die ≠ die) → exec (.demreqServe die) s = .next s)

/-! Reset, power, control registers, the host (22, 04.6, 21). -/

/-- DEVICE_RESET runs the stages of Table 22.1: a failure of stage 1 leaves the module in reset, one of a later stage in
the recovery state, and so does firmware that no key of the fused hash has signed; else the device runs, with device time 0, nothing
resident, its layered key derived from the fused secret, the supervisor context and its launch, SUPERVISOR and PERSISTENT, in queue
15 (R391, R393, R395). Power that goes, or a junction at 115 degrees, takes every block's
state; the power loop steps the clock or the duty (R396, R397). Retraining and scrubbing change no state that a program
reads but counts (R398, R93).
In the clauses that logs 4, 10, 60, 61, 68 name it states the model's reading. -/
def Obligations.ResetAndPower : Prop :=
  (∀ (s : State) img, img.failStage = some 1 → ∃ t, exec (.deviceReset img) s = .next t ∧ t.phase = .off) ∧
  (∀ (s : State) img n, img.failStage = some n → 2 ≤ n → n ≤ 6 → ∃ t, exec (.deviceReset img) s = .next t ∧ t.phase = .recovery ∧
    t.time = 0 ∧ t.ctxs = [] ∧ t.warps = [] ∧ t.session = none ∧ (3 ≤ n ∧ n ≤ 5 → t.fabricId = img.fuses.fabricId.toNat) ∧
      (n = 6 → fwSigned img = true → t.fabricId = img.fabricId.toNat)) ∧
  (∀ (s : State) img, img.failStage = none → fwSigned img = false → ∃ t, exec (.deviceReset img) s = .next t ∧ t.phase = .recovery ∧
    t.ctxs = [] ∧ t.warps = []) ∧
  (∀ (img : BootImage), fwSigned img = true ↔ Config.shake256 (Config.falconPublic img.signer) = img.fuses.keyHash ∧
    img.fwSig = Config.falconSign img.signer (nbytes 64 img.fwHash.toNat)) ∧
  (∀ (s : State) img d, img.failStage = none → fwSigned img = true → descOf img.descriptor = some d → (bootPacket img.packet).refusal (decide (d.eventArea = 0)) true = none →
    ∃ t x, exec (.deviceReset img) s = .next t ∧ t.phase = .running ∧ t.time = 0 ∧ t.warps = [] ∧ t.crews = [] ∧ t.session = none ∧
      t.fuses = img.fuses ∧ t.spdm.deviceKey = Config.layerKey (Config.layerKey img.fuses.secret img.romHash) img.fwHash ∧
      (t.ctx 63).desc = d ∧ t.hasCtx 63 = true ∧ (∀ c, c ≠ 63 → t.hasCtx c = false) ∧ t.launches = [((63, 0), x)] ∧
      x.queue = 15 ∧ x.packet.flags.getLsbD 1 = true ∧ x.packet.flags.getLsbD 3 = true ∧ x.stage = .queued) ∧
  (∀ (s : State) img, img.failStage = none → descOf img.descriptor = none → ∃ t, exec (.deviceReset img) s = .next t ∧ t.phase = .recovery) ∧
  (∀ (s : State) w c, s.scr.limitW < w ∨ 100 ≤ c → ∃ t, exec (.powerLoopStep w c) s = .next t ∧ t.scr.throttle = true ∧ t.scr.drawW = w ∧
    t.mem = s.mem ∧ (1000 < s.clockMHz → t.clockMHz = s.clockMHz - 50 ∧ t.scr.duty = s.scr.duty) ∧
    (s.clockMHz ≤ 1000 → t.clockMHz = s.clockMHz ∧ t.scr.duty = min 7 (s.scr.duty + 1))) ∧
  (∀ (s : State) w c, w ≤ s.scr.limitW → 100 * w < 95 * s.scr.limitW → c < 95 → ∃ t, exec (.powerLoopStep w c) s = .next t ∧ t.mem = s.mem ∧
    (0 < s.scr.duty → t.scr.duty = s.scr.duty - 1 ∧ t.clockMHz = s.clockMHz) ∧
    (s.scr.duty = 0 → t.scr.duty = 0 ∧ t.clockMHz = if s.clockMHz < 2000 then s.clockMHz + 50 else s.clockMHz) ∧
    t.scr.throttle = (s.scr.throttle && !(t.clockMHz = 2000 && t.scr.duty = 0))) ∧
  (∀ (s : State) w c, w ≤ s.scr.limitW → c < 100 → (95 * s.scr.limitW ≤ 100 * w ∨ 95 ≤ c) → ∃ t, exec (.powerLoopStep w c) s = .next t ∧
    t.clockMHz = s.clockMHz ∧ t.scr.duty = s.scr.duty ∧ t.scr.throttle = s.scr.throttle) ∧
  (∀ s : State, ∃ t, exec .modulePowerRemoved s = .next t ∧ t.phase = .off ∧ t.warps = [] ∧ t.ctxs = [] ∧ t.l1 = [] ∧
    ∀ p ∈ t.mem, p ∈ s.mem ∧ region p.1 ≠ .tier 0 ∧ region p.1 ≠ .tier 1) ∧
  (∀ s : State, s.subject < 115 → exec .thermalCutoff s = .next s) ∧
  (∀ s : State, 115 ≤ s.subject → exec .thermalCutoff s = exec .modulePowerRemoved s ∧ ∃ t, exec .thermalCutoff s = .next t ∧ t.phase = .off) ∧
  (∀ s : State, exec .linkRetrain s = .next s) ∧
  (∀ s : State, exec .patrolScrub s = .next (s.count none 0x19 s.subject) ∧ (s.count none 0x19 s.subject).mem = s.mem)

/-- A write reaches a control register: the register takes it, and its store is acknowledged with completion time 0; one that
comes behind an earlier write of its warp to the register waits for that one. -/
def Sys2Proof.TakesWrite (row : Instr) (o : Nat) (f : State → DWord → State) : Prop :=
  ∀ (s : State) v, s.scrMsg = some (o, v) →
    exec row s = .next (if s.scrBehind o = true then s else (f s v).turnMsg s.subject (.ack 0))
/-- The control registers (R74, R76, R98, R195, R201, R202, Table 04.5): each row takes the write of its register; values
outside a range are held to it, reserved bits stay 0, read-only registers ignore writes; write-one bits clear or set;
an access-table entry changes once both its halves have been written; a pool takes a range of units or refuses it.
That a fault in a pool's arrays is reported to context 63 is the model's choice (log 90). -/
def Obligations.ControlRegisters : Prop :=
  (∀ o, ownRow o = false → TakesWrite .scrWrite o fun s v => s.scrSet o v) ∧
  TakesWrite .mbxStatus 0x00004 (fun s v => s.setMbxStatus v) ∧ TakesWrite .wdgCtl 0x70000 (fun s v => s.setWdgCtl v) ∧
  TakesWrite .wdgFired 0x70008 (fun s v => s.setWdgFired v) ∧ TakesWrite .shuPoolCtl 0x50300 (fun s v => s.setPoolCtl v) ∧
  TakesWrite .shuPoolAdd 0x50308 (fun s v => s.setPoolAdd v) ∧ TakesWrite .shuPoolStatus 0x50310 (fun s v => s.setPoolStatus v) ∧
  TakesWrite .prfClr 0xA0040 (fun s v => s.setPrfClr v) ∧
  (∀ o, inAcctab o = true → TakesWrite .secAcctab o fun s v => s.setAcc o v) ∧
  (∀ (s : State) v, (s.scrSet 0x10000 v).scrRead 0x10000 = max 1 (min 1000 v.toNat) ∧
    (s.scrSet 0x20000 v).scrRead 0x20000 = max 1 (min 8 (v.toNat % 16)) ∧ (s.scrSet 0x20004 v).scrRead 0x20004 = v.toNat % 2 ^ 32 ∧
    (s.scrSet 0x50008 v).scrRead 0x50008 = max 10 (min 24 (v.toNat % 32)) ∧
    (s.scrSet 0x60000 v).scrRead 0x60000 = max 128 (min 16384 (v.toNat % 2 ^ 32)) ∧
    (s.scrSet 0x90000 v).scrRead 0x90000 = max 600 (min 2400 (v.toNat % 2 ^ 32)) ∧ (s.scrSet 0x00000 v).scrRead 0x00000 = v.toNat % 256 ∧
    s.scrSet 0x60004 v = s ∧ s.scrSet 0x80000 v = s ∧ s.scrSet 0x90004 v = s ∧ s.scrSet 0x10008 v = s) ∧
  (∀ (s : State) v, (s.setMbxStatus v).scr.killDone = (s.scr.killDone && !v.getLsbD 0) ∧
    (s.setWdgFired v).scr.wdgFired = s.scr.wdgFired &&& ~~~v ∧ (s.setWdgCtl v).scr.wdgEnable = v.getLsbD 0 ∧
    (s.setPoolStatus v).scr.poolErr = (s.scr.poolErr && !v.getLsbD 0) ∧
    (∀ k, k < 3 → s.scr.poolEn.length = 3 → (s.setPoolCtl v).scr.poolEn.getD k false = (s.scr.poolEn.getD k false || v.getLsbD k)) ∧
    (∀ k, k < s.scr.prfCnt.length → (s.setPrfClr v).scr.prfCnt.getD k 0 =
      if v.getLsbD k then s.scr.prfNow.getD k 0 else s.scr.prfCnt.getD k 0)) ∧
  (∀ (s : State) v t first n, t = v.toNat / 2 ^ 40 % 8 → first = v.toNat % 2 ^ 40 → n = v.toNat / 2 ^ 43 → s.poolAddOk t first n = false →
    2 < t ∨ s.scr.poolEn.getD t false = false ∨ (s.bmpBad t = none ∧ s.rawBad (s.refAddr t first) (4 * n) true true = none) →
    (s.setPoolAdd v).scr.poolErr = true ∧ (s.setPoolAdd v).mem = s.mem) ∧
  (∀ (s : State) v t b, t = v.toNat / 2 ^ 40 % 8 → t ≤ 2 → s.scr.poolEn.getD t false = true →
    (s.bmpBad t).or (s.rawBad (s.refAddr t (v.toNat % 2 ^ 40)) (4 * (v.toNat / 2 ^ 43)) true true) = some b → s.setPoolAdd v = s.meet 63 b) ∧
  (∀ (s : State) g i a b, aget s.acchalf (g, i) = none → (s.accWrite g i false a).acctab = s.acctab ∧
    aget ((s.accWrite g i false a).accWrite g i true b).acctab (g, i) = some (b ++ a) ∧
    aget ((s.accWrite g i true b).accWrite g i false a).acctab (g, i) = some (b ++ a))

/-- A command at the head of the lane that the engine serves, in an open session, that no check of Table 21.2 refuses. -/
def Sys2Proof.Serves (row : Instr) (s : State) (c : Cmd) : Prop :=
  cmdRow c = row ∧ s.servedLane = some s.subject ∧ (∃ cs, s.laneCmds s.subject = c :: cs) ∧ s.session.isSome = true ∧ c.isOpen = false ∧
    s.cmdRefused c = none
/-- The mailbox (R383 to R387, R126): a 64-byte write to an enabled lane with room joins it, any other is dropped and
counted; a command that a check refuses ends with its status; LAUNCH enqueues, WRITE writes, READ reads, in a sealed session sealed
under the session's key and the next IV, EVSIG updates an event after the lane's writes, KILL starts a kill, QUERY reads.
In the clauses that logs 10, 13, 58, 60, 73 name it states the model's reading. -/
def Obligations.MailboxCommands : Prop :=
  (∀ (s : State) k, s.phase = .running → s.input.length = 64 → s.subject % 2 ^ 40 = 0x1000 * k → k < 8 → s.scr.mbxCtl.getLsbD k = true →
    (s.laneCmds k).length < 32 → s.session.isSome = true → s.lanes.length = 8 →
    ∃ t c, exec .mbxLaneWrite s = .next t ∧ c = cmdOf s.input (if s.subject / 2 ^ 40 % 2 = 1 then s.spdm.ide else none) ∧
      t.laneCmds k = s.laneCmds k ++ [c] ∧ (∀ j, j ≠ k → t.laneCmds j = s.laneCmds j) ∧ t.mem = s.mem) ∧
  (∀ (s : State), s.phase = .running → s.input.length ≠ 64 ∨ s.subject % 2 ^ 40 % 0x1000 ≠ 0 ∨ 8 ≤ s.subject % 2 ^ 40 / 0x1000 ∨
      s.scr.mbxCtl.getLsbD (s.subject % 2 ^ 40 / 0x1000) = false ∨ 32 ≤ (s.laneCmds (s.subject % 2 ^ 40 / 0x1000)).length →
    exec .mbxLaneWrite s = .next (s.count none 0x11 1)) ∧
  (∀ (s : State) c cs st, s.laneCmds s.subject = c :: cs → s.servedLane = some s.subject → s.session.isSome = true → c.isOpen = false →
    s.cmdRefused c = some st → exec (cmdRow c) s = .next (s.cmdDone s.subject c st 0 (if c.op = 1 then 0xFFFFFFFF else 0) 0)) ∧
  (∀ (s : State) c d u, Serves .mbxLaunch s c → s.hostAllows c.host.toNat 64 true false = true → s.openData s.subject c (s.hostBytes c.host.toNat 64) = some (d, u) →
    ∀ e, e = u.enqueue c.ctx (packetOf d) false false (fun _ => .mailbox s.subject c.tag) →
    exec .mbxLaunch s = .next (e.2.2.cmdDone s.subject c 6 e.1 e.2.1 0)) ∧
  (∀ (s : State) c d v w u, Serves .mbxWrite s c → s.hostAllows c.host.toNat c.len true false = true → s.openData s.subject c (s.hostBytes c.host.toNat c.len) = some (d, v) →
    v.engineWrite (mbxUnit c.ctx) (.mbx s.subject) c.dev.toNat d = .ok (some w, u) →
    exec .mbxWrite s = .next ((u.laneWrote s.subject).cmdDone s.subject c 0 0 0 0)) ∧
  (∀ (s : State) c, Serves .mbxWrite s c → s.hostAllows c.host.toNat c.len true false = false →
    exec .mbxWrite s = .next (s.cmdDone s.subject c 3 Code.accessDenied.num 0 0)) ∧
  (∀ (s : State) c d u x, Serves .mbxRead s c → s.hostAllows c.host.toNat c.len false true = true →
    s.takeRead (mbxUnit c.ctx) c.dev.toNat c.len false = .ok (d, u) → u.session = some x → x.sealed_ = false →
    exec .mbxRead s = .next ((u.put (hostBase + c.host.toNat) d).cmdDone s.subject c 0 0 0 0)) ∧
  (∀ (s : State) c d u x r, Serves .mbxRead s c → s.hostAllows c.host.toNat c.len false true = true →
    s.takeRead (mbxUnit c.ctx) c.dev.toNat c.len false = .ok (d, u) → u.session = some x → x.sealed_ = true →
    r = Config.gcmSeal (sessionKey x "SLOFOLD-MBX-D2H") (BitVec.ofNat 128 (0xFFFFFFFF * 2 ^ 64 + x.devIv)) [] d →
    exec .mbxRead s = .next (({ u.put (hostBase + c.host.toNat) r.1 with session := some { x with devIv := x.devIv + 1 } } : State).cmdDone
      s.subject c 0 0 x.devIv r.2)) ∧
  (∀ (s : State) c b, Serves .mbxRead s c → s.hostAllows c.host.toNat c.len false true = true → s.unitRead (mbxUnit c.ctx) c.dev.toNat c.len false = .error b →
    (s.later (.lane s.subject) b = none → exec .mbxRead s = .next (s.cmdDone s.subject c 3 b.code.num 0 0)) ∧
    ∀ u, s.later (.lane s.subject) b = some u → exec .mbxRead s = .next u) ∧
  (∀ (s : State) c, s.noEvents c.ctx = false → s.laneWct.getD s.subject 0 ≤ s.time →
    (∀ u, Serves .mbxEvsigAdd s c → s.evUpdate c.ctx (c.arg.toNat % 65536) false (c.dev.setWidth 32) = .ok u →
      exec .mbxEvsigAdd s = .next (u.cmdDone s.subject c 0 0 0 0)) ∧
    (∀ u, Serves .mbxEvsigSet s c → s.evUpdate c.ctx (c.arg.toNat % 65536) true (c.dev.setWidth 32) = .ok u →
      exec .mbxEvsigSet s = .next (u.cmdDone s.subject c 0 0 0 0))) ∧
  (∀ (s : State) c, Serves .mbxKill s c → ∃ t k, exec .mbxKill s = .next t ∧ (t.ctx c.ctx).kill = some k ∧ (s.subject, c.tag) ∈ k.lanes) ∧
  (∀ (s : State) c, Serves .mbxQueryRegister s c → exec .mbxQueryRegister s = .next
    (if c.dev.toNat ∈ [0x00000, 0x00004, 0x10008, 0x80000, 0x70008, 0x90004] then s.cmdDone s.subject c 0 0 (s.scrRead c.dev.toNat) 0
     else s.cmdDone s.subject c 1 0 0 0)) ∧
  (∀ (s : State) c, Serves .mbxQueryContext s c → exec .mbxQueryContext s = .next (s.cmdDone s.subject c 0 0 (s.ctxState c.ctx) 0))

/-- Sessions and attestation (R385, R388 to R391): OPEN, over the IDE stream that its SPDM session keyed, opens the session, and a
sealed one, which asks that no other context stands, clears EN in every Link port's table; CLOSE kills every
other context and goes on after; MEASURE extends a context's measurement by the digest of its bytes; a record is 32 bytes,
and waits while the ring is full; each SPDM request is answered, those that carry evidence with a signature by the key of the firmware
layer, and outside
the running state only those that the recovery state allows.
In the clauses that logs 10, 59 name it states the model's reading. -/
def Obligations.SessionsAndAttestation : Prop :=
  (∀ (s : State) c cs, s.laneCmds s.subject = c :: cs → cmdRow c = .sessionOpen → s.servedLane = some s.subject → c.isOpen = true →
    (s.session = none ∧ c.malformed false = false ∧ (c.arg.getLsbD 8 = true → s.otherCtxs = []) ∧ c.ide = some (c.dev.setWidth 32) ∧
      s.spdm.session = some (c.dev.setWidth 32) →
      ∃ t x, exec .sessionOpen s = .next t ∧ t.openResult = openWord c 0 ∧ t.session = some x ∧ x.spdm = c.dev.setWidth 32 ∧
        x.ring = c.host.toNat ∧ x.size = c.len ∧ x.sealed_ = c.arg.getLsbD 8 ∧ (c.arg.getLsbD 8 = false → t.acctab = s.acctab) ∧
        ∀ p i, (p < 14 → aget t.acctab (p, i) = aget s.acctab (p, i)) ∧
          ∀ e, 14 ≤ p → c.arg.getLsbD 8 = true → aget t.acctab (p, i) = some e → e.getLsbD 63 = false) ∧
    (s.session.isSome = true ∨ c.malformed false = true ∨ (c.arg.getLsbD 8 = true ∧ s.otherCtxs ≠ []) →
      ∃ t, exec .sessionOpen s = .next t ∧ t.openResult = openWord c 1 ∧ t.session = s.session) ∧
    (s.session = none ∧ c.malformed false = false ∧ (c.arg.getLsbD 8 = true → s.otherCtxs = []) ∧
      (c.ide ≠ some (c.dev.setWidth 32) ∨ s.spdm.session ≠ some (c.dev.setWidth 32)) →
      ∃ t, exec .sessionOpen s = .next t ∧ t.openResult = openWord c 4 ∧ t.session = none)) ∧
  (∀ (s : State) c x, Serves .sessionClose s c → s.session = some x → exec .sessionClose s =
    .next ((s.otherCtxs.foldl (fun (s : State) i => s.startKill i none []) { s with session := some { x with closing := some s.subject, held := s.heldMem } }).closeOn
      s.subject c { x with closing := some s.subject, held := s.heldMem })) ∧
  (∀ (s : State) k c x, s.otherCtxs ≠ [] → s.closeOn k c x = s) ∧
  (∀ (s : State) c d u, Serves .sessionMeasure s c → s.takeRead (mbxUnit c.ctx) c.dev.toNat c.len false = .ok (d, u) →
    exec .sessionMeasure s = .next ((u.extend (0x10 + c.ctx) (Config.shake256 d)).cmdDone s.subject c 0 0 0 0)) ∧
  (∀ n size c, (complBytes n size c).length = 32) ∧
  (∀ (s : State) c cs x, s.session = some x → x.size ≤ x.next → s.rdNat (hostBase + x.ring + 32 * x.size) 8 + x.size ≤ x.next →
    (s.pumpList (c :: cs)) = { s with compQ := c :: cs }) ∧
  (∀ s : State, (s.pump.compQ = [] → (∀ x, s.pump.session = some x → x.closed = false) → exec .completionRingPoll s = .next s.pump) ∧
    (s.pump.compQ ≠ [] → exec .completionRingPoll s = .next s.pump)) ∧
  (∀ s : State, s.phase = .running →
    exec .spdmGetVersion s = .next (s.doe (Config.spdmAnswer 0x84 s.input)) ∧
    exec .spdmGetCapabilities s = .next (s.doe (spdmSupport ++ Config.spdmAnswer 0xE1 s.input)) ∧
    exec .spdmGetCertificate s = .next (s.doe (Config.spdmAnswer 0x82 s.input)) ∧
    (∃ m, exec .spdmGetMeasurements s = .next (s.doe (s.sign m))) ∧
    (∃ m, exec .spdmChallenge s = .next (s.doe (s.sign m))) ∧
    (∃ t m, exec .spdmKeyExchange s = .next t ∧ t.spdm.session = some (BitVec.ofNat 32 s.subject) ∧ t.spdm.out = s.spdm.out ++ [s.sign m] ∧
      (s.spdm.ide = none ∨ s.spdm.ide ≠ some (BitVec.ofNat 32 s.subject) → t.spdm.ide = s.spdm.ide) ∧
      t.spdm.ide ≠ some (BitVec.ofNat 32 s.subject))) ∧
  (∀ s : State, s.phase = .running → s.spdm.session.isSome = true →
    (∃ t, exec .spdmKeyUpdate s = .next t ∧ t.spdm.keyUpdates = s.spdm.keyUpdates + 1 ∧ t.spdm.session = s.spdm.session) ∧
    (∃ t, exec .spdmEndSession s = .next t ∧ t.spdm.session = none ∧ t.spdm.ide = none ∧
      (s.session.map (·.spdm) = s.spdm.session → t.session = none)) ∧
    ∃ t, exec .ideKm s = .next t ∧ t.spdm.ide = s.spdm.session ∧ t.spdm.session = s.spdm.session) ∧
  (∀ s : State, s.phase = .recovery → (∃ m, exec .spdmGetMeasurements s = .next (s.doe m)) ∧ exec .spdmChallenge s = .next s ∧
    exec .spdmKeyExchange s = .next s ∧ exec .mbxLaneWrite s = .next s)

/-! The machine as a whole: encoding, a step, reset, invariants. -/

/-- Decoding what encoding writes gives the instruction back, with every operand at every value that its encoding admits,
and its length, wherever in a block it fits (12.1, R231, R233, R236).
In the clauses that log 16 names it states the model's reading. -/
def Obligations.DecodeOfEncode : Prop :=
  ∀ (i : Instr) (off : Nat) (rest : List Byte), i.wf = true → off % 4 = 0 → off % 32 + 4 * (encode i).length ≤ 32 →
    decode off (encodeBytes i ++ rest) = .ok (i, 4 * (encode i).length)

/-- What decodes is well formed, and encoding it gives the very bytes back: each bit that a decoded word holds is an operand's
or is the one its opcode, form or reserved field asks for (R231, R233, R236).
In the clauses that log 16 names it states the model's reading. -/
def Obligations.DecodedIsEncoded : Prop :=
  ∀ (off n : Nat) (l : List Byte) (i : Instr), decode off l = .ok (i, n) →
    i.wf = true ∧ n = 4 * (encode i).length ∧ encodeBytes i = l.take n ∧ off % 4 = 0 ∧ off % 32 + n ≤ 32

/-- No guard, no lookahead, no live mask, no reuse. -/
def Sys2Proof.noHdr : Hdr := ⟨none, 0, none, false, false, false⟩
/-- The number of a list of words, the first lowest. -/
def Sys2Proof.wordsNat (l : List Nat) : Nat := l.foldr (fun w n => w + 2 ^ 32 * n) 0
/-- Words written out from the spec's encodings decode to the instructions they stand for (12.7, 14, 15, 17). -/
def Obligations.DecodeWords : Prop :=
  decodeTableWord 96 (wordsNat [0x00000C01, 0x00020109, 0x0006C003]) =
    some (.bool3 { h := noHdr, t := .u32, ub := false, uc := false, sat := false, sel := 0xD8, d := 9, a := 1, b := 2, c := 3 }) ∧
  decodeTableWord 64 (wordsNat [0x00000F80, 0x28020105]) = some (.icmp { h := noHdr, k2 := 2, m0 := true, d := 5, a := 1, b := 2 }) ∧
  decodeTableWord 128 (wordsNat [0x038D6082, 0, 0x40, 0x80]) =
    some (.dbra { h := { noHdr with guard := some ⟨7, 3, false⟩ }, tgt := 0x40, join := 0x80 }) ∧
  decodeTableWord 96 (wordsNat [0x00008011, 0x2000040A, 0x40]) =
    some (.ld96i { h := { noHdr with la := 2 }, sz := .b32, d := 10, a := 4, off := 0x40 }) ∧
  decodeTableWord 64 (wordsNat [0x00008080, 0x60030407]) = some (.st { h := noHdr, sz := .b32, ord := some .device, d := 7, a := 4 }) ∧
  decodeTableWord 96 (wordsNat [0x00008581, 0x00060409, 0x00080300]) =
    some (.atom { h := noHdr, ty := .u32, op := .add, sc := .device, ub := false, off := 8, d := 9, a := 4, b := 6 }) ∧
  decodeTableWord 96 (wordsNat [0x0000C021, 0x40090800, 0x00200200]) =
    some (.mma { h := { noHdr with la := 4 }, src := .scr, ta := .bf16, tb := .bf16, e := 0, j := 0, acc := true, tt := 0, dt := 2, a := 8, b := 9 }) ∧
  decodeTableWord 96 (wordsNat [0x0000E301, 0x80060040, 0x300]) = some (.taskput { h := noHdr, nm := .imm 0x40, cls := 3, b := 6 }) ∧
  decodeU2 0x0803020A038D0080 = .ok (.iadd { h := { noHdr with guard := some ⟨7, 3, false⟩ }, t := .s32, m4 := false, d := 10, a := 2, b := 3 }) ∧
  decodeTableWord 64 (wordsNat [0x00000F80, 0x28020185]) = some (.icmp { h := noHdr, k2 := 2, m0 := true, d := 0x85, a := 1, b := 2 }) ∧
  decodeTableWord 64 (wordsNat [0x00000F83, 0x28020105]) = none

/-- The block at the pc gives the instruction that its bytes decode to; on a Uaten-2 page the 64-bit word (R231, R237). Its
place is found through the context's page tables and checked at every fetch (R193, R196, R72); a copy of that place in the
instruction cache is what counts for its bytes (R232), else memory. A pc that is no multiple of 4, a place that a check refuses, an error of the
line, or bytes that decode to nothing, are faults of the fetch (R206, R231). -/
def Sys2Proof.FetchDecodesRules : Prop :=
  (∀ (s : State) k pc, pc % 4 ≠ 0 → s.fetch k pc = .error ⟨bad .fetchBoundary, 0⟩) ∧
  (∀ (s : State) k pc b, pc % 4 = 0 → s.fetchBlock k pc = .error b → s.fetch k pc = .error ⟨b, 0⟩) ∧
  (∀ (s : State) k pc l x2, pc % 4 = 0 → s.fetchBlock k pc = .ok (l, x2) →
    (x2 = false → (∀ i n, decode (pc % 32) (l.drop (pc % 32)) = .ok (i, n) → s.fetch k pc = .ok (i, n, false)) ∧
      (decode (pc % 32) (l.drop (pc % 32)) = .error .boundary → s.fetch k pc = .error ⟨bad .fetchBoundary, 0⟩) ∧
      ∀ r, r ≠ .boundary → decode (pc % 32) (l.drop (pc % 32)) = .error r →
        s.fetch k pc = .error ⟨bad .illegalInstruction, lenOf (wordAt (l.drop (pc % 32)) 0)⟩) ∧
    (x2 = true → (pc % 8 = 0 → s.fetch k pc = .ok (.uaten2 (BitVec.ofNat 64 (le64 (l.drop (pc % 32)) 0)), 8, true)) ∧
      (pc % 8 ≠ 0 → s.fetch k pc = .error ⟨bad .fetchBoundary, 0⟩))) ∧
  (∀ (s : State) k pc b, s.codeAt (s.coreOf k) k.crew.ctx pc (!s.privOf k) = .error b → s.fetchBlock k pc = .error b) ∧
  (∀ (s : State) k pc t, s.codeAt (s.coreOf k) k.crew.ctx pc (!s.privOf k) = .ok t →
    (∀ b, s.icache.find? (fun b => b.core = s.coreOf k && b.ctx = k.crew.ctx && b.block = pc / 32 && b.pa = t.pa / 32) = some b →
      s.fetchBlock k pc = .ok (nbytes 32 b.data.toNat, b.x2)) ∧
    (s.icache.find? (fun b => b.core = s.coreOf k && b.ctx = k.crew.ctx && b.block = pc / 32 && b.pa = t.pa / 32) = none →
      (s.isBad t.pa 1 = true ∨ s.peerSilent t.pa = true → s.fetchBlock k pc = .error (badAt .uncorrectable t.pa)) ∧
      (s.isBad t.pa 1 = false → s.peerSilent t.pa = false → s.fetchBlock k pc = .ok (s.rdN (t.pa / 32 * 32) 32, t.x2)))) ∧
  (∀ (s : State) core ctx va user, (∀ b, s.walk core ctx va = .error b → s.codeAt core ctx va user = .error b) ∧
    ∀ w, s.walk core ctx va = .ok w →
      (user = true → region w.pa = .window → s.codeAt core ctx va user = .error (bad .privilege)) ∧
      ((user = true → region w.pa ≠ .window) →
        (∀ b, s.xlate core ctx va user .fetch = .error b → s.codeAt core ctx va user = .error b) ∧
        ∀ t, s.xlate core ctx va user .fetch = .ok t →
          s.codeAt core ctx va user = if s.physOk t.pa 0 true false false then .ok t else .error (bad .accessDenied)))

/-- A step whose item is an issue slot executes the instruction fetched at the pc of the gang it picks: where nothing holds
the gang back, the step is exec of that instruction, with the gang as its issuer, in the state after the slot's passing over
and its fetch and bank conflicts, counted when it is first tried, its acquire done and the reuse latches of the quarter's other warps
empty; what follows by itself comes after (R136, R137, R62, R67, R68). -/
def Sys2Proof.StepRunsDecodedRules : Prop :=
  ∀ (s : State) dt core q rest k j ins len x2 (e u v w : State) (g : Cur),
    s.phase = .running → s.agenda = .issue dt core q :: rest → e = { s with agenda := rest }.elapse dt →
    e.issuePick core q = some k → e.gangPick k = some j → u = e.passOver core q k →
    u.fetch k ((u.warp k).slice j).pc.toNat = .ok (ins, len, x2) → g = ⟨k, (u.warp k).gangOf j, len, x2⟩ →
    (u.crew k.crew).preempt = none ∨ ((u.warp k).slice j).wait.accepted = true → u.blockers k (plainOf ins) = [] →
    ¬ ((u.warp k).acq = true ∧ u.loadsOut k = true) → ¬ ((u.warp k).flushWait = true ∧ acquires (plainOf ins) = true) →
    v = (if ((u.warp k).slice g.gang.slice).tried = true then u
      else (if bankClocks (u.warp k).slot (plainOf ins) = 0 then u.sawFetch k ((u.warp k).slice g.gang.slice).pc.toNat
        else (u.sawFetch k ((u.warp k).slice g.gang.slice).pc.toNat).count (some k.crew.ctx) 0x06
          (bankClocks (u.warp k).slot (plainOf ins))).modWarp k (fun x => x.modSlices g.slices (fun y => { y with tried := true }))) →
    w = (if (u.warp k).acq = true then v.modWarp k (fun x => { x with acq := false }) else v) →
    step s = match exec ins { (w.soleLatch (w.coreOf k) (quarterOf w k) k) with cur := some g } with
      | .next t => .next t.after
      | o => o

/-- A step runs the instruction that the bytes at the program counter decode to.
In the clauses that logs 8, 63, 73 name it states the model's reading. -/
def Obligations.StepRunsFetched : Prop := FetchDecodesRules ∧ StepRunsDecodedRules

/-- Right after reset device time is 0, nothing is resident and nothing in flight, and each register of Table 04.5 reads its
reset value (R77, R198, Table 22.1). -/
def Sys2Proof.ResetStateRules : Prop :=
  State.reset.time = 0 ∧ State.reset.session = none ∧ State.reset.launches = [] ∧ State.reset.crews = [] ∧ State.reset.warps = [] ∧
  State.reset.ctxs = [] ∧ State.reset.msgs = [] ∧ State.reset.reqs = [] ∧ State.reset.pends = [] ∧ State.reset.faultQ = [] ∧
  ∀ o, State.reset.scrRead o =
    if o = 0x00000 then 0xFF else if o = 0x10000 then 0x14 else if o = 0x10004 then 0x186A0 else if o = 0x20000 then 4
    else if o = 0x50008 then 0x10 else if o = 0x60000 then 0x800 else if o = 0x60004 then 0x80 else if o = 0x70000 then 1
    else if o = 0x90000 then 0x960 else 0

/-- Memory right after reset is in its canonical form. -/
def Sys2Proof.ResetMemoryRules : Prop := MemOk State.reset

/-- The state right after reset.
In the clauses that logs 3, 4 name it states the model's reading. -/
def Obligations.Reset : Prop := ResetStateRules ∧ ResetMemoryRules

/-- Every step keeps memory in its canonical form: addresses strictly rising, no entry equal to what an unlisted address reads
as (the model's representation, log 3).
In the clauses that log 3 names it states the model's reading. -/
def Obligations.StepKeepsMemory : Prop := ∀ s t : State, MemOk s → step s = .next t → MemOk t

/-- The machine stops only where the module has no power and nothing is there to reset it; it refuses nothing (R397).
In the clauses that log 2 names it states the model's reading. -/
def Obligations.StepAnswers : Prop :=
  (∀ s : State, s.phase = .off → s.agenda = [] → step s = .fault .noPower) ∧
  (∀ (s : State) f, step s = .fault f → f = .noPower ∧ s.phase = .off) ∧
  (∀ (s : State) r, step s ≠ .refused r) ∧
  (∀ s : State, s.phase ≠ .off → ∃ t, step s = .next t)

/-! Every form completes (R211, R62): where it may execute and what it needs is there, the instruction has its own effect
and its gang goes on behind it. -/

/-- The gang goes on behind the instruction, no register and no byte of memory has changed, and a result of its warp under the
next identifier is on the scoreboard, for which those registers wait (R62). -/
def Sys2Proof.Awaits (u t : State) (g : Cur) (regs : List Nat) : Prop :=
  Moved u t g (onward g) ∧ SameRegs u t g ∧ t.mem = u.mem ∧ ∃ p ∈ t.pends, p.warp = g.warp ∧ p.id = u.nextId ∧ p.regs = regs
/-- The state in which a load's gang goes on: LD.ACQ has marked its warp's acquire (R116). -/
def Sys2Proof.acqMarked (s : State) (g : Cur) (h : Hdr) (acq : Bool) : State :=
  if acq ∧ s.taking g h ≠ [] then s.modWarp g.warp (fun w => { w with acq := true }) else s
/-- A load whose lanes pass their checks and find what they wait for gone completes: its destination is pending. -/
def Sys2Proof.LoadCompletes (i : Instr) (h : Hdr) (d : Reg) (sz : Sz) (kind : LoadKind) (acq : Bool)
    (addr : State → WarpKey → Nat → Except Bad (List Piece)) : Prop :=
  Completes i
    (fun s g => ∀ l ∈ s.taking g h, ∃ ps, accessOf addr .read (szBytes sz) s g.warp l = .ok ps ∧ ∀ pl ∈ ps, LoadReady s g kind pl)
    fun s t g => Awaits (acqMarked s g h acq) t g ((List.range (szRegs sz)).map (d.toNat + ·))
/-- The gang has gone on behind a store: no register and no byte of memory has changed, and each piece of a lane that no higher
lane stores to also has left as a message (R36, R114). -/
def Sys2Proof.StoredBy (s t : State) (g : Cur) (h : Hdr) (d : Reg) (n : Nat) (pls : Nat → List Place2) : Prop :=
  Moved s t g (onward g) ∧ SameRegs s t g ∧ t.mem = s.mem ∧ ∀ l ∈ s.taking g h, ∀ pl ∈ pls l,
    (∀ k ∈ s.taking g h, l < k → ∀ q ∈ pls k, q.pa ≠ pl.pa) → ∃ m ∈ t.msgs, m.k = storeMsg (s.warp g.warp) d n l pl
/-- A store whose lanes pass their checks completes so. -/
def Sys2Proof.StoreCompletes (i : Instr) (h : Hdr) (d : Reg) (sz : Sz) (addr : State → WarpKey → Nat → Except Bad (List Piece)) : Prop :=
  ∀ pls : Nat → List Place2, Completes i
    (fun s g => ∀ l ∈ s.taking g h, accessOf addr .write (szBytes sz) s g.warp l = .ok (pls l))
    fun s t g => StoredBy s t g h d (szBytes sz) pls
/-- An atomic whose lanes pass their checks, none of them on a line of L1, completes: each lane's operation has left for its
home, and the registers of a returned value are pending (R292 to R294). -/
def Sys2Proof.AtomCompletes (i : Instr) (h : Hdr) (ty : ATy) (sc : Scope) (d : Option Reg) (place : State → WarpKey → Nat → Except Bad Place2)
    (msg : Warp → Nat → Place2 → Option Part → MsgKind) : Prop :=
  Completes i (fun s g => ∀ l ∈ s.taking g h, ∃ pl, place s g.warp l = .ok pl ∧ inL1 sc pl = false) fun s t g =>
    Moved s t g (onward g) ∧ SameRegs s t g ∧ t.mem = s.mem ∧
    (∀ l ∈ s.taking g h, ∀ pl, place s g.warp l = .ok pl → ∃ m ∈ t.msgs,
      m.k = msg (s.warp g.warp) l pl (d.map (fun r => ⟨s.nextId, l, r.toNat, atyBytes ty, false⟩))) ∧
    ∀ r, d = some r → ∃ p ∈ t.pends, p.warp = g.warp ∧ p.id = s.nextId ∧ p.regs = (List.range (atyRegs ty)).map (r.toNat + ·)
/-- A prefetch into L1 completes: each line that it may hold there serves its warp's loads or has a fill on its way (R297). -/
def Sys2Proof.PrefetchCompletes (i : Instr) (h : Hdr) (l2 : Bool) (a : Reg) (off : Int) : Prop :=
  Completes i Always fun s t g => Moved s t g (onward g) ∧ SameRegs s t g ∧ t.mem = s.mem ∧
    (l2 = false → ∀ l ∈ s.taking g h, ∀ pl, s.checkPiece g.warp .read 1 ⟨globalVa a off s g.warp l, 1, 0⟩ = .ok pl → cacheable pl = true →
      s.homeBad g.warp .ld pl = false → s.l1Serves g.warp .ld pl = true ∨ t.filling g.warp (pl.pa / 64) = true)
/-- SREG and SREGW, loads, stores, early loads' ends, atomics, reductions, fences and prefetches complete. -/
def Sys2Proof.MemoryFormsComplete : Prop :=
  (∀ f : Sreg, Completes (.sreg f) Always fun s t g => Moved (captured s g f) t g (onward g) ∧
    GotWord s t g f.h f.r (fun _ l => s.special g.warp f.code.toNat l)) ∧
  (∀ f : Sreg, Completes (.sregw f) (fun s g => s.taking g f.h ≠ []) fun s t g => Moved s t g (onward g) ∧ SameRegs s t g ∧
    (t.ctx g.ctx).lease = max 128 (min 16384 ((s.warp g.warp).rg f.r.toNat ((s.taking g f.h).headD 0)).toNat)) ∧
  (∀ f : Sreg, Completes (.sregw f) (fun s g => s.taking g f.h = []) GoesOn) ∧
  (∀ (f : Mem) sc (pls : Nat → List Place2), f.ord = some sc →
    Completes (.st f) (fun s g => StRel f pls False s g ∧ ((s.warp g.warp).slice g.gang.slice).relDone = true)
      fun s t g => StoredBy s t g f.h f.d (szBytes f.sz) pls) ∧
  (∀ f : Mem, LoadCompletes (.ld f) f.h f.d f.sz .ld f.ord.isSome (globalAddr f.a 0 (szBytes f.sz)) ∧
    LoadCompletes (.ldby f) f.h f.d f.sz .ldby false (globalAddr f.a 0 (szBytes f.sz)) ∧
    LoadCompletes (.lde f) f.h f.d f.sz .lde false (globalAddr f.a 0 (szBytes f.sz)) ∧
    LoadCompletes (.ldl f) f.h f.d f.sz .ld false (fun s k l => s.localPieces k l (offsetOf f.a 0 s k l) (szBytes f.sz)) ∧
    LoadCompletes (.ldc f) f.h f.d f.sz .ld false (fun s k l => s.constPieces k (offsetOf f.a 0 s k l) (szBytes f.sz)) ∧
    (f.ord = none → StoreCompletes (.st f) f.h f.d f.sz (globalAddr f.a 0 (szBytes f.sz))) ∧
    StoreCompletes (.stl f) f.h f.d f.sz fun s k l => s.localPieces k l (offsetOf f.a 0 s k l) (szBytes f.sz)) ∧
  (∀ f : MemI, LoadCompletes (.ld96i f) f.h f.d f.sz .ld false (globalAddr f.a f.off.toInt (szBytes f.sz)) ∧
    LoadCompletes (.ldby96i f) f.h f.d f.sz .ldby false (globalAddr f.a f.off.toInt (szBytes f.sz)) ∧
    LoadCompletes (.lde96i f) f.h f.d f.sz .lde false (globalAddr f.a f.off.toInt (szBytes f.sz)) ∧
    LoadCompletes (.ldl96i f) f.h f.d f.sz .ld false (fun s k l => s.localPieces k l (offsetOf f.a f.off.toInt s k l) (szBytes f.sz)) ∧
    LoadCompletes (.ldc96i f) f.h f.d f.sz .ld false (fun s k l => s.constPieces k (offsetOf f.a f.off.toInt s k l) (szBytes f.sz)) ∧
    StoreCompletes (.st96i f) f.h f.d f.sz (globalAddr f.a f.off.toInt (szBytes f.sz)) ∧
    StoreCompletes (.stl96i f) f.h f.d f.sz fun s k l => s.localPieces k l (offsetOf f.a f.off.toInt s k l) (szBytes f.sz)) ∧
  (∀ f : Clear, Completes (.clear f) (fun s g => s.entriesPending g.warp = false) fun s t g => SameRegs s t g ∧
    (∀ e ∈ t.clearing, e.warp ≠ g.warp) ∧ Moved s t g fun _ x => { x with pc := x.pc +
      (if s.clearing.any (fun e => e.warp = g.warp && e.st == .struck) then f.off.signExtend 64 * 4#64 else BitVec.ofNat 64 g.len) }) ∧
  (∀ f : Bare, Completes (.cldrop f) (Some1 f.h) fun s t g => GoesOn (s.dropEntries g.warp) t g ∧ ∀ e ∈ t.clearing, e.warp ≠ g.warp) ∧
  (∀ f : Atom, AtomCompletes (.atom f) f.h f.ty f.sc (some f.d)
    (fun s k l => s.atomPlace k f.ty (some f.op) true (atomVa f.a f.off s k l))
    (fun w l pl p => .atom pl.pa f.ty f.op (BitVec.ofNat 64 (w.srcN f.ub (atyRegs f.ty) f.b l)) p pl.sp)) ∧
  (∀ f : Atomc, AtomCompletes (.atomc f) f.h f.ty f.sc (some f.d)
    (fun s k l => s.atomPlace k f.ty none true (atomVa f.a f.off s k l))
    (fun w l pl p => .cas pl.pa f.ty (BitVec.ofNat 64 (w.srcN f.ub (atyRegs f.ty) f.b l))
      (BitVec.ofNat 64 (w.srcN false (atyRegs f.ty) f.c l)) (p.getD ⟨0, 0, 0, 4, false⟩) pl.sp)) ∧
  (∀ f : Red, AtomCompletes (.red f) f.h f.ty f.sc none
    (fun s k l => s.atomPlace k f.ty (some f.op) false (globalVa f.a 0 s k l))
    (fun w l pl p => .atom pl.pa f.ty f.op (BitVec.ofNat 64 (w.srcN false (atyRegs f.ty) f.b l)) p pl.sp)) ∧
  (∀ f : RedI, AtomCompletes (.red96i f) f.h f.ty f.sc none
    (fun s k l => s.atomPlace k f.ty (some f.op) false (globalVa f.a 0 s k l))
    (fun _ _ pl p => .atom pl.pa f.ty f.op (f.imm.setWidth 64) p pl.sp)) ∧
  (∀ (f : Redc) (place : Nat → Place2), Completes (.redc f)
    (fun s g => ∀ l ∈ s.taking g f.h, s.redcPlace g.warp (globalVa f.a 0 s g.warp l) = .ok (place l) ∧
      s.lineBusy g.warp ((place l).pa / 64) = false)
    fun s t g => GoesOn (s.redcAll g.warp f.b ((s.taking g f.h).map (fun l => (l, place l)))) t g) ∧
  (∀ f : Fence, Completes (.fence f) (fun s g => Some1 f.h s g ∧ s.loadsOut g.warp = false ∧
      (f.kind = .rel ∨ f.kind = .acqRel → ((s.warp g.warp).slice g.gang.slice).relDone = false ∧ s.relReady g.warp f.sc = true))
    fun s t g => GoesOn (match f.kind with | .acq => s | .acqInv => s.invL1 (s.coreOf g.warp) | _ => s.relDo g.warp f.sc) t g) ∧
  (∀ (s : State) (k : GangKey) sc b, ((s.warp k.warp).slice k.slice).wait = .release sc b → s.relReady k.warp sc = true →
    ∃ t, exec (.fenceCompletion k) s = .next t ∧ t.mem = s.mem ∧ ∀ i (x : Slice), (s.warp k.warp).slices[i]? = some x →
      ((s.warp k.warp).gangOf k.slice).getLsbD i = true → (t.warp k.warp).slices[i]? = some { x with wait := .none, relDone := true }) ∧
  (∀ f : Pref, PrefetchCompletes (.pref f) f.h f.l2 f.a 0) ∧
  (∀ f : PrefI, PrefetchCompletes (.pref96i f) f.h f.l2 f.a f.off.toInt)
/-- Copies, spools, engine requests and accumulator transfers complete: the engine forms queue a request of each taking-part
lane, the others go on with their own change made. -/
def Sys2Proof.CopyFormsComplete : Prop :=
  (∀ (f : Cpa) (op : Nat → ReqOp), Completes (.cpa f)
    (fun s g => (∀ l ∈ s.taking g f.h, s.cpaLane g.warp f l = .ok (op l)) ∧
      s.engineFull (engineOf (s.coreOf g.warp)) (s.taking g f.h).length = false)
    fun s t g => Queues s (s.modWarp g.warp (fun w => w.addCopies (s.taking g f.h).length)) t g (atCore s g f.h op)
      (.batch (s.warp g.warp).nextBatch)) ∧
  (∀ f : OnlyD, Completes (.cpclose f)
    (fun s g => Some1 f.h s g ∧ ((s.warp g.warp).batches.filter (fun b => b.closed && !b.done)).length < 8)
    fun s t g => GotWord s t g f.h f.d (fun w _ => w.nextBatch.setWidth 32) ∧
      (t.warp g.warp).lastBatch = (s.warp g.warp).nextBatch ∧ (t.warp g.warp).nextBatch = (s.warp g.warp).nextBatch + 1 ∧
      ∀ b ∈ (t.warp g.warp).batches, b.closed = true) ∧
  (∀ f : Cpwait, Completes (.cpwait f) (fun s g => ∃ l ls, s.taking g f.h = l :: ls ∧ (s.warp g.warp).pending = false ∧
      ∀ b ∈ (s.warp g.warp).batches, b.covered f.all (((s.warp g.warp).rg f.a.toNat l).setWidth 16) = true → b.done = true ∧ b.failed = none)
    GoesOn) ∧
  (∀ f : Spset, f.free = false → Completes (.spset f)
    (fun s g => (∀ i, i < f.n1.toNat + 1 → i ∈ s.taking g f.h ∧ (s.warp g.warp).rg f.b.toNat i ≠ 0) ∧
      s.spoolTaken (s.coreOf g.warp) g.crewK f.k.toNat = false ∧ s.spoolReqs (s.coreOf g.warp) f.k.toNat (· = g.crewK) = false)
    fun s t g => ∃ x : Spool, GoesOn (s.setSpool g.crewK f.k.toNat x) t g ∧ x.ns = f.n1.toNat + 1 ∧ x.rp = 0) ∧
  (∀ f : Spset, f.free = true → Completes (.spset f)
    (fun s g => Some1 f.h s g ∧ s.spoolTaken (s.coreOf g.warp) g.crewK f.k.toNat = false ∧
      s.spoolReqs (s.coreOf g.warp) f.k.toNat (· = g.crewK) = false)
    fun s t g => GoesOn (s.modCrew g.crewK (fun c => { c with spools := adel c.spools f.k.toNat })) t g) ∧
  (∀ (f : SpD) (x : Spool), Completes (.spwait f)
    (fun s g => Some1 f.h s g ∧ (s.warp g.warp).pending = false ∧ s.spool? g.crewK f.k.toNat = some x ∧
      x.arr x.rp = x.exp x.rp ∧ x.failed.getD x.rp none = none)
    fun s t g => Moved (s.acquire g.warp (x.got.getD x.rp {})) t g (onward g) ∧
      GotWord s t g f.h f.d (fun _ _ => BitVec.ofNat 32 x.rp)) ∧
  (∀ (f : SpK) (x : Spool), Completes (.sprel f)
    (fun s g => Some1 f.h s g ∧ s.spool? g.crewK f.k.toNat = some x ∧ x.arr x.rp = x.exp x.rp)
    fun s t g => ∃ y : Spool, GoesOn (s.setSpool g.crewK f.k.toNat y) t g ∧ y.rp = (x.rp + 1) % x.ns ∧ y.ns = x.ns) ∧
  (∀ f : SpD, Completes (.spqry f) (Some1 f.h) fun s t g => Moved s t g (onward g) ∧
    GotWord s t g f.h f.d (fun _ _ => BitVec.ofNat 32 (spqryWord (s.spool? g.crewK f.k.toNat)))) ∧
  (∀ (f : Tcopy) (x : Nat → Tensor) (d : Nat → Nat) (op : State → WarpKey → Nat → ReqOp),
    op = (fun s k l => .tcopy (x l) f.kind f.st (d l) (coords (s.warp k) l [f.b, f.c, f.e, f.f, f.g])) → Completes (.tcopy f)
    (fun s g => Some1 f.h s g ∧ s.slotOk g.crewK f.spool f.slot = true ∧ Ordered s g ∧
      Room s (atCore s g f.h (op s g.warp)) ∧ ∀ l ∈ s.taking g f.h,
      s.readTensor g.warp ((s.warp g.warp).pair f.a l).toNat (4 * 2 ^ 20) = .ok (x l) ∧
      s.imageAt g.warp (x l) f.kind f.tile.toNat (imageReg (s.warp g.warp) f.kind f.d l) = .ok (d l))
    fun s t g => Queues s (s.sawRecords g.warp ((s.taking g f.h).map (fun l => ((s.warp g.warp).pair f.a l).toNat))) t g
      (atCore s g f.h (op s g.warp)) (.slot f.spool.toNat f.slot.toNat)) ∧
  (∀ (f : Tcred) (x : Nat → Tensor) (d : Nat → Nat) (op : State → WarpKey → Nat → ReqOp),
    op = (fun s k l => .tcred (x l) f.kind f.ty f.op (d l) (coords (s.warp k) l [f.b, f.c, f.e, f.f, f.g])) → Completes (.tcred f)
    (fun s g => Some1 f.h s g ∧ s.slotOk g.crewK f.spool f.slot = true ∧ Ordered s g ∧
      Room s (atCore s g f.h (op s g.warp)) ∧ ∀ l ∈ s.taking g f.h,
      s.readTensor g.warp ((s.warp g.warp).pair f.a l).toNat (64 * 1024) = .ok (x l) ∧ (x l).ebytes = atyBytes f.ty ∧
      s.imageAt g.warp (x l) f.kind f.tile.toNat (imageReg (s.warp g.warp) f.kind f.d l) = .ok (d l))
    fun s t g => Queues s (s.sawRecords g.warp ((s.taking g f.h).map (fun l => ((s.warp g.warp).pair f.a l).toNat))) t g
      (atCore s g f.h (op s g.warp)) (.slot f.spool.toNat f.slot.toNat)) ∧
  (∀ (f : Dcopy) (op : State → WarpKey → Nat → ReqOp), op = (fun s k l =>
      if f.kv then .dcopyKv f.fmt.toNat ((s.warp k).pair f.d l).toNat ((s.warp k).rg f.b.toNat l).toNat ((s.warp k).pair f.a l).toNat s.dir
      else .dcopyPage ((s.warp k).pair f.d l).toNat ((s.warp k).pair f.a l).toNat s.dir) → Completes (.dcopy f)
    (fun s g => Some1 f.h s g ∧ s.slotOk g.crewK f.spool f.slot = true ∧ Room s (atCore s g f.h (op s g.warp)) ∧ ∀ l ∈ s.taking g f.h,
      ((s.warp g.warp).pair f.d l).toNat % (if f.kv then 64 else 4096) = 0 ∧ ((s.warp g.warp).pair f.a l).toNat % 4096 = 0)
    fun s t g => Queues s s t g (atCore s g f.h (op s g.warp)) (.slot f.spool.toNat f.slot.toNat)) ∧
  (∀ f : Pgmove, Completes (.pgin f)
      (fun s g => Some1 f.h s g ∧ s.slotOk g.crewK f.spool f.slot = true ∧ Room s (pageMoves s g f 0) ∧
        ∀ l ∈ s.taking g f.h, ((s.warp g.warp).pair f.a l).toNat % 64 = 0)
      (fun s t g => Queues s s t g (pageMoves s g f 0) (.slot f.spool.toNat f.slot.toNat)) ∧
    Completes (.pgmove f)
      (fun s g => Some1 f.h s g ∧ s.slotOk g.crewK f.spool f.slot = true ∧ Room s (pageMoves s g f f.tier.toNat) ∧
        ∀ l ∈ s.taking g f.h, ((s.warp g.warp).pair f.a l).toNat % 64 = 0)
      fun s t g => Queues s s t g (pageMoves s g f f.tier.toNat) (.slot f.spool.toNat f.slot.toNat)) ∧
  (∀ (f : CallX) (n : Nat → Nat), Completes (.crcchk f)
    (fun s g => ∀ l ∈ s.taking g f.h, s.crcLane g.warp (globalVa f.a 0 s g.warp l) = .ok (n l))
    fun s t g => Leaves s t g [f.d.toNat] ((s.taking g f.h).map (fun l => (f.d.toNat, l, BitVec.ofNat 32 (n l)))) []) ∧
  (∀ (f : Accx) l ls, f.s = true → Completes (.accld f)
    (fun s g => s.taking g f.h = l :: ls ∧ Ordered s g ∧
      s.imageCheck g.warp f false (accAddr (s.warp g.warp) f l) = .ok ())
    fun s t g => Leaves s t g [] [] [(g.crewK, f.k.toNat, imageWords (256 * f.row0.toNat) (256 * (f.n1.toNat + 1))
      (s.scratchBytes g.crewK (accAddr (s.warp g.warp) f l) (1024 * (f.n1.toNat + 1))))]) ∧
  (∀ (f : Accx) l ls b v, f.s = false → Completes (.accld f)
    (fun s g => s.taking g f.h = l :: ls ∧ Ordered s g ∧
      s.imageCheck g.warp f false (accAddr (s.warp g.warp) f l) = .ok () ∧
      s.takeRead ⟨s.coreOf g.warp, g.ctx, !s.privOf g.warp, 0⟩ (accAddr (s.warp g.warp) f l) (1024 * (f.n1.toNat + 1)) true = .ok (b, v))
    fun _ t g => Leaves v t g [] [] [(g.crewK, f.k.toNat, imageWords (256 * f.row0.toNat) (256 * (f.n1.toNat + 1)) b)]) ∧
  (∀ (f : Accx) l ls, f.s = true → Completes (.accst f)
    (fun s g => s.taking g f.h = l :: ls ∧ s.imageCheck g.warp f true (accAddr (s.warp g.warp) f l) = .ok ())
    fun s t g => GoesOn (s.scratchPut g.crewK (accAddr (s.warp g.warp) f l) ((List.range (256 * (f.n1.toNat + 1))).flatMap (fun i =>
      nbytes 4 (s.tileWord g.crewK f.k.toNat (256 * f.row0.toNat + i)).toNat))) t g) ∧
  (∀ (f : Accx) l ls, f.s = false → Completes (.accst f)
    (fun s g => s.taking g f.h = l :: ls ∧ s.imageCheck g.warp f true (accAddr (s.warp g.warp) f l) = .ok () ∧
      ∀ p ∈ accstPages s g f l, p.2.1.prot = false ∧ s.isBad p.2.1.pa p.2.2.length = false)
    fun s t g => Moved s t g (onward g) ∧ SameRegs s t g ∧ t.mem = s.mem ∧ ∀ p ∈ accstPages s g f l,
      ∀ x ∈ cutLines (p.2.2.length / 64 + 2) p.2.1.pa p.2.2, ∃ m ∈ t.msgs, m.k = .write x.1 x.2 (spaceOf p.2.1))
/-- A record instruction whose operation f on the record succeeds completes: in the state u that f leaves, its gang goes on and
the acknowledgement of its writes is on its way (R315, R114). -/
def Sys2Proof.RecordDone (i : Instr) (h : Hdr) (f : Cur → State → Nat → KvEnd) : Prop :=
  ∀ l ls u, Completes i (fun s g => s.taking g h = l :: ls ∧ Ordered s g ∧ f g s l = .ok (none, u))
    fun _ t g => GoesOn (u.ackOut g) t g
/-- Products, tile instructions, attention, selection and the record instructions complete. -/
def Sys2Proof.MatrixFormsComplete : Prop :=
  (∀ (f : Mma) l ls, Completes (.mma f) (fun s g => s.taking g f.h = l :: ls ∧
      s.mmaCheck g.crewK f ((s.warp g.warp).rg f.a.toNat l).toNat ((s.warp g.warp).rg f.b.toNat l).toNat 128 256 = .ok () ∧
      s.mmaBad g f ((s.warp g.warp).rg f.a.toNat l).toNat ((s.warp g.warp).rg f.b.toNat l).toNat 128 256 false = false)
    fun s t g => Leaves (s.count none 0x1F 32) t g [] [] [(g.crewK, f.dt.toNat, mmaRows f (s.tileWord g.crewK f.dt.toNat)
      (s.mmaA g f ((s.warp g.warp).rg f.a.toNat l).toNat 128) (s.mmaB g f ((s.warp g.warp).rg f.b.toNat l).toNat 256) 0 128)]) ∧
  (∀ (f : Mma) l ls, Completes (.mma2 f) (fun s g => s.taking g f.h = l :: ls ∧ s.pairOk g.crewK = true ∧
      s.mmaCheck g.crewK f ((s.warp g.warp).rg f.a.toNat l).toNat ((s.warp g.warp).rg f.b.toNat l).toNat 256 256 = .ok () ∧
      s.mmaBad g f ((s.warp g.warp).rg f.a.toNat l).toNat ((s.warp g.warp).rg f.b.toNat l).toNat 256 256 true = false)
    fun s t g => ∃ ws vs, Leaves (s.count none 0x1F 64) t g [] [] [(g.crewK, f.dt.toNat, ws), (partner g.crewK, f.dt.toNat, vs)]) ∧
  (∀ (f : Mma) l ls, Completes (.mmab f) (fun s g => s.taking g f.h = l :: ls ∧
      s.mmaCheck g.crewK f ((s.warp g.warp).rg f.a.toNat l).toNat ((s.warp g.warp).rg f.b.toNat l).toNat 512 1024 = .ok () ∧
      s.mmaBad g f ((s.warp g.warp).rg f.a.toNat l).toNat ((s.warp g.warp).rg f.b.toNat l).toNat 512 1024 false = false)
    fun s t g => ∃ ws, Leaves (s.count none 0x1F 32) t g [] [] [(g.crewK, f.dt.toNat, ws)]) ∧
  (∀ f : Tile1, Completes (.accz f) (fun s g => Some1 f.h s g ∧ f.k.toNat < (s.packetOf g.crewK).tiles)
    fun s t g => ∃ x, GoesOn (s.modCrew g.crewK (fun c => { c with tiles := x })) t g ∧
      ∀ b, 32768 * f.k.toNat ≤ b → b < 32768 * (f.k.toNat + 1) → sget x b = 0) ∧
  (∀ f : Accmov, f.mode = .tt → f.d ≠ f.a → Completes (.accmov f) (fun s g => Some1 f.h s g ∧ f.d.toNat < (s.packetOf g.crewK).tiles ∧
      f.a.toNat < (s.packetOf g.crewK).tiles ∧ s.tileBad g.crewK f.a.toNat 0 32768 = false)
    fun s t g => GoesOn (s.putTiles g.crewK f.d.toNat (s.wholeTile g.crewK f.a.toNat)) t g) ∧
  (∀ f : Accmov, f.mode = .tr → Completes (.accmov f) (fun s g => Some1 f.h s g ∧ f.b.toNat < (s.packetOf g.crewK).tiles ∧
      ∀ l ∈ s.taking g f.h, ∃ n, accKey ((s.warp g.warp).rg f.a.toNat l) = some n ∧ s.tileBad g.crewK f.b.toNat n 1 = false)
    fun s t g => Moved s t g (onward g) ∧ GotWord s t g f.h f.d (fun w l =>
      s.tileWord g.crewK f.b.toNat ((accKey (w.rg f.a.toNat l)).getD 0))) ∧
  (∀ f : Accmov, f.mode = .rt → Completes (.accmov f) (fun s g => Some1 f.h s g ∧ f.d.toNat < (s.packetOf g.crewK).tiles ∧
      ∀ l ∈ s.taking g f.h, (accKey ((s.warp g.warp).rg f.a.toNat l)).isSome = true)
    fun s t g => GoesOn (s.putTiles g.crewK f.d.toNat ((s.taking g f.h).map (fun l =>
      ((accKey ((s.warp g.warp).rg f.a.toNat l)).getD 0, (s.warp g.warp).rg f.b.toNat l)))) t g) ∧
  (∀ f : Accscl, Completes (.accscl f) (fun s g => Some1 f.h s g ∧ f.k.toNat < (s.packetOf g.crewK).tiles ∧
      f.j.toNat < (s.packetOf g.crewK).tiles ∧ s.tileBad g.crewK f.k.toNat 0 32768 = false ∧
      ∀ i, i < 128 → s.tileBad g.crewK f.j.toNat (256 * i + f.col.toNat) 1 = false)
    fun s t g => GoesOn (s.putTiles g.crewK f.k.toNat ((List.range 32768).map (fun i => (i, rne (mulX (f32 (s.tileWord g.crewK f.k.toNat i))
      (f32 (s.tileWord g.crewK f.j.toNat (256 * (i / 256) + f.col.toNat)))))))) t g) ∧
  (∀ (f : Attn) l ls r ps cs u, Completes (.attn f) (fun s g => s.taking g f.h = l :: ls ∧ Ordered s g ∧
      s.attnPages g f ((s.warp g.warp).pair f.a l).toNat ((s.warp g.warp).rg f.b.toNat l).toNat ((s.warp g.warp).rg f.d.toNat l).toNat =
        .ok (r, ps) ∧ (∀ p ∈ ps, p.2.readers ≠ 0xFFFF) ∧ s.loadPages (s.kvMaster g.warp) r ps = .ok cs ∧
      s.missFull (s.kvMaster g.warp) r (cs.filter (·.data.isNone)) = none ∧
      (s.sawPages (s.kvMaster g.warp) r cs).storeCaptures (s.kvMaster g.warp) (s.coreOf g.warp) cs = .ok u)
    fun s t g => ∃ ow sw, Leaves (((cs.filter (·.data.isNone)).foldl (fun v c => v.tierMiss g (s.kvMaster g.warp) r c)
          (u.modWarp g.warp (fun w => { w with caps := w.caps ++ ((cs.filter (·.data.isSome)).map
            (fun c => ⟨r.addr, c.page, c.va, r.dim, f.s.toNat, !s.privOf g.warp⟩)) }))).ackOut g)
        t g [] [] [(g.crewK, f.o.toNat, ow), (g.crewK, f.s.toNat, sw)] ∧ (stKey 4 252, BitVec.ofNat 32 r.dim) ∈ sw) ∧
  (∀ (f : Attnfin) l ls, Completes (.attnfin f) (fun s g => s.taking g f.h = l :: ls ∧ Ordered s g ∧
      s.tileOk g.crewK f.o = true ∧ s.tileOk g.crewK f.s = true ∧ f.o ≠ f.s ∧ s.stateBad g.crewK f.o.toNat f.s.toNat = false ∧
      s.heldSlots g.crewK f.s.toNat = [])
    fun s t g => ∃ ow sw, Leaves s t g [] [] [(g.crewK, f.o.toNat, ow), (g.crewK, f.s.toNat, sw)] ∧ (stKey 0 252, 0#32) ∈ sw) ∧
  (∀ (f : Attnfin) l ls r u, Completes (.attnfin f) (fun s g => s.taking g f.h = l :: ls ∧ Ordered s g ∧
      s.tileOk g.crewK f.o = true ∧ s.tileOk g.crewK f.s = true ∧ f.o ≠ f.s ∧ s.stateBad g.crewK f.o.toNat f.s.toNat = false ∧
      s.heldSlots g.crewK f.s.toNat ≠ [] ∧ s.readKsr (s.kvMaster g.warp) (s.attnHead g.crewK f.s.toNat).ksr = .ok r ∧
      (s.sawKsr (s.kvMaster g.warp) r ((s.heldSlots g.crewK f.s.toNat).map (·.2))).finSlots (s.kvMaster g.warp) (s.coreOf g.warp) r
        (fun j => if f.nomass then 0
        else (List.range (min (s.attnHead g.crewK f.s.toNat).nr 128)).foldl (fun n i => n + massOf
          (f32 (s.st g.crewK f.s.toNat i (4 + 2 * j))) (f32 (s.st g.crewK f.s.toNat i (5 + 2 * j)))
          (f32 (s.st g.crewK f.s.toNat i 0)) (f32 (s.st g.crewK f.s.toNat i 1))) 0) (s.heldSlots g.crewK f.s.toNat) = .ok u)
    fun s t g => ∃ ow sw, Leaves (((s.heldSlots g.crewK f.s.toNat).foldl (fun v p => v.dropCap g.crewK (fun c =>
          c.tile = f.s.toNat && c.ksr = (s.attnHead g.crewK f.s.toNat).ksr && c.page = p.2)) u).ackOut g)
        t g [] [] [(g.crewK, f.o.toNat, ow), (g.crewK, f.s.toNat, sw)] ∧ (stKey 0 252, 0#32) ∈ sw) ∧
  (∀ f : Smmerge, Completes (.smmerge f) (fun s g => Some1 f.h s g ∧
      (∀ x ∈ [f.o1, f.s1, f.o2, f.s2], s.tileOk g.crewK x = true) ∧ [f.o1, f.s1, f.o2, f.s2].Nodup ∧
      (s.attnHead g.crewK f.s1.toNat).ksr = (s.attnHead g.crewK f.s2.toNat).ksr ∧
      (s.attnHead g.crewK f.s1.toNat).nr = (s.attnHead g.crewK f.s2.toNat).nr ∧
      (s.attnHead g.crewK f.s1.toNat).dim = (s.attnHead g.crewK f.s2.toNat).dim ∧
      (s.attnHead g.crewK f.s1.toNat).ns + (s.attnHead g.crewK f.s2.toNat).ns ≤ 64 ∧
      (∀ i j, i < (s.attnHead g.crewK f.s1.toNat).ns → j < (s.attnHead g.crewK f.s2.toNat).ns →
        s.slotPage g.crewK f.s1.toNat i ≠ s.slotPage g.crewK f.s2.toNat j) ∧
      s.stateBad g.crewK f.o1.toNat f.s1.toNat = false ∧ s.stateBad g.crewK f.o2.toNat f.s2.toNat = false)
    fun s t g => ∃ ow sw, Leaves (s.mapCaps g.crewK (fun x => x.map (fun c => if c.tile = f.s2.toNat then { c with tile := f.s1.toNat } else c)))
        t g [] [] [(g.crewK, f.o1.toNat, ow), (g.crewK, f.s1.toNat, sw), (g.crewK, f.s2.toNat, [(stKey 0 252, 0)])] ∧
      (stKey 0 252, BitVec.ofNat 32 ((s.attnHead g.crewK f.s1.toNat).ns + (s.attnHead g.crewK f.s2.toNat).ns)) ∈ sw) ∧
  (∀ (f : Select) l ls k sums, Completes (.select f) (fun s g => s.taking g f.h = l :: ls ∧ Ordered s g ∧
      ((s.warp g.warp).rg f.b.toNat l).toNat % 16 = 0 ∧ ((s.warp g.warp).rg f.f.toNat l).toNat % 64 = 0 ∧
      0 < ((s.warp g.warp).rg f.g.toNat l).toNat ∧ ((s.warp g.warp).rg f.g.toNat l).toNat % 16 = 0 ∧
      s.readKsr (s.kvMaster g.warp) ((s.warp g.warp).pair f.a l).toNat = .ok k ∧
      ((s.warp g.warp).rg f.b.toNat l).toNat + 2 * k.dim ≤ s.scratchSize g.crewK ∧
      ((s.warp g.warp).rg f.f.toNat l).toNat + 4 * ((s.warp g.warp).rg f.g.toNat l).toNat ≤ s.scratchSize g.crewK ∧
      s.scratchBad g.crewK ((s.warp g.warp).rg f.b.toNat l).toNat (2 * k.dim) = false ∧
      s.readSummaries (s.kvMaster g.warp) k ((List.range k.pages).filter k.isLive) = .ok sums)
    fun s t g =>
      let q := (List.range k.dim).map (fun j => dec fBf16 (leNat (s.scratchBytes g.crewK (((s.warp g.warp).rg f.b.toNat l).toNat + 2 * j) 2)))
      let ps := chosen k ((s.warp g.warp).rg f.e.toNat l).toNat (scoreOf q (f32 ((s.warp g.warp).rg f.c.toNat l))) sums
      Leaves (((sums.map (·.1)).foldl (fun v pg => v.sawRead (s.kvMaster g.warp) (k.summVa pg) (2 * k.dim + 8))
          (s.sawRead (s.kvMaster g.warp) k.addr 64)).scratchPut g.crewK ((s.warp g.warp).rg f.f.toNat l).toNat
          ((selectOut ((s.warp g.warp).rg f.g.toNat l).toNat ps).flatMap (nbytes 4)))
        t g [f.d.toNat] ((l :: ls).map (fun x => (f.d.toNat, x, BitVec.ofNat 32 ps.length))) []) ∧
  (∀ f : Kvapp, RecordDone (.kvapp f) f.h fun g s l =>
    s.kvapp g ((s.warp g.warp).pair f.a l).toNat ((s.warp g.warp).rg f.b.toNat l).toNat ((s.warp g.warp).rg f.c.toNat l).toNat) ∧
  (∀ f : OnlyA, RecordDone (.kvroll f) f.h fun g s l => s.kvroll g ((s.warp g.warp).pair f.a l).toNat) ∧
  (∀ f : KvAB, (RecordDone (.kvcommit f) f.h fun g s l =>
      s.kvcommit g ((s.warp g.warp).pair f.a l).toNat ((s.warp g.warp).rg f.b.toNat l).toNat) ∧
    (RecordDone (.kvclose f) f.h fun g s l => s.readKsr (s.kvMaster g.warp) ((s.warp g.warp).pair f.a l).toNat >>= fun k =>
      if k.isFull ((s.warp g.warp).rg f.b.toNat l).toNat then
        s.summarise (s.kvMaster g.warp) (s.coreOf g.warp) k ((s.warp g.warp).rg f.b.toNat l).toNat
      else .error (bad .kvFormat)) ∧
    (RecordDone (.kvpin f) f.h fun g s l =>
      s.setPin g true ((s.warp g.warp).pair f.a l).toNat ((s.warp g.warp).rg f.b.toNat l).toNat) ∧
    (RecordDone (.kvunpin f) f.h fun g s l =>
      s.setPin g false ((s.warp g.warp).pair f.a l).toNat ((s.warp g.warp).rg f.b.toNat l).toNat) ∧
    (RecordDone (.demreq f) f.h fun g s l =>
      s.demreq g ((s.warp g.warp).pair f.a l).toNat ((s.warp g.warp).rg f.b.toNat l).toNat) ∧
    (RecordDone (.kvstep f) f.h fun g s l =>
      s.kvstep g ((s.warp g.warp).pair f.a l).toNat ((s.warp g.warp).rg f.b.toNat l).toNat)) ∧
  (∀ f : Kvinfo, f.tmiss = true → Completes (.kvinfo f) (fun s g => Some1 f.h s g ∧ Ordered s g ∧ (s.ctx g.ctx).tierMiss = [])
    fun s t g => Leaves s t g ((List.range 4).map (f.d.toNat + ·)) (fourWrites f.d (s.taking g f.h) [0, 0, 0, 0]) []) ∧
  (∀ (f : Kvinfo) l ls k p, f.tmiss = false → Completes (.kvinfo f) (fun s g => s.taking g f.h = l :: ls ∧ Ordered s g ∧
      s.readKsr (s.kvMaster g.warp) ((s.warp g.warp).pair f.a l).toNat = .ok k ∧
      s.kvPage (s.kvMaster g.warp) k ((s.warp g.warp).rg f.b.toNat l).toNat = .ok p)
    fun s t g => Leaves (s.sawKsr (s.kvMaster g.warp) k [((s.warp g.warp).rg f.b.toNat l).toNat])
      t g ((List.range 4).map (f.d.toNat + ·)) (fourWrites f.d (l :: ls)
      [p.cur.lo, p.cur.hi, BitVec.ofNat 32 p.mass, BitVec.ofNat 32 (p.readers + 65536 * p.flags.toNat)]) [])
/-- Every form of the special registers' reads and writes and of groups 4 to 6 completes, with its own effect, where its
operands pass its checks and nothing that it waits for is under way.
In the clauses that logs 20, 21, 23, 25 to 30, 32, 70, 72, 73, 75, 77, 87, 88, 91 name it states the model's reading. -/
def Obligations.MemoryCopyMatrixComplete : Prop := MemoryFormsComplete ∧ CopyFormsComplete ∧ MatrixFormsComplete

/-- Every slice of the gang stands in the wait, at its instruction; no register and no byte of memory has changed. -/
def Sys2Proof.GangWaits (s t : State) (g : Cur) (x : Wait) : Prop :=
  SameRegs s t g ∧ t.mem = s.mem ∧ ∀ i (y : Slice), (s.warp g.warp).slices[i]? = some y → g.slices.getLsbD i = true →
    (t.warp g.warp).slices[i]? = some { y with wait := x }
/-- A device-scope release in front of the instruction is complete, in a wait or now (R116, R346). -/
def Sys2Proof.RelDone (s : State) (g : Cur) : Prop :=
  ((s.warp g.warp).slice g.gang.slice).relDone = true ∨ s.relReady g.warp .device = true
/-- The state behind that release. -/
def Sys2Proof.released (s : State) (g : Cur) : State :=
  if ((s.warp g.warp).slice g.gang.slice).relDone then s else s.relDo g.warp .device
/-- An update of an event by its instruction leaves for the event's home (R346). -/
def Sys2Proof.EventLeaves (i : Instr) (h : Hdr) (nm : EvName) (set_ : Bool) (v : Warp → Nat → Word) : Prop :=
  ∀ l ls, Completes i (fun s g => s.taking g h = l :: ls ∧ s.noEvents g.ctx = false ∧ RelDone s g) fun s t g =>
    SameRegs s t g ∧ t.mem = s.mem ∧ Moved (released s g) t g (onward g) ∧
    ∃ m ∈ t.msgs, m.warp = some g.warp ∧ m.k = .event (eventName (s.warp g.warp) l nm) set_ (v (s.warp g.warp) l)
/-- A post leaves for the Teller, and D waits for its status (R351). -/
def Sys2Proof.PostLeaves (i : Instr) (h : Hdr) (slot : Nat) (d a : Reg) (n : Nat) (off : Warp → Nat → Nat) : Prop :=
  ∀ l ls tt x m hs, Completes i (fun s g => s.taking g h = l :: ls ∧ s.ballot g.crewK slot = some (tt, x, m) ∧
      (s.warp g.warp).pending = false ∧ (n = 0 ∨ (off (s.warp g.warp) l % 8 = 0 ∧ off (s.warp g.warp) l + 8 * n ≤ s.scratchSize g.crewK)) ∧
      hs = (List.range n).map (fun j => le64 (s.scratchBytes g.crewK (off (s.warp g.warp) l) (8 * n)) (8 * j)) ∧ (∀ v ∈ hs, v % 64 = 0) ∧
      (n = 0 ∨ s.scratchBad g.crewK (off (s.warp g.warp) l) (8 * n) = false) ∧
      (x.members.getD m { crew := 0 }).st = .running ∧ s.posting tt m = false ∧
      (x.members.getD m { crew := 0 }).holds.length + n ≤ 256 ∧ x.members.foldl (fun c y => c + y.holds.length) (s.holdsOut tt) + n ≤ 4096)
    fun s t g => Awaits s t g [d.toNat] ∧ ∃ y ∈ t.msgs, y.k = .post tt m ((s.warp g.warp).pair a l) hs s.nextId (l :: ls) d.toNat
/-- Barriers, events, tasks, the ballot, launches, sleep and counters complete: CBAR, GBAR and EVWAIT in their wait, the others
with the gang behind them. -/
def Sys2Proof.SyncFormsComplete : Prop :=
  (∀ f : Cbar, Completes (.cbar f) (fun s g => Some1 f.h s g ∧ (s.warp g.warp).pending = false ∧ (s.crew g.crewK).bars.length = 8)
    fun s t g => GangWaits s t g (.cbar f.n.toNat g.len) ∧ g.warp ∈ ((t.crew g.crewK).bars.getD f.n.toNat ⟨0, []⟩).arrived) ∧
  (∀ (f : Gbar) i, Completes (.gbar f) (fun s g => Some1 f.h s g ∧ (s.warp g.warp).pending = false ∧
      s.groupOf g.crewK f.g.toNat false = some i)
    fun s t g => GangWaits s t g (.gbar i g.len) ∧ ∀ y, (s.launch g.ctx g.crewK.launch).groups[i]? = some y →
      ∃ z, (t.launch g.ctx g.crewK.launch).groups[i]? = some z ∧ g.warp ∈ z.bar.arrived) ∧
  (∀ f : Ev, EventLeaves (.evadd f) f.h f.nm false (fun w l => w.rg f.b.toNat l) ∧
    EventLeaves (.evset f) f.h f.nm true fun w l => w.rg f.b.toNat l) ∧
  (∀ f : EvI, EventLeaves (.evadd96i f) f.h f.nm false (fun _ _ => f.imm) ∧ EventLeaves (.evset96i f) f.h f.nm true fun _ _ => f.imm) ∧
  (∀ (f : Evwait) l ls, Completes (.evwait f) (fun s g => s.taking g f.h = l :: ls ∧ (s.warp g.warp).pending = false ∧ s.noEvents g.ctx = false)
    fun s t g => GangWaits s t g (.event f.eq (eventName (s.warp g.warp) l f.nm) g.len) ∧ ∃ m ∈ t.msgs, m.warp = some g.warp ∧
      ∃ seq, m.k = .evwait (eventName (s.warp g.warp) l f.nm) f.eq g.gang.slice seq) ∧
  (∀ (f : Evtest) l ls v, Completes (.evtest f) (fun s g => s.taking g f.h = l :: ls ∧ s.noEvents g.ctx = false ∧
      s.evSent g.warp (eventName (s.warp g.warp) l f.nm) = false ∧ s.evRead g.ctx (eventName (s.warp g.warp) l f.nm) = .ok v)
    fun s t g => Moved s t g (onward g) ∧ t.mem = (s.evSeen g.ctx (eventName (s.warp g.warp) l f.nm)).mem ∧ GotWord s t g f.h f.d fun _ _ =>
      if (if f.eq then v.count = 0 else v.count.toInt ≤ 0) then 1 else 0) ∧
  (∀ (f : Taskput) l ls v u, Completes (.taskput f) (fun s g => s.taking g f.h = l :: ls ∧ s.noEvents g.ctx = false ∧ RelDone s g ∧
      (s.ctx g.ctx).desc.taskArea ≠ 0 ∧ s.evSent g.warp (eventName (s.warp g.warp) l f.nm) = false ∧
      (released s g).evRead g.ctx (eventName (s.warp g.warp) l f.nm) = .ok v ∧ v.task.getLsbD 63 = false ∧
      ((released s g).evSeen g.ctx (eventName (s.warp g.warp) l f.nm)).taskPut g.ctx (eventName (s.warp g.warp) l f.nm) f.cls.toNat ((s.warp g.warp).pair f.b l) = .ok u)
    fun _ t g => GoesOn u t g) ∧
  (∀ (f : Taskpop) ws u, Completes (.taskpop f) (fun s g => Some1 f.h s g ∧ s.noEvents g.ctx = false ∧
      (s.ctx g.ctx).desc.taskArea ≠ 0 ∧ s.taskTakes g.ctx f.cls.toNat f.d.toNat (s.taking g f.h) = .ok (ws, u))
    fun _ t g => Leaves u t g [f.d.toNat, f.d.toNat + 1] ws []) ∧
  (∀ f : Sibpost, PostLeaves (.sibpost f) f.h f.g.toNat f.d f.a 0 fun _ _ => 0) ∧
  (∀ f : SibpostC, PostLeaves (.sibpost96c f) f.h f.g.toNat f.d f.a f.n.toNat fun w l => (w.rg f.c.toNat l).toNat) ∧
  (∀ (f : Sibqry) l ls e tt me, Completes (.sibqry f) (fun s g => s.taking g f.h = l :: ls ∧ s.ballot g.crewK f.g.toNat = some (e, tt, me) ∧
      s.posting e me = false ∧ (f.member = true → ((s.warp g.warp).rg f.b.toNat l).toNat < tt.members.length))
    fun s t g => Moved s t g (onward g) ∧ t.mem = s.mem ∧ ∀ r k, k < 32 → (t.warp g.warp).rg r k =
      if f.d.toNat ≤ r ∧ r < f.d.toNat + 4 ∧ k ∈ l :: ls then
        (if f.member then s.memberWords tt (tt.members.getD ((s.warp g.warp).rg f.b.toNat l).toNat { crew := 0 }) else tt.groupWords).getD (r - f.d.toNat) 0
      else (s.warp g.warp).rg r k) ∧
  (∀ (f : Sibcancel) e tt me, Completes (.sibcancel f) (fun s g => Some1 f.h s g ∧ s.ballot g.crewK f.g.toNat = some (e, tt, me) ∧
      s.posting e me = false ∧
      ∀ l ∈ s.taking g f.h, (if f.self then me else ((s.warp g.warp).rg f.b.toNat l).toNat) < tt.members.length)
    fun s t g => GoesOn ((s.taking g f.h).foldl (fun u l =>
      u.cancelMember e (if f.self then me else ((s.warp g.warp).rg f.b.toNat l).toNat)) s) t g) ∧
  (∀ (f : DAB) (bs : List (Nat × List Byte)), Completes (.launch f) (fun s g => Some1 f.h s g ∧ bs.map (·.1) = s.taking g f.h ∧
      RelDone s g ∧ Ordered s g ∧ ∀ x ∈ bs, ((s.warp g.warp).pair f.a x.1).toNat % 64 = 0 ∧ ((s.warp g.warp).pair f.b x.1).toNat % 4 = 0 ∧
        (released s g).recordRead g.warp ((s.warp g.warp).pair f.a x.1).toNat 64 = .ok x.2)
    fun s t g =>
      let r := launchAll g.ctx (s.privOf g.warp) (fun l => ((s.warp g.warp).pair f.b l).toNat) bs
        ((released s g).sawRecords g.warp ((s.taking g f.h).map (fun l => ((s.warp g.warp).pair f.a l).toNat)))
      Quiet r.2 t g (onward g) ∧ GotPair s t g f.h f.d fun _ l =>
        let y := (r.1.find? (fun y => y.1 = l)).getD (l, 0, 0); BitVec.ofNat 32 y.2.2 ++ BitVec.ofNat 32 y.2.1) ∧
  (∀ (f : OnlyB) l ls, Completes (.sleep f) (fun s g => s.taking g f.h = l :: ls) fun s t g =>
    if (s.warp g.warp).rg f.b.toNat l = 0 then GoesOn s t g
    else GangWaits s t g (.sleep (s.time + ((s.warp g.warp).rg f.b.toNat l).toNat) g.len)) ∧
  (∀ (f : NopI), Completes (.sleep96i f) (Some1 f.h) fun s t g =>
    if f.imm = 0 then GoesOn s t g else GangWaits s t g (.sleep (s.time + f.imm.toNat) g.len)) ∧
  (∀ (s : State) (k : GangKey) d len, ((s.warp k.warp).slice k.slice).wait = .sleep d len →
    ∃ t, exec (.sleepWake k) s = .next t ∧ t.time = max s.time d ∧ t.mem = (s.elapse (d - s.time)).mem) ∧
  (∀ f : Perf, Completes (.perf f) Always fun s t g => Moved s t g (onward g) ∧ t.mem = s.mem ∧ GotPair s t g f.h f.d (fun _ _ =>
    BitVec.ofNat 64 (if f.dev then s.scr.prfCnt.getD (f.code.toNat % 8) 0 else (aget (s.ctx g.ctx).counts f.code.toNat).getD 0)))
/-- SVC takes TRAP at privilege 0 and goes on at privilege 1; RTE, CACHEOP, TLBOP and CTXOP complete where their operands pass
their checks; a Uaten-2 word completes as its counterpart (17.6, 17.7, 12.8). -/
def Sys2Proof.SystemFormsComplete : Prop :=
  (∀ f : Code8, Completes (.svc f) (fun s g => Some1 f.h s g ∧ s.privOf g.warp = false)
      (fun s t g => t = s.takeFault g { code := .trap, lanes := s.taking g f.h }) ∧
    Completes (.svc f) (fun s g => Some1 f.h s g ∧ s.privOf g.warp = true) GoesOn) ∧
  (∀ (f : Rte) l ls, Completes (.rte f) (fun s g => s.taking g f.h = l :: ls ∧ RelDone s g ∧
      (released s g).heldOn g.ctx ((s.warp g.warp).pair f.b l).toNat = none)
    fun s t g => GoesOn (released s g) t g) ∧
  (∀ (f : Rte) l ls k h r, Completes (.rte f) (fun s g => s.taking g f.h = l :: ls ∧ RelDone s g ∧ r.kind = .p ∧
      (released s g).heldOn g.ctx ((s.warp g.warp).pair f.b l).toNat = some (k, h, r))
    fun s t g => GoesOn ((released s g).rteDo f.mode k h) t g) ∧
  (∀ (f : Cacheop) l ls, Completes (.cacheop f) (fun s g => s.taking g f.h = l :: ls ∧ Ordered s g ∧ (s.warp g.warp).rg f.b.toNat l = 0)
    fun s t g => GoesOn (s.cacheDo f.kind (fun _ => true) (fun _ => true)) t g) ∧
  (∀ (f : Cacheop) l ls ns, Completes (.cacheop f) (fun s g => s.taking g f.h = l :: ls ∧ Ordered s g ∧ (s.warp g.warp).rg f.b.toNat l ≠ 0 ∧
      s.cacheLines g.warp (cachePages ((s.warp g.warp).pair f.a l).toNat ((s.warp g.warp).rg f.b.toNat l).toNat) = .ok ns)
    fun s t g => GoesOn (s.cacheDo f.kind ns.contains (fun b =>
      (b.ctx = g.ctx && decide (((s.warp g.warp).pair f.a l).toNat / 64 * 64 ≤ 32 * b.block) && decide (32 * b.block <
        (((s.warp g.warp).pair f.a l).toNat + ((s.warp g.warp).rg f.b.toNat l).toNat + 63) / 64 * 64)) || ns.contains (b.pa / 2))) t g) ∧
  (∀ (f : Tlbop) l ls, f.kind ≠ .resolve → Completes (.tlbop f) (fun s g => s.taking g f.h = l :: ls ∧
      (f.kind = .all ∨ ((s.warp g.warp).rg f.b.toNat l).toNat < 64) ∧
      s.accessOut (f.kind == .all) ((s.warp g.warp).rg f.b.toNat l).toNat = false)
    fun s t g => ∃ u, GoesOn u t g ∧ TlbDropped f.kind ((s.warp g.warp).pair f.a l).toNat ((s.warp g.warp).rg f.b.toNat l).toNat s u) ∧
  (∀ (f : Tlbop) l ls, f.kind = .resolve → Completes (.tlbop f) (fun s g => s.taking g f.h = l :: ls ∧
      ((s.warp g.warp).rg f.b.toNat l).toNat < 64)
    fun s t g => GoesOn (s.resolve ((s.warp g.warp).rg f.b.toNat l).toNat ((s.warp g.warp).pair f.a l).toNat) t g) ∧
  (∀ (f : Ctxop) l ls b d c, f.op = .create → Completes (.ctxop f) (fun s g => s.taking g f.h = l :: ls ∧ (aget s.warps g.warp).isSome = true ∧
      c = ((s.warp g.warp).rg f.b.toNat l).toNat ∧ c < 64 ∧ s.hasCtx c = false ∧
      ((s.warp g.warp).pair f.a l).toNat % 64 = 0 ∧ Ordered s g ∧
      s.recordRead g.warp ((s.warp g.warp).pair f.a l).toNat 64 = .ok b ∧ descOf b = some d)
    fun _ t g => (t.ctx c).desc = d ∧ ∀ x ∈ l :: ls, (t.warp g.warp).rg f.d.toNat x = 0) ∧
  (∀ (f : Ctxop) l ls c, f.op = .kill → Completes (.ctxop f) (fun s g => s.taking g f.h = l :: ls ∧
      c = ((s.warp g.warp).rg f.b.toNat l).toNat ∧ c < 63 ∧ s.hasCtx c = true)
    fun s t g => t = (s.startKill c none []).waitIn g (.ctxop .kill c (((s.warp g.warp).pair f.a l).toNat % 2 ^ 32) g.len f.d.toNat
      (BitVec.ofNat 32 (maskOf (l :: ls))) [])) ∧
  (∀ (f : Ctxop) l ls c n k ks, f.op = .preempt → Completes (.ctxop f) (fun s g => s.taking g f.h = l :: ls ∧
      c = ((s.warp g.warp).rg f.b.toNat l).toNat ∧ n = ((s.warp g.warp).pair f.a l).toNat % 2 ^ 32 ∧ c < 64 ∧ s.hasCtx c = true ∧
      s.killing c = false ∧ s.admitted c n = true ∧ s.runningCrews c n = k :: ks ∧ ∀ x ∈ k :: ks, x.ctx ≠ g.ctx)
    fun s t g => t = ((k :: ks).foldl (fun s x => s.askCrew x false true false) s).waitIn g (.ctxop .preempt c n g.len f.d.toNat
      (BitVec.ofNat 32 (maskOf (l :: ls))) (k :: ks))) ∧
  (∀ (f : Ctxop) l ls c n, f.op = .resume → Completes (.ctxop f) (fun s g => s.taking g f.h = l :: ls ∧
      c = ((s.warp g.warp).rg f.b.toNat l).toNat ∧ n = ((s.warp g.warp).pair f.a l).toNat % 2 ^ 32 ∧ c < 64 ∧ s.hasCtx c = true ∧
      s.killing c = false ∧ s.admitted c n = true ∧ (s.launch c n).fired = true ∧ (aget (s.resumeLaunch c n).warps g.warp).isSome = true)
    fun s t g => finish ((s.resumeLaunch c n).wrLanes g.warp (lanesWord f.d.toNat (l :: ls) 0)) g = .next t) ∧
  (∀ (f : Ctxop) l ls c n, f.op = .abort → Completes (.ctxop f) (fun s g => s.taking g f.h = l :: ls ∧
      c = ((s.warp g.warp).rg f.b.toNat l).toNat ∧ n = ((s.warp g.warp).pair f.a l).toNat % 2 ^ 32 ∧ c < 64 ∧ s.hasCtx c = true ∧
      s.killing c = false ∧ s.admitted c n = true ∧ (s.launch c n).fired = true ∧ (aget (s.abortLaunch c n).launches (c, n)).isSome = true)
    fun s t g => t = (s.abortLaunch c n).waitIn g (.ctxop .abort c n g.len f.d.toNat (BitVec.ofNat 32 (maskOf (l :: ls))) [])) ∧
  (∀ w i (s t : State), s.cur ≠ none → decodeU2 w = .ok i → exec i s = .next t → exec (.uaten2 w) s = .next t) ∧
  (∃ f : Bin, decodeU2 0x0803020A038D0080#64 = .ok (.iadd f) ∧ ∀ s g, Free (.iadd f) s g →
    ∃ t, exec (.uaten2 0x0803020A038D0080#64) s = .next t ∧ exec (.iadd f) s = .next t)
/-- The events of cores, homes, event tables, the Teller, schedulers and fault queues complete, each with what it is for (the
event rows of the opcode table, 02, 05 to 07, 09, 11). -/
def Sys2Proof.CoreRowsComplete : Prop :=
  (∀ s id p, s.pend? id = some p → p.left = 0 → p.tiles = [] → (aget s.warps p.warp).isSome = true →
    ∃ t, exec (.longLatencyResult id) s = .next t ∧ t.warp p.warp = (s.warp p.warp).wrs p.writes ∧
      t.pends = s.pends.filter (fun x => x.id ≠ p.id) ∧ t.mem = s.mem) ∧
  (∀ (s : State) (q : Quarter) k, (s.loom q.core q.quarter).length < 8 → s.swapPick q.core q.quarter = some k →
    ∃ t, exec (.swapIn q) s = .next t ∧ (t.warp k).place = .loom s.time ∧ t.mem = s.mem) ∧
  (∀ (s : State) (q : Quarter) b, 8 ≤ (s.loom q.core q.quarter).length → (∃ k ∈ s.creelReady q.core q.quarter, s.longReady k = true) →
    (∃ k ∈ s.loom q.core q.quarter, s.ready k = true) → s.swapPick q.core q.quarter = some b →
    ∃ a ∈ s.loom q.core q.quarter, s.ready a = true ∧ exec (.rotation q) s = .next ((s.toCreel a).enter b)) ∧
  (∀ (s : State) m line len parts, s.msg? m.id = some m → m.k = .fill line len parts → s.mustWait m = false →
    ∃ t r, exec (.homeFill m.id) s = .next t ∧ t.mem = s.mem ∧ aget t.lines line = some r ∧ s.time + len ≤ r.expiry) ∧
  (∀ (s : State) m pa d sp, s.msg? m.id = some m → m.k = .write pa d sp → s.mustWait m = false →
    ∃ t, exec (.homeWrite m.id) s = .next t ∧ t.mem = ssetList s.mem pa d) ∧
  (∀ (s : State) m pa ty op b dst sp, s.msg? m.id = some m → m.k = .atom pa ty op b dst sp → s.mustWait m = false →
    ∃ t, exec (.homeAtomic m.id) s = .next t ∧ t.mem = ssetList s.mem pa
      (nbytes (atyBytes ty) (aopNew ty op (s.rdNat pa (atyBytes ty)) (b.toNat % 2 ^ (8 * atyBytes ty))))) ∧
  (∀ (s : State) m pa ty b c q sp, s.msg? m.id = some m → m.k = .cas pa ty b c q sp → s.mustWait m = false →
    ∃ t, exec (.homeAtomic m.id) s = .next t ∧ t.mem =
      if s.rdNat pa (atyBytes ty) = b.toNat % 2 ^ (8 * atyBytes ty) then ssetList s.mem pa (nbytes (atyBytes ty) c.toNat) else s.mem) ∧
  (∀ (s : State) m pa ps sp, s.msg? m.id = some m → m.k = .ldby pa ps sp → s.mustWait m = false →
    ∃ t, exec (.homeLdby m.id) s = .next t ∧ t.mem = s.mem ∧
      t.pends = (ps.foldl (fun (u : State) q => u.answer q (s.rdNat pa q.size)) s).pends) ∧
  (∀ (s : State) m pa k q, s.msg? m.id = some m → m.k = .range pa k q → s.mustWait m = false →
    exec (.homeRangeLoad m.id) s = .next (((s.foldElem (pa / 8 * 8)).answer q ((s.foldElem (pa / 8 * 8)).rangeValue pa q.size k)).dropMsg m.id)) ∧
  (∀ (s : State) m wct k, s.msg? m.id = some m → m.k = .ack wct → m.warp = some k → (aget s.warps k).isSome = true →
    exec (.writeAck m.id) s = .next ((s.dropMsg m.id).modWarp k (fun w => { w with whz := max w.whz wct }))) ∧
  (∀ (s : State) core line x, s.l1Line core line = some x →
    ∃ t, exec (.l1LeaseExpiry core line) s = .next t ∧ t.time = max s.time x.expiry ∧ t.mem = (s.elapse (x.expiry - s.time)).mem) ∧
  (∀ (s : State) m e line ver len, s.msg? m.id = some m → m.k = .valid e line ver len → s.mustWait m = false →
    ∃ t x, exec (.ldeValidation m.id) s = .next t ∧ t.mem = s.mem ∧ x.line = line ∧ x.expiry = s.time + len ∧
      t.msgs = s.msgs.map (fun y => if y.id = m.id then
        { y with k := .answer e line ((aget s.lines line).any (fun r => r.version = ver)) x } else y)) ∧
  (∀ (s : State) m n line ok x, s.msg? m.id = some m → m.k = .answer n line ok x →
    ∃ t, exec (.validationAnswer m.id) s = .next t ∧ t.mem = s.mem ∧ t.clearing = s.clearing.map (fun e =>
      if e.id = n ∧ e.st = .pending then { e with st := if ok then .confirmed else .struck } else e)) ∧
  (∀ (s : State) (p : PeerPacket) d, p.op = .store d → region p.pa = .tier 0 → s.physOk p.pa 3 false true false = true →
    s.tableAllows (14 + p.port) p.pa 3 false true = true →
    p.pa % 4096 + d.length ≤ 4096 → s.isBad p.pa d.length = false →
    ∃ t, exec (.peerPacket p) s = .next t ∧ t.mem = ssetList s.mem p.pa d) ∧
  (∀ (s : State) m d wct, s.msg? m.id = some m → m.k = .settle d wct → wct ≤ s.time → m.ctx = 64 →
    exec (.peerSettle m.id) s = .next (s.dropMsg m.id)) ∧
  (∀ (s : State) m p0 i (k : WarpKey) a pa len lanes whole, s.msg? m.id = some m → m.k = .unheard p0 i → m.warp = some k →
    m.sent + 10000000 ≤ s.time → ((s.warp k).slice i).wait = .peer a pa len lanes whole →
    exec (.peerTimeout m.id) s = .next (((s.dropMsg m.id).modWarp k (fun w => w.modSlices ((s.warp k).gangOf i) (fun x => { x with wait := .none }))).takeFault
      ⟨k, (s.warp k).gangOf i, len, false⟩ { code := .uncorrectable, acc := a, addr := pa, lanes := (List.range 32).filter (lanes.getLsbD ·) })) ∧
  (∀ (s : State) m n a x u, s.msg? m.id = some m → m.k = .event n a x → (∀ w, m.warp = some w → s.evBefore w n m.id = false) →
    s.noEvents m.ctx = false → ((s.dropMsg m.id).evSeen m.ctx n).evUpdate m.ctx n a x = .ok u → exec (.eventUpdate m.id) s = .next (u.answered (.msg m.id))) ∧
  (∀ (s : State) m k n eq i seq v, s.msg? m.id = some m → m.k = .evwait n eq i seq → m.warp = some k → s.evBefore k n m.id = false →
    (s.dropMsg m.id).evRead m.ctx n = .ok v →
    (v.holds eq = true → exec (.eventWaitArrival m.id) s = .next ((((s.dropMsg m.id).answered (.msg m.id)).evSeen m.ctx n).evGo ⟨k, i⟩)) ∧
    (v.holds eq = false → seq = none → exec (.eventWaitArrival m.id) s =
      .next ((((s.dropMsg m.id).answered (.msg m.id)).evSeen m.ctx n).evPlace m.ctx n v ⟨m.id, ⟨k, i⟩, eq, v.zseq.toNat, v.lseq.toNat⟩))) ∧
  (∀ (s : State) o v, s.evOver.find? (fun x => x.w.id = o.w.id) = some o → s.evRead o.ctx o.name = .ok v → v.holds o.w.eq = true →
    exec (.eventReread o.w.id) s = .next (((({ s with evOver := s.evOver.filter (fun x => x.w.id ≠ o.w.id) } : State).answered (.over o.w.id)).evSeen o.ctx o.name).evGo o.w.gang)) ∧
  (∀ (s : State) m a b h hs p ls r, s.msg? m.id = some m → m.k = .post a b h hs p ls r →
    exec (.tellerPost m.id) s = .next (s.postLands m.id m.k)) ∧
  (∀ (s : State) e i tt va r u, aget s.teller e = some tt → (tt.members.getD i { crew := 0 }).holds = va :: r → tt.decided = true →
    tt.outcome ≠ .none → tt.winner ≠ some i → (tt.members.getD i { crew := 0 }).over = true →
    s.drained ⟨tt.ctx, tt.launch, (tt.members.getD i { crew := 0 }).crew⟩ = true → (∃ y ∈ tt.members, y.st ≠ .retired) →
    s.releasePage (unitOf tt.ctx tt.user va) none false 64 va = .ok (none, u) →
    ∃ t x, exec (.holdingRelease e i) s = .next t ∧ aget t.teller e = some x ∧ x.pages = tt.pages + 1 ∧ t.mem = u.mem) ∧
  (∀ (s : State) k u p, u = (s.unitOfCrew k).filter (fun x => match aget s.crews x with | some c => c.running | none => false) →
    u ≠ [] → s.killing k.ctx = false → (∀ x ∈ u, (s.crew x).preempt.isSome = true ∧ s.crewIdle x = true) → s.saveSpots [] u = some p →
    (∀ x ∈ p, s.recordBad x.1 x.2 false true = none) →
    exec (.preemptionSave k) s = .next (p.foldl (fun s x => s.saveCrew x.1 x.2) s)) ∧
  (∀ (s : State) k p, (s.crew k).preempt = some p → (s.crew k).running = true → p.at_ + p.limit ≤ s.time →
    exec (.forcedPreemption k) s = .next (s.modCrew k (fun c => { c with preempt := some { p with force := true } }))) ∧
  (∀ (s : State) c l tm, (aget s.launches (c, l)).bind (·.due) = some tm → (s.launch c l).fired = false → s.killing c = false →
    exec (.watchdogFire c l) s = .next { ({ s with time := tm }).fireNow c l with time := s.time }) ∧
  (∀ (s : State) c r w u, s.firstReport c = some r → s.hasCtx c = true → s.killing c = false → r.entered = true → s.reportRoom c = true →
    s.unitStore (unitOf c false (((s.ctx c).desc.faultRing + 128 * ((s.ctx c).nextSeq % 256)) % 2 ^ 64)) none
      (((s.ctx c).desc.faultRing + 128 * ((s.ctx c).nextSeq % 256)) % 2 ^ 64) (reportBytes r (s.ctx c).nextSeq) = .ok (w, u) →
    ∃ t m, exec (.faultDelivery c) s = .next t ∧ t.mem = (u.evSeen c (s.ctx c).desc.faultEvent).mem ∧ t.faultQ = u.faultQ.filter (fun q => q.id ≠ r.id) ∧
      (t.ctx c).nextSeq = (s.ctx c).nextSeq + 1 ∧ t.msgs = u.msgs ++ [m] ∧
      m.k = .event (s.ctx c).desc.faultEvent false (BitVec.allOnes 32)) ∧
  (∀ (s : State) c k, (s.ctx c).kill = some k → s.hasCtx c = true → s.drainedCtx c = true →
    ∃ t, exec (.killDone c) s = .next t ∧ t.hasCtx c = false ∧ t.scr.killDone = true) ∧
  (∀ (s : State) x xs t, s.ranked.filter s.launchEligible = x :: xs → s.tryAdmit x.1.1 x.1.2 = .ok t → exec .launchAdmission s = .next t) ∧
  (∀ (s : State) x xs t, s.ranked.filter s.placing = x :: xs → x.2.resume = [] → s.returnsFirst x.2.packet.priority = false →
    s.placeUnit x.1.1 x.1.2 = some t → exec .placement s = .next t) ∧
  (∀ (s : State) x xs t, s.ranked.filter s.placing = x :: xs → s.higherUnit x.2.packet.priority = false →
    s.returnUnit x.1.1 x.1.2 = some t → exec .crewResumption s = .next t) ∧
  (∀ (s : State) x xs v, s.ranked.filter s.placing = x :: xs → x.2.waits = true →
    (s.without ((s.crews.filter (fun p => p.2.preempt.isSome)).map (·.1))).nextFits x.1.1 x.1.2 = false →
    (s.without ((s.crews.filter (fun p => p.2.preempt.isSome)).map (·.1))).victims x.1.1 x.1.2 = some v →
    exec .preemptByPriority s = .next (v.foldl (fun s k => s.askCrew k false true true) s))
/-- A Shuttle engine's step carries a request out and notes how many bytes it counts. -/
def Sys2Proof.Carries (row : Nat → Instr) (r : Req) (f : State → ReqEnd) : Prop :=
  ∀ (s : State) n u, s.req? r.id = some r → s.inFlight r = true → f { s with out := r.made } = .ok (.ends n, u) →
    exec (row r.id) s = .next (u.setReq r.id (.done n u.out))
/-- The events of the Shuttle, the pools and the Clipper complete (08, 15.6 to 15.9). -/
def Sys2Proof.EngineRowsComplete : Prop :=
  (∀ r dst n v src, r.op = .cpa dst n v src → Carries .shuttleCpa r fun s => s.cpa r dst n v src) ∧
  (∀ r x k st d c, r.op = .tcopy x k st d c → Carries .shuttleTcopy r fun s => s.tcopy r x k st d c) ∧
  (∀ r d a dir, r.op = .dcopyPage d a dir → Carries .shuttleDcopy r fun s => s.dcopyPage r d a dir) ∧
  (∀ r fmt k pg a dir, r.op = .dcopyKv fmt k pg a dir → Carries .shuttleDcopy r fun s => s.dcopyKv r fmt k pg a dir) ∧
  (∀ r k pg tr, r.op = .pgmove k pg tr → Carries .shuttlePageMove r fun s => s.pgmove r k pg tr) ∧
  (∀ r x kd ty op d c, r.op = .tcred x kd ty op d c → Carries .shuttleTcred r fun s => s.tcred r x kd ty op d c) ∧
  (∀ (s : State) r n k, s.req? r.id = some r → r.st = .done n k →
    exec (.spoolDelivery r.id) s = .next ((s.dropReq r.id).sinkEnd r (.ok (n, k)))) ∧
  (∀ (s : State) w n, (aget s.warps w).isSome = true → ∃ t, exec (.copyBatchComplete w n) s = .next t ∧ t.mem = s.mem ∧
    ∀ b ∈ (t.warp w).batches, b.n.toNat = n → b.closed = true → b.left = 0 → b.done = true) ∧
  (∀ (s : State) tier a u, s.poolQ.find? (fun a => a.tier = tier && a.got.isNone) = some a → s.scr.poolEn.getD tier false = true →
    s.bmpBad tier = none → s.poolRun tier a.units = some u → s.takeBad tier u a.units = none →
    ∃ t, exec (.poolAllocation tier) s = .next t ∧ ∀ x ∈ t.poolQ, x.who = a.who → x.got = some u) ∧
  (∀ (s : State) c w a as k n, (s.ctx c).sweep = some w → w.list = a :: as →
    s.staging.find? (fun g => g.ctx = c && !g.fromReq) = none → s.readKsr (unitOf c w.user a) a = .ok k →
    (∀ p t, s.sweepNext (unitOf c w.user a) w k (k.pages - w.page) w.page = .ok (n, some (p, false)) → p.retained = false →
      s.engineBusy (s.stageEngine (unitOf c w.user a) k n p) = false →
      (s.modSweep c (fun w => { w with page := n })).beginStage (unitOf c w.user a) k n p false false = .ok t →
      (∃ g ∈ t.staging, g.ctx = c ∧ g.fromReq = false) → exec (.stage c) s = .next (t.answered (.sweep c))) ∧
    (∀ p t, s.sweepNext (unitOf c w.user a) w k (k.pages - w.page) w.page = .ok (n, some (p, true)) → p.retained = false →
      s.engineBusy (s.stageEngine (unitOf c w.user a) k n p) = false →
      (s.modSweep c (fun w => { w with page := n })).beginStage (unitOf c w.user a) k n p true false = .ok t →
      (∃ g ∈ t.staging, g.ctx = c ∧ g.fromReq = false) → exec (.stageCold c) s = .next (t.answered (.sweep c)))) ∧
  (∀ (s : State) c w, (s.ctx c).sweep = some w → w.list = [] → ∃ t, exec (.sweepEnd c) s = .next t ∧ (t.ctx c).sweep = none ∧ t.mem = s.mem) ∧
  (∀ (s : State) die d u, s.demreqs.find? (fun d => d.die = die) = some d → s.demServe (clipMaster die d.ctx d.user) d = .ok u →
    exec (.demreqServe die) s = .next (u.answered (.demand die)))
/-- The events of the module, of the control registers and of the mailbox complete (22, 04.6, 21). -/
def Sys2Proof.ModuleRowsComplete : Prop :=
  (∀ (s : State) img d, img.failStage = none → fwSigned img = true → descOf img.descriptor = some d →
    (bootPacket img.packet).refusal (decide (d.eventArea = 0)) true = none → ∃ t, exec (.deviceReset img) s = .next t ∧ t.phase = .running ∧ t.time = 0 ∧ t.warps = [] ∧ (t.ctx 63).desc = d) ∧
  (∀ (s : State) w c, ∃ t, exec (.powerLoopStep w c) s = .next t ∧ t.scr.drawW = w ∧ t.mem = s.mem) ∧
  (∀ s : State, 115 ≤ s.subject → exec .thermalCutoff s = .next (s.blank .off)) ∧
  (∀ s : State, exec .linkRetrain s = .next s ∧ exec .patrolScrub s = .next (s.count none 0x19 s.subject) ∧
    exec .modulePowerRemoved s = .next (s.blank .off)) ∧
  (∀ (s : State) o v, s.scrMsg = some (o, v) → s.scrBehind o = false →
    (ownRow o = false → exec .scrWrite s = .next ((s.scrSet o v).turnMsg s.subject (.ack 0))) ∧
    (o = 0x00004 → exec .mbxStatus s = .next ((s.setMbxStatus v).turnMsg s.subject (.ack 0))) ∧
    (o = 0x70000 → exec .wdgCtl s = .next ((s.setWdgCtl v).turnMsg s.subject (.ack 0))) ∧
    (o = 0x70008 → exec .wdgFired s = .next ((s.setWdgFired v).turnMsg s.subject (.ack 0))) ∧
    (o = 0x50300 → exec .shuPoolCtl s = .next ((s.setPoolCtl v).turnMsg s.subject (.ack 0))) ∧
    (o = 0x50308 → exec .shuPoolAdd s = .next ((s.setPoolAdd v).turnMsg s.subject (.ack 0))) ∧
    (o = 0x50310 → exec .shuPoolStatus s = .next ((s.setPoolStatus v).turnMsg s.subject (.ack 0))) ∧
    (o = 0xA0040 → exec .prfClr s = .next ((s.setPrfClr v).turnMsg s.subject (.ack 0))) ∧
    (inAcctab o = true → exec .secAcctab s = .next ((s.setAcc o v).turnMsg s.subject (.ack 0)))) ∧
  (∀ (s : State) k, s.phase = .running → s.input.length = 64 → s.subject % 2 ^ 40 = 0x1000 * k → k < 8 → s.scr.mbxCtl.getLsbD k = true →
    (s.laneCmds k).length < 32 → s.session.isSome = true → s.lanes.length = 8 →
    ∃ t, exec .mbxLaneWrite s = .next t ∧ t.laneCmds k = s.laneCmds k ++ [cmdOf s.input (if s.subject / 2 ^ 40 % 2 = 1 then s.spdm.ide else none)] ∧ t.mem = s.mem) ∧
  (∀ (s : State) c d u, Serves .mbxLaunch s c → s.hostAllows c.host.toNat 64 true false = true → s.openData s.subject c (s.hostBytes c.host.toNat 64) = some (d, u) →
    ∀ e, e = u.enqueue c.ctx (packetOf d) false false (fun _ => .mailbox s.subject c.tag) →
    exec .mbxLaunch s = .next (e.2.2.cmdDone s.subject c 6 e.1 e.2.1 0)) ∧
  (∀ (s : State) c d v w u, Serves .mbxWrite s c → s.hostAllows c.host.toNat c.len true false = true → s.openData s.subject c (s.hostBytes c.host.toNat c.len) = some (d, v) →
    v.engineWrite (mbxUnit c.ctx) (.mbx s.subject) c.dev.toNat d = .ok (some w, u) →
    exec .mbxWrite s = .next ((u.laneWrote s.subject).cmdDone s.subject c 0 0 0 0)) ∧
  (∀ (s : State) c d u x, Serves .mbxRead s c → s.hostAllows c.host.toNat c.len false true = true →
    s.takeRead (mbxUnit c.ctx) c.dev.toNat c.len false = .ok (d, u) → u.session = some x → x.sealed_ = false →
    exec .mbxRead s = .next ((u.put (hostBase + c.host.toNat) d).cmdDone s.subject c 0 0 0 0)) ∧
  (∀ (s : State) c u, s.noEvents c.ctx = false → s.laneWct.getD s.subject 0 ≤ s.time →
    (Serves .mbxEvsigAdd s c → s.evUpdate c.ctx (c.arg.toNat % 65536) false (c.dev.setWidth 32) = .ok u →
      exec .mbxEvsigAdd s = .next (u.cmdDone s.subject c 0 0 0 0)) ∧
    (Serves .mbxEvsigSet s c → s.evUpdate c.ctx (c.arg.toNat % 65536) true (c.dev.setWidth 32) = .ok u →
      exec .mbxEvsigSet s = .next (u.cmdDone s.subject c 0 0 0 0))) ∧
  (∀ (s : State) c, (Serves .mbxKill s c → exec .mbxKill s = .next ((s.popLane s.subject).startKill c.ctx none [(s.subject, c.tag)])) ∧
    (Serves .mbxQueryRegister s c → c.dev.toNat ∈ [0x00000, 0x00004, 0x10008, 0x80000, 0x70008, 0x90004] →
      exec .mbxQueryRegister s = .next (s.cmdDone s.subject c 0 0 (s.scrRead c.dev.toNat) 0)) ∧
    (Serves .mbxQueryContext s c → exec .mbxQueryContext s = .next (s.cmdDone s.subject c 0 0 (s.ctxState c.ctx) 0))) ∧
  (∀ (s : State) c cs, s.laneCmds s.subject = c :: cs → cmdRow c = .sessionOpen → s.servedLane = some s.subject → c.isOpen = true →
    s.session = none → c.malformed false = false → c.arg.getLsbD 8 = false → c.ide = some (c.dev.setWidth 32) → s.spdm.session = some (c.dev.setWidth 32) →
    exec .sessionOpen s = .next (({ s with openResult := openWord c 0, session := some { spdm := c.dev.setWidth 32, ring := c.host.toNat, size := c.len, sealed_ := false } } : State).cmdDone s.subject c 0 0 0 0)) ∧
  (∀ (s : State) c x, Serves .sessionClose s c → s.session = some x → s.closingLane s.subject = false → exec .sessionClose s =
    .next ((s.otherCtxs.foldl (fun (s : State) i => s.startKill i none []) { s with session := some { x with closing := some s.subject, held := s.heldMem } }).closeOn
      s.subject c { x with closing := some s.subject, held := s.heldMem })) ∧
  (∀ (s : State) c d u, Serves .sessionMeasure s c → s.takeRead (mbxUnit c.ctx) c.dev.toNat c.len false = .ok (d, u) →
    exec .sessionMeasure s = .next ((u.extend (0x10 + c.ctx) (Config.shake256 d)).cmdDone s.subject c 0 0 0 0)) ∧
  (∀ s : State, s.pump.compQ ≠ [] → exec .completionRingPoll s = .next s.pump) ∧
  (∀ s : State, s.phase = .running →
    exec .spdmGetVersion s = .next (s.doe (Config.spdmAnswer 0x84 s.input)) ∧
    exec .spdmGetCapabilities s = .next (s.doe (spdmSupport ++ Config.spdmAnswer 0xE1 s.input)) ∧
    exec .spdmGetCertificate s = .next (s.doe (Config.spdmAnswer 0x82 s.input)) ∧
    (∃ m, exec .spdmGetMeasurements s = .next (s.doe (s.sign m))) ∧
    (∃ m, exec .spdmChallenge s = .next (s.doe (s.sign m))) ∧
    (∃ t, exec .spdmKeyExchange s = .next t ∧ t.spdm.session = some (BitVec.ofNat 32 s.subject)) ∧
    (s.spdm.session.isSome = true → (∃ t, exec .spdmKeyUpdate s = .next t ∧ t.spdm.keyUpdates = s.spdm.keyUpdates + 1) ∧
      (∃ t, exec .spdmEndSession s = .next t ∧ t.spdm.session = none) ∧ ∃ t, exec .ideKm s = .next t ∧ t.spdm.ide = s.spdm.session))
/-- The forms of groups 7 and 8, Uaten-2 words and every event row of the opcode table complete, each with its own effect,
where its operands pass its checks and what it is for is there.
In the clauses that logs 4, 8, 10, 22, 31, 33, 40, 50 to 60, 73, 80 to 83, 86, 88 to 90, 94, 95 name it states the model's reading. -/
def Obligations.SyncSystemEventsComplete : Prop :=
  SyncFormsComplete ∧ SystemFormsComplete ∧ CoreRowsComplete ∧ EngineRowsComplete ∧ ModuleRowsComplete

end
end

