-- ==== Sys2Proof/Laws/Sparse.lean ====
section
/-! SUPPORT. Sparse arrays: what a read gives after a write, and that every write keeps the canonical form. -/

namespace Sys2Proof.Machine

variable {n : Nat}

theorem Sparse.wf_iff (m : Sparse n) : Sparse.wf m = true ↔ m.Pairwise (fun a b => a.1 < b.1) ∧ ∀ p ∈ m, p.2 ≠ 0 := by
  induction m with
  | nil => simp [Sparse.wf]
  | cons p l ih =>
    cases l with
    | nil => simp [Sparse.wf]
    | cons q l =>
      simp only [Sparse.wf, Bool.and_eq_true, ih, List.pairwise_cons, List.mem_cons, bne_iff_ne, decide_eq_true_eq]
      constructor
      · rintro ⟨⟨h0, h1⟩, ⟨h2, h3⟩, h4⟩
        refine ⟨⟨?_, h2, h3⟩, ?_⟩
        · rintro a (rfl | ha)
          · exact h1
          · exact h1.trans (h2 a ha)
        · rintro a (rfl | ha)
          · exact h0
          · exact h4 a ha
      · rintro ⟨⟨h1, h2, h3⟩, h4⟩
        exact ⟨⟨h4 p (.inl rfl), h1 q (.inl rfl)⟩, ⟨h2, h3⟩, fun a ha => h4 a (.inr ha)⟩

theorem sget_of_lt (m : Sparse n) (k : Nat) (h : ∀ p ∈ m, k < p.1) : sget m k = 0 := by
  induction m with
  | nil => rfl
  | cons p l ih =>
    have := h p (List.mem_cons_self ..)
    simp only [sget]
    rw [if_neg (by omega)]
    exact ih (fun q hq => h q (List.mem_cons_of_mem _ hq))

theorem sget_sdel (m : Sparse n) (k j : Nat) : sget (sdel m k) j = if j = k then 0 else sget m j := by
  induction m with
  | nil => simp [sdel, sget]
  | cons p l ih =>
    unfold sdel at ih ⊢
    simp only [List.filter_cons]
    split
    · rename_i e
      simp only [sget, ih]
      grind
    · rename_i e
      rw [ih]
      simp only [sget]
      grind
theorem sget_sins (m : Sparse n) (k j : Nat) (v : BitVec n) (h : ∀ p ∈ m, p.1 ≠ k) :
    sget (sins m k v) j = if j = k then v else sget m j := by
  induction m with
  | nil => simp [sins, sget, eq_comm]
  | cons p l ih =>
    have h1 := h p (List.mem_cons_self ..)
    have h2 := ih (fun q hq => h q (List.mem_cons_of_mem _ hq))
    simp only [sins]
    split <;> simp only [sget, h2] <;> grind

/-- What a read gives after a write: the value written, or, of another key, what it gave before. -/
theorem sget_sset (m : Sparse n) (k j : Nat) (v : BitVec n) : sget (sset m k v) j = if j = k then v else sget m j := by
  unfold sset
  split
  · rename_i e; rw [sget_sdel, e]
  · rw [sget_sins _ _ _ _ (by simp [sdel]), sget_sdel]
    split <;> rfl

/-- A write leaves every other key alone. -/
theorem sget_sset_ne (m : Sparse n) (k j : Nat) (v : BitVec n) (h : j ≠ k) : sget (sset m k v) j = sget m j := by
  rw [sget_sset, if_neg h]

/-- A read after a write to the same key gives the value written. -/
theorem sget_sset_same (m : Sparse n) (k : Nat) (v : BitVec n) : sget (sset m k v) k = v := by
  rw [sget_sset, if_pos rfl]

theorem mem_sins (m : Sparse n) (k : Nat) (v : BitVec n) (p : Nat × BitVec n) (h : p ∈ sins m k v) : p = (k, v) ∨ p ∈ m := by
  induction m with
  | nil => simpa [sins] using h
  | cons q l ih =>
    simp only [sins] at h
    split at h <;> simp only [List.mem_cons] at h ⊢ <;> grind

/-- Removing entries keeps the canonical form. -/
theorem filter_wf (m : Sparse n) (f : Nat × BitVec n → Bool) (h : Sparse.wf m = true) : Sparse.wf (n := n) (m.filter f) = true := by
  rw [Sparse.wf_iff] at h ⊢
  exact ⟨h.1.filter f, fun p hp => h.2 p (List.mem_filter.mp hp).1⟩

theorem sins_wf (m : Sparse n) (k : Nat) (v : BitVec n) (h : Sparse.wf m = true) (hk : ∀ p ∈ m, p.1 ≠ k) (hv : v ≠ 0) :
    Sparse.wf (sins m k v) = true := by
  rw [Sparse.wf_iff] at h ⊢
  obtain ⟨h, hz⟩ := h
  induction m with
  | nil => simpa [sins] using hv
  | cons q l ih =>
    obtain ⟨hq, hl⟩ := List.pairwise_cons.mp h
    have hql := hk q (List.mem_cons_self ..)
    obtain ⟨i1, i2⟩ := ih (fun p hp => hk p (List.mem_cons_of_mem _ hp)) hl (fun p hp => hz p (List.mem_cons_of_mem _ hp))
    simp only [sins]
    split
    · rename_i hlt
      refine ⟨List.pairwise_cons.mpr ⟨?_, h⟩, ?_⟩
      · intro p hp
        rcases List.mem_cons.mp hp with rfl | hp
        · exact hlt
        · exact hlt.trans (hq p hp)
      · intro p hp
        rcases List.mem_cons.mp hp with rfl | hp
        · exact hv
        · exact hz p hp
    · rename_i hge
      refine ⟨List.pairwise_cons.mpr ⟨?_, i1⟩, ?_⟩
      · intro p hp
        rcases mem_sins l k v p hp with rfl | hp
        · simp only; omega
        · exact hq p hp
      · intro p hp
        rcases List.mem_cons.mp hp with rfl | hp
        · exact hz _ (List.mem_cons_self ..)
        · exact i2 p hp

/-- A write keeps the canonical form. -/
theorem sset_wf (m : Sparse n) (k : Nat) (v : BitVec n) (h : Sparse.wf m = true) : Sparse.wf (sset m k v) = true := by
  unfold sset
  split
  · exact filter_wf m _ h
  · rename_i hv
    exact sins_wf _ _ _ (filter_wf m _ h) (by simp [sdel]) hv

theorem ssetList_wf (d : List (BitVec n)) : ∀ (m : Sparse n) (k : Nat), Sparse.wf m = true → Sparse.wf (ssetList m k d) = true := by
  induction d with
  | nil => exact fun _ _ h => h
  | cons v d ih => exact fun m k h => ih _ _ (sset_wf m k v h)

/-- A read after a write of consecutive entries. -/
theorem sget_ssetList (d : List (BitVec n)) : ∀ (m : Sparse n) (k j : Nat),
    sget (ssetList m k d) j = if k ≤ j ∧ j < k + d.length then d.getD (j - k) 0 else sget m j := by
  induction d with
  | nil => intro m k j; simp [ssetList]
  | cons v d ih =>
    intro m k j
    simp only [ssetList, List.length_cons]
    rw [ih, sget_sset m k j v]
    by_cases h1 : k + 1 ≤ j ∧ j < k + 1 + d.length
    · rw [if_pos h1, if_pos (by omega)]
      have : j - k = (j - (k + 1)) + 1 := by omega
      rw [this]; simp
    · rw [if_neg h1]
      by_cases h2 : j = k
      · rw [if_pos h2, if_pos (by omega)]; simp [h2]
      · rw [if_neg h2, if_neg (by omega)]

/-- A write of consecutive entries leaves every other key alone. -/
theorem sget_ssetList_ne (d : List (BitVec n)) (m : Sparse n) (k j : Nat) (h : j < k ∨ k + d.length ≤ j) :
    sget (ssetList m k d) j = sget m j := by
  rw [sget_ssetList, if_neg (by omega)]

/-- A read after a write to the same place gives the value written. -/
theorem sgetList_ssetList (d : List (BitVec n)) : ∀ (m : Sparse n) (k : Nat), sgetList (ssetList m k d) k d.length = d := by
  induction d with
  | nil => intros; rfl
  | cons v d ih =>
    intro m k
    simp only [ssetList, List.length_cons, sgetList]
    rw [ih, sget_ssetList_ne _ _ _ _ (.inl (by omega)), sget_sset_same m k v]

theorem sgetList_length (m : Sparse n) (k c : Nat) : (sgetList m k c).length = c := by
  induction c generalizing k with
  | zero => rfl
  | succ c ih => simp [sgetList, ih]

/-! Memory. -/

/-- Writing bytes keeps memory's canonical form. -/
theorem State.wrN_memOk (s : State) (pa : Nat) (d : List Byte) (h : Memory.wf s.mem = true) : Memory.wf (s.wrN pa d).mem = true :=
  ssetList_wf d _ _ h
/-- A byte read outside the bytes written gives what it gave before. -/
theorem State.rd_wrN_ne (s : State) (pa a : Nat) (d : List Byte) (h : a < pa ∨ pa + d.length ≤ a) : (s.wrN pa d).rd a = s.rd a :=
  sget_ssetList_ne d _ _ _ h
/-- The bytes written are read back. -/
theorem State.rdN_wrN (s : State) (pa : Nat) (d : List Byte) : (s.wrN pa d).rdN pa d.length = d :=
  sgetList_ssetList d _ _

/-! Registers. -/

/-- A lane-register write leaves every other lane-register alone. -/
theorem Warp.rg_wr_ne (w : Warp) (r l r' l' : Nat) (v : Word) (hl : l < 32) (hl' : l' < 32) (h : ¬(r' = r ∧ l' = l)) :
    (w.wr r l v).rg r' l' = w.rg r' l' :=
  sget_sset_ne _ _ _ _ (by omega)
/-- The value written is read back. -/
theorem Warp.rg_wr_same (w : Warp) (r l : Nat) (v : Word) : (w.wr r l v).rg r l = v :=
  sget_sset_same _ _ _
theorem Warp.wr_regs_wf (w : Warp) (r l : Nat) (v : Word) (h : Sparse.wf w.regs = true) : Sparse.wf (w.wr r l v).regs = true :=
  sset_wf _ _ _ h
theorem Warp.wrs_regs_wf (x : List (Nat × Nat × Word)) : ∀ (w : Warp), Sparse.wf w.regs = true → Sparse.wf (w.wrs x).regs = true := by
  induction x with
  | nil => exact fun _ h => h
  | cons p x ih => exact fun w h => ih _ (Warp.wr_regs_wf w p.1 p.2.1 p.2.2 h)

/-! Lists of keyed values. -/

section Assoc
variable {α β : Type} [DecidableEq α]
@[simp] theorem aget_aset_same (l : List (α × β)) (k : α) (v : β) : aget (aset l k v) k = some v := by
  induction l with
  | nil => simp [aset, aget]
  | cons p l ih => simp only [aset]; split <;> simp_all [aget]
theorem aget_aset_ne (l : List (α × β)) (k j : α) (v : β) (h : j ≠ k) : aget (aset l k v) j = aget l j := by
  induction l with
  | nil => simp [aset, aget, Ne.symm h]
  | cons p l ih =>
    simp only [aset]
    split
    · rename_i e; simp [aget, e, Ne.symm h]
    · simp only [aget, ih]
end Assoc

@[simp] theorem State.warp_modWarp_same (s : State) (k : WarpKey) (f : Warp → Warp) : (s.modWarp k f).warp k = f (s.warp k) := by
  simp [State.modWarp, State.setWarp, State.warp]
theorem State.warp_modWarp_ne (s : State) (k j : WarpKey) (f : Warp → Warp) (h : j ≠ k) : (s.modWarp k f).warp j = s.warp j := by
  simp [State.modWarp, State.setWarp, State.warp, aget_aset_ne _ _ _ _ h]
@[simp] theorem State.ctx_modCtx_same (s : State) (c : Nat) (f : Ctx → Ctx) : (s.modCtx c f).ctx c = f (s.ctx c) := by
  simp [State.modCtx, State.setCtx, State.ctx]
theorem State.ctx_modCtx_ne (s : State) (c j : Nat) (f : Ctx → Ctx) (h : j ≠ c) : (s.modCtx c f).ctx j = s.ctx j := by
  simp [State.modCtx, State.setCtx, State.ctx, aget_aset_ne _ _ _ _ h]

end Sys2Proof.Machine
end

