-- ==== Sys2Proof/Laws/State.lean ====
section
/-! SUPPORT. What each named update of State leaves in each field: one lemma per field and update. -/

namespace Sys2Proof.Machine

variable (s : State)

/-! `State.setWarp`. -/

@[simp] theorem State.setWarp_time (k : WarpKey) (x : Warp) : (s.setWarp k x).time = s.time := rfl
@[simp] theorem State.setWarp_phase (k : WarpKey) (x : Warp) : (s.setWarp k x).phase = s.phase := rfl
@[simp] theorem State.setWarp_mem (k : WarpKey) (x : Warp) : (s.setWarp k x).mem = s.mem := rfl
@[simp] theorem State.setWarp_cxlFrames (k : WarpKey) (x : Warp) : (s.setWarp k x).cxlFrames = s.cxlFrames := rfl
@[simp] theorem State.setWarp_lines (k : WarpKey) (x : Warp) : (s.setWarp k x).lines = s.lines := rfl
@[simp] theorem State.setWarp_sliceExp (k : WarpKey) (x : Warp) : (s.setWarp k x).sliceExp = s.sliceExp := rfl
@[simp] theorem State.setWarp_verCtr (k : WarpKey) (x : Warp) : (s.setWarp k x).verCtr = s.verCtr := rfl
@[simp] theorem State.setWarp_l2 (k : WarpKey) (x : Warp) : (s.setWarp k x).l2 = s.l2 := rfl
@[simp] theorem State.setWarp_partials (k : WarpKey) (x : Warp) : (s.setWarp k x).partials = s.partials := rfl
@[simp] theorem State.setWarp_crFlags (k : WarpKey) (x : Warp) : (s.setWarp k x).crFlags = s.crFlags := rfl
@[simp] theorem State.setWarp_badLines (k : WarpKey) (x : Warp) : (s.setWarp k x).badLines = s.badLines := rfl
@[simp] theorem State.setWarp_l1 (k : WarpKey) (x : Warp) : (s.setWarp k x).l1 = s.l1 := rfl
@[simp] theorem State.setWarp_tlb (k : WarpKey) (x : Warp) : (s.setWarp k x).tlb = s.tlb := rfl
@[simp] theorem State.setWarp_icache (k : WarpKey) (x : Warp) : (s.setWarp k x).icache = s.icache := rfl
@[simp] theorem State.setWarp_clearing (k : WarpKey) (x : Warp) : (s.setWarp k x).clearing = s.clearing := rfl
@[simp] theorem State.setWarp_clockMHz (k : WarpKey) (x : Warp) : (s.setWarp k x).clockMHz = s.clockMHz := rfl
@[simp] theorem State.setWarp_clocks (k : WarpKey) (x : Warp) : (s.setWarp k x).clocks = s.clocks := rfl
@[simp] theorem State.setWarp_clockRem (k : WarpKey) (x : Warp) : (s.setWarp k x).clockRem = s.clockRem := rfl
@[simp] theorem State.setWarp_scr (k : WarpKey) (x : Warp) : (s.setWarp k x).scr = s.scr := rfl
@[simp] theorem State.setWarp_acctab (k : WarpKey) (x : Warp) : (s.setWarp k x).acctab = s.acctab := rfl
@[simp] theorem State.setWarp_acchalf (k : WarpKey) (x : Warp) : (s.setWarp k x).acchalf = s.acchalf := rfl
@[simp] theorem State.setWarp_poolQ (k : WarpKey) (x : Warp) : (s.setWarp k x).poolQ = s.poolQ := rfl
@[simp] theorem State.setWarp_runs (k : WarpKey) (x : Warp) : (s.setWarp k x).runs = s.runs := rfl
@[simp] theorem State.setWarp_msgs (k : WarpKey) (x : Warp) : (s.setWarp k x).msgs = s.msgs := rfl
@[simp] theorem State.setWarp_pends (k : WarpKey) (x : Warp) : (s.setWarp k x).pends = s.pends := rfl
@[simp] theorem State.setWarp_xq (k : WarpKey) (x : Warp) : (s.setWarp k x).xq = s.xq := rfl
@[simp] theorem State.setWarp_xnext (k : WarpKey) (x : Warp) : (s.setWarp k x).xnext = s.xnext := rfl
@[simp] theorem State.setWarp_reqs (k : WarpKey) (x : Warp) : (s.setWarp k x).reqs = s.reqs := rfl
@[simp] theorem State.setWarp_evEntries (k : WarpKey) (x : Warp) : (s.setWarp k x).evEntries = s.evEntries := rfl
@[simp] theorem State.setWarp_evOver (k : WarpKey) (x : Warp) : (s.setWarp k x).evOver = s.evOver := rfl
@[simp] theorem State.setWarp_teller (k : WarpKey) (x : Warp) : (s.setWarp k x).teller = s.teller := rfl
@[simp] theorem State.setWarp_faultQ (k : WarpKey) (x : Warp) : (s.setWarp k x).faultQ = s.faultQ := rfl
@[simp] theorem State.setWarp_demreqs (k : WarpKey) (x : Warp) : (s.setWarp k x).demreqs = s.demreqs := rfl
@[simp] theorem State.setWarp_staging (k : WarpKey) (x : Warp) : (s.setWarp k x).staging = s.staging := rfl
@[simp] theorem State.setWarp_lanes (k : WarpKey) (x : Warp) : (s.setWarp k x).lanes = s.lanes := rfl
@[simp] theorem State.setWarp_laneWct (k : WarpKey) (x : Warp) : (s.setWarp k x).laneWct = s.laneWct := rfl
@[simp] theorem State.setWarp_session (k : WarpKey) (x : Warp) : (s.setWarp k x).session = s.session := rfl
@[simp] theorem State.setWarp_compQ (k : WarpKey) (x : Warp) : (s.setWarp k x).compQ = s.compQ := rfl
@[simp] theorem State.setWarp_openResult (k : WarpKey) (x : Warp) : (s.setWarp k x).openResult = s.openResult := rfl
@[simp] theorem State.setWarp_spdm (k : WarpKey) (x : Warp) : (s.setWarp k x).spdm = s.spdm := rfl
@[simp] theorem State.setWarp_fabricId (k : WarpKey) (x : Warp) : (s.setWarp k x).fabricId = s.fabricId := rfl
@[simp] theorem State.setWarp_fuses (k : WarpKey) (x : Warp) : (s.setWarp k x).fuses = s.fuses := rfl
@[simp] theorem State.setWarp_ghosts (k : WarpKey) (x : Warp) : (s.setWarp k x).ghosts = s.ghosts := rfl
@[simp] theorem State.setWarp_unheard (k : WarpKey) (x : Warp) : (s.setWarp k x).unheard = s.unheard := rfl
@[simp] theorem State.setWarp_stores (k : WarpKey) (x : Warp) : (s.setWarp k x).stores = s.stores := rfl
@[simp] theorem State.setWarp_ctxs (k : WarpKey) (x : Warp) : (s.setWarp k x).ctxs = s.ctxs := rfl
@[simp] theorem State.setWarp_dead (k : WarpKey) (x : Warp) : (s.setWarp k x).dead = s.dead := rfl
@[simp] theorem State.setWarp_launches (k : WarpKey) (x : Warp) : (s.setWarp k x).launches = s.launches := rfl
@[simp] theorem State.setWarp_crews (k : WarpKey) (x : Warp) : (s.setWarp k x).crews = s.crews := rfl
@[simp] theorem State.setWarp_coreSeq (k : WarpKey) (x : Warp) : (s.setWarp k x).coreSeq = s.coreSeq := rfl
@[simp] theorem State.setWarp_warps (k : WarpKey) (x : Warp) : (s.setWarp k x).warps = aset s.warps k x := rfl
@[simp] theorem State.setWarp_orphans (k : WarpKey) (x : Warp) : (s.setWarp k x).orphans = s.orphans := rfl
@[simp] theorem State.setWarp_cur (k : WarpKey) (x : Warp) : (s.setWarp k x).cur = s.cur := rfl
@[simp] theorem State.setWarp_out (k : WarpKey) (x : Warp) : (s.setWarp k x).out = s.out := rfl
@[simp] theorem State.setWarp_met (k : WarpKey) (x : Warp) : (s.setWarp k x).met = s.met := rfl
@[simp] theorem State.setWarp_peers (k : WarpKey) (x : Warp) : (s.setWarp k x).peers = s.peers := rfl
@[simp] theorem State.setWarp_crSlots (k : WarpKey) (x : Warp) : (s.setWarp k x).crSlots = s.crSlots := rfl
@[simp] theorem State.setWarp_badSpots (k : WarpKey) (x : Warp) : (s.setWarp k x).badSpots = s.badSpots := rfl
@[simp] theorem State.setWarp_subject (k : WarpKey) (x : Warp) : (s.setWarp k x).subject = s.subject := rfl
@[simp] theorem State.setWarp_input (k : WarpKey) (x : Warp) : (s.setWarp k x).input = s.input := rfl
@[simp] theorem State.setWarp_agenda (k : WarpKey) (x : Warp) : (s.setWarp k x).agenda = s.agenda := rfl
@[simp] theorem State.setWarp_freeCtr (k : WarpKey) (x : Warp) : (s.setWarp k x).freeCtr = s.freeCtr := rfl
@[simp] theorem State.setWarp_nextId (k : WarpKey) (x : Warp) : (s.setWarp k x).nextId = s.nextId := rfl

/-! `State.setCrew`. -/

@[simp] theorem State.setCrew_time (k : CrewKey) (x : Crew) : (s.setCrew k x).time = s.time := rfl
@[simp] theorem State.setCrew_phase (k : CrewKey) (x : Crew) : (s.setCrew k x).phase = s.phase := rfl
@[simp] theorem State.setCrew_mem (k : CrewKey) (x : Crew) : (s.setCrew k x).mem = s.mem := rfl
@[simp] theorem State.setCrew_cxlFrames (k : CrewKey) (x : Crew) : (s.setCrew k x).cxlFrames = s.cxlFrames := rfl
@[simp] theorem State.setCrew_lines (k : CrewKey) (x : Crew) : (s.setCrew k x).lines = s.lines := rfl
@[simp] theorem State.setCrew_sliceExp (k : CrewKey) (x : Crew) : (s.setCrew k x).sliceExp = s.sliceExp := rfl
@[simp] theorem State.setCrew_verCtr (k : CrewKey) (x : Crew) : (s.setCrew k x).verCtr = s.verCtr := rfl
@[simp] theorem State.setCrew_l2 (k : CrewKey) (x : Crew) : (s.setCrew k x).l2 = s.l2 := rfl
@[simp] theorem State.setCrew_partials (k : CrewKey) (x : Crew) : (s.setCrew k x).partials = s.partials := rfl
@[simp] theorem State.setCrew_crFlags (k : CrewKey) (x : Crew) : (s.setCrew k x).crFlags = s.crFlags := rfl
@[simp] theorem State.setCrew_badLines (k : CrewKey) (x : Crew) : (s.setCrew k x).badLines = s.badLines := rfl
@[simp] theorem State.setCrew_l1 (k : CrewKey) (x : Crew) : (s.setCrew k x).l1 = s.l1 := rfl
@[simp] theorem State.setCrew_tlb (k : CrewKey) (x : Crew) : (s.setCrew k x).tlb = s.tlb := rfl
@[simp] theorem State.setCrew_icache (k : CrewKey) (x : Crew) : (s.setCrew k x).icache = s.icache := rfl
@[simp] theorem State.setCrew_clearing (k : CrewKey) (x : Crew) : (s.setCrew k x).clearing = s.clearing := rfl
@[simp] theorem State.setCrew_clockMHz (k : CrewKey) (x : Crew) : (s.setCrew k x).clockMHz = s.clockMHz := rfl
@[simp] theorem State.setCrew_clocks (k : CrewKey) (x : Crew) : (s.setCrew k x).clocks = s.clocks := rfl
@[simp] theorem State.setCrew_clockRem (k : CrewKey) (x : Crew) : (s.setCrew k x).clockRem = s.clockRem := rfl
@[simp] theorem State.setCrew_scr (k : CrewKey) (x : Crew) : (s.setCrew k x).scr = s.scr := rfl
@[simp] theorem State.setCrew_acctab (k : CrewKey) (x : Crew) : (s.setCrew k x).acctab = s.acctab := rfl
@[simp] theorem State.setCrew_acchalf (k : CrewKey) (x : Crew) : (s.setCrew k x).acchalf = s.acchalf := rfl
@[simp] theorem State.setCrew_poolQ (k : CrewKey) (x : Crew) : (s.setCrew k x).poolQ = s.poolQ := rfl
@[simp] theorem State.setCrew_runs (k : CrewKey) (x : Crew) : (s.setCrew k x).runs = s.runs := rfl
@[simp] theorem State.setCrew_msgs (k : CrewKey) (x : Crew) : (s.setCrew k x).msgs = s.msgs := rfl
@[simp] theorem State.setCrew_pends (k : CrewKey) (x : Crew) : (s.setCrew k x).pends = s.pends := rfl
@[simp] theorem State.setCrew_xq (k : CrewKey) (x : Crew) : (s.setCrew k x).xq = s.xq := rfl
@[simp] theorem State.setCrew_xnext (k : CrewKey) (x : Crew) : (s.setCrew k x).xnext = s.xnext := rfl
@[simp] theorem State.setCrew_reqs (k : CrewKey) (x : Crew) : (s.setCrew k x).reqs = s.reqs := rfl
@[simp] theorem State.setCrew_evEntries (k : CrewKey) (x : Crew) : (s.setCrew k x).evEntries = s.evEntries := rfl
@[simp] theorem State.setCrew_evOver (k : CrewKey) (x : Crew) : (s.setCrew k x).evOver = s.evOver := rfl
@[simp] theorem State.setCrew_teller (k : CrewKey) (x : Crew) : (s.setCrew k x).teller = s.teller := rfl
@[simp] theorem State.setCrew_faultQ (k : CrewKey) (x : Crew) : (s.setCrew k x).faultQ = s.faultQ := rfl
@[simp] theorem State.setCrew_demreqs (k : CrewKey) (x : Crew) : (s.setCrew k x).demreqs = s.demreqs := rfl
@[simp] theorem State.setCrew_staging (k : CrewKey) (x : Crew) : (s.setCrew k x).staging = s.staging := rfl
@[simp] theorem State.setCrew_lanes (k : CrewKey) (x : Crew) : (s.setCrew k x).lanes = s.lanes := rfl
@[simp] theorem State.setCrew_laneWct (k : CrewKey) (x : Crew) : (s.setCrew k x).laneWct = s.laneWct := rfl
@[simp] theorem State.setCrew_session (k : CrewKey) (x : Crew) : (s.setCrew k x).session = s.session := rfl
@[simp] theorem State.setCrew_compQ (k : CrewKey) (x : Crew) : (s.setCrew k x).compQ = s.compQ := rfl
@[simp] theorem State.setCrew_openResult (k : CrewKey) (x : Crew) : (s.setCrew k x).openResult = s.openResult := rfl
@[simp] theorem State.setCrew_spdm (k : CrewKey) (x : Crew) : (s.setCrew k x).spdm = s.spdm := rfl
@[simp] theorem State.setCrew_fabricId (k : CrewKey) (x : Crew) : (s.setCrew k x).fabricId = s.fabricId := rfl
@[simp] theorem State.setCrew_fuses (k : CrewKey) (x : Crew) : (s.setCrew k x).fuses = s.fuses := rfl
@[simp] theorem State.setCrew_ghosts (k : CrewKey) (x : Crew) : (s.setCrew k x).ghosts = s.ghosts := rfl
@[simp] theorem State.setCrew_unheard (k : CrewKey) (x : Crew) : (s.setCrew k x).unheard = s.unheard := rfl
@[simp] theorem State.setCrew_stores (k : CrewKey) (x : Crew) : (s.setCrew k x).stores = s.stores := rfl
@[simp] theorem State.setCrew_ctxs (k : CrewKey) (x : Crew) : (s.setCrew k x).ctxs = s.ctxs := rfl
@[simp] theorem State.setCrew_dead (k : CrewKey) (x : Crew) : (s.setCrew k x).dead = s.dead := rfl
@[simp] theorem State.setCrew_launches (k : CrewKey) (x : Crew) : (s.setCrew k x).launches = s.launches := rfl
@[simp] theorem State.setCrew_crews (k : CrewKey) (x : Crew) : (s.setCrew k x).crews = aset s.crews k x := rfl
@[simp] theorem State.setCrew_coreSeq (k : CrewKey) (x : Crew) : (s.setCrew k x).coreSeq = s.coreSeq := rfl
@[simp] theorem State.setCrew_warps (k : CrewKey) (x : Crew) : (s.setCrew k x).warps = s.warps := rfl
@[simp] theorem State.setCrew_orphans (k : CrewKey) (x : Crew) : (s.setCrew k x).orphans = s.orphans := rfl
@[simp] theorem State.setCrew_cur (k : CrewKey) (x : Crew) : (s.setCrew k x).cur = s.cur := rfl
@[simp] theorem State.setCrew_out (k : CrewKey) (x : Crew) : (s.setCrew k x).out = s.out := rfl
@[simp] theorem State.setCrew_met (k : CrewKey) (x : Crew) : (s.setCrew k x).met = s.met := rfl
@[simp] theorem State.setCrew_peers (k : CrewKey) (x : Crew) : (s.setCrew k x).peers = s.peers := rfl
@[simp] theorem State.setCrew_crSlots (k : CrewKey) (x : Crew) : (s.setCrew k x).crSlots = s.crSlots := rfl
@[simp] theorem State.setCrew_badSpots (k : CrewKey) (x : Crew) : (s.setCrew k x).badSpots = s.badSpots := rfl
@[simp] theorem State.setCrew_subject (k : CrewKey) (x : Crew) : (s.setCrew k x).subject = s.subject := rfl
@[simp] theorem State.setCrew_input (k : CrewKey) (x : Crew) : (s.setCrew k x).input = s.input := rfl
@[simp] theorem State.setCrew_agenda (k : CrewKey) (x : Crew) : (s.setCrew k x).agenda = s.agenda := rfl
@[simp] theorem State.setCrew_freeCtr (k : CrewKey) (x : Crew) : (s.setCrew k x).freeCtr = s.freeCtr := rfl
@[simp] theorem State.setCrew_nextId (k : CrewKey) (x : Crew) : (s.setCrew k x).nextId = s.nextId := rfl

/-! `State.setLaunch`. -/

@[simp] theorem State.setLaunch_time (c l : Nat) (x : Launch) : (s.setLaunch c l x).time = s.time := rfl
@[simp] theorem State.setLaunch_phase (c l : Nat) (x : Launch) : (s.setLaunch c l x).phase = s.phase := rfl
@[simp] theorem State.setLaunch_mem (c l : Nat) (x : Launch) : (s.setLaunch c l x).mem = s.mem := rfl
@[simp] theorem State.setLaunch_cxlFrames (c l : Nat) (x : Launch) : (s.setLaunch c l x).cxlFrames = s.cxlFrames := rfl
@[simp] theorem State.setLaunch_lines (c l : Nat) (x : Launch) : (s.setLaunch c l x).lines = s.lines := rfl
@[simp] theorem State.setLaunch_sliceExp (c l : Nat) (x : Launch) : (s.setLaunch c l x).sliceExp = s.sliceExp := rfl
@[simp] theorem State.setLaunch_verCtr (c l : Nat) (x : Launch) : (s.setLaunch c l x).verCtr = s.verCtr := rfl
@[simp] theorem State.setLaunch_l2 (c l : Nat) (x : Launch) : (s.setLaunch c l x).l2 = s.l2 := rfl
@[simp] theorem State.setLaunch_partials (c l : Nat) (x : Launch) : (s.setLaunch c l x).partials = s.partials := rfl
@[simp] theorem State.setLaunch_crFlags (c l : Nat) (x : Launch) : (s.setLaunch c l x).crFlags = s.crFlags := rfl
@[simp] theorem State.setLaunch_badLines (c l : Nat) (x : Launch) : (s.setLaunch c l x).badLines = s.badLines := rfl
@[simp] theorem State.setLaunch_l1 (c l : Nat) (x : Launch) : (s.setLaunch c l x).l1 = s.l1 := rfl
@[simp] theorem State.setLaunch_tlb (c l : Nat) (x : Launch) : (s.setLaunch c l x).tlb = s.tlb := rfl
@[simp] theorem State.setLaunch_icache (c l : Nat) (x : Launch) : (s.setLaunch c l x).icache = s.icache := rfl
@[simp] theorem State.setLaunch_clearing (c l : Nat) (x : Launch) : (s.setLaunch c l x).clearing = s.clearing := rfl
@[simp] theorem State.setLaunch_clockMHz (c l : Nat) (x : Launch) : (s.setLaunch c l x).clockMHz = s.clockMHz := rfl
@[simp] theorem State.setLaunch_clocks (c l : Nat) (x : Launch) : (s.setLaunch c l x).clocks = s.clocks := rfl
@[simp] theorem State.setLaunch_clockRem (c l : Nat) (x : Launch) : (s.setLaunch c l x).clockRem = s.clockRem := rfl
@[simp] theorem State.setLaunch_scr (c l : Nat) (x : Launch) : (s.setLaunch c l x).scr = s.scr := rfl
@[simp] theorem State.setLaunch_acctab (c l : Nat) (x : Launch) : (s.setLaunch c l x).acctab = s.acctab := rfl
@[simp] theorem State.setLaunch_acchalf (c l : Nat) (x : Launch) : (s.setLaunch c l x).acchalf = s.acchalf := rfl
@[simp] theorem State.setLaunch_poolQ (c l : Nat) (x : Launch) : (s.setLaunch c l x).poolQ = s.poolQ := rfl
@[simp] theorem State.setLaunch_runs (c l : Nat) (x : Launch) : (s.setLaunch c l x).runs = s.runs := rfl
@[simp] theorem State.setLaunch_msgs (c l : Nat) (x : Launch) : (s.setLaunch c l x).msgs = s.msgs := rfl
@[simp] theorem State.setLaunch_pends (c l : Nat) (x : Launch) : (s.setLaunch c l x).pends = s.pends := rfl
@[simp] theorem State.setLaunch_xq (c l : Nat) (x : Launch) : (s.setLaunch c l x).xq = s.xq := rfl
@[simp] theorem State.setLaunch_xnext (c l : Nat) (x : Launch) : (s.setLaunch c l x).xnext = s.xnext := rfl
@[simp] theorem State.setLaunch_reqs (c l : Nat) (x : Launch) : (s.setLaunch c l x).reqs = s.reqs := rfl
@[simp] theorem State.setLaunch_evEntries (c l : Nat) (x : Launch) : (s.setLaunch c l x).evEntries = s.evEntries := rfl
@[simp] theorem State.setLaunch_evOver (c l : Nat) (x : Launch) : (s.setLaunch c l x).evOver = s.evOver := rfl
@[simp] theorem State.setLaunch_teller (c l : Nat) (x : Launch) : (s.setLaunch c l x).teller = s.teller := rfl
@[simp] theorem State.setLaunch_faultQ (c l : Nat) (x : Launch) : (s.setLaunch c l x).faultQ = s.faultQ := rfl
@[simp] theorem State.setLaunch_demreqs (c l : Nat) (x : Launch) : (s.setLaunch c l x).demreqs = s.demreqs := rfl
@[simp] theorem State.setLaunch_staging (c l : Nat) (x : Launch) : (s.setLaunch c l x).staging = s.staging := rfl
@[simp] theorem State.setLaunch_lanes (c l : Nat) (x : Launch) : (s.setLaunch c l x).lanes = s.lanes := rfl
@[simp] theorem State.setLaunch_laneWct (c l : Nat) (x : Launch) : (s.setLaunch c l x).laneWct = s.laneWct := rfl
@[simp] theorem State.setLaunch_session (c l : Nat) (x : Launch) : (s.setLaunch c l x).session = s.session := rfl
@[simp] theorem State.setLaunch_compQ (c l : Nat) (x : Launch) : (s.setLaunch c l x).compQ = s.compQ := rfl
@[simp] theorem State.setLaunch_openResult (c l : Nat) (x : Launch) : (s.setLaunch c l x).openResult = s.openResult := rfl
@[simp] theorem State.setLaunch_spdm (c l : Nat) (x : Launch) : (s.setLaunch c l x).spdm = s.spdm := rfl
@[simp] theorem State.setLaunch_fabricId (c l : Nat) (x : Launch) : (s.setLaunch c l x).fabricId = s.fabricId := rfl
@[simp] theorem State.setLaunch_fuses (c l : Nat) (x : Launch) : (s.setLaunch c l x).fuses = s.fuses := rfl
@[simp] theorem State.setLaunch_ghosts (c l : Nat) (x : Launch) : (s.setLaunch c l x).ghosts = s.ghosts := rfl
@[simp] theorem State.setLaunch_unheard (c l : Nat) (x : Launch) : (s.setLaunch c l x).unheard = s.unheard := rfl
@[simp] theorem State.setLaunch_stores (c l : Nat) (x : Launch) : (s.setLaunch c l x).stores = s.stores := rfl
@[simp] theorem State.setLaunch_ctxs (c l : Nat) (x : Launch) : (s.setLaunch c l x).ctxs = s.ctxs := rfl
@[simp] theorem State.setLaunch_dead (c l : Nat) (x : Launch) : (s.setLaunch c l x).dead = s.dead := rfl
@[simp] theorem State.setLaunch_launches (c l : Nat) (x : Launch) : (s.setLaunch c l x).launches = aset s.launches (c, l) x := rfl
@[simp] theorem State.setLaunch_crews (c l : Nat) (x : Launch) : (s.setLaunch c l x).crews = s.crews := rfl
@[simp] theorem State.setLaunch_coreSeq (c l : Nat) (x : Launch) : (s.setLaunch c l x).coreSeq = s.coreSeq := rfl
@[simp] theorem State.setLaunch_warps (c l : Nat) (x : Launch) : (s.setLaunch c l x).warps = s.warps := rfl
@[simp] theorem State.setLaunch_orphans (c l : Nat) (x : Launch) : (s.setLaunch c l x).orphans = s.orphans := rfl
@[simp] theorem State.setLaunch_cur (c l : Nat) (x : Launch) : (s.setLaunch c l x).cur = s.cur := rfl
@[simp] theorem State.setLaunch_out (c l : Nat) (x : Launch) : (s.setLaunch c l x).out = s.out := rfl
@[simp] theorem State.setLaunch_met (c l : Nat) (x : Launch) : (s.setLaunch c l x).met = s.met := rfl
@[simp] theorem State.setLaunch_peers (c l : Nat) (x : Launch) : (s.setLaunch c l x).peers = s.peers := rfl
@[simp] theorem State.setLaunch_crSlots (c l : Nat) (x : Launch) : (s.setLaunch c l x).crSlots = s.crSlots := rfl
@[simp] theorem State.setLaunch_badSpots (c l : Nat) (x : Launch) : (s.setLaunch c l x).badSpots = s.badSpots := rfl
@[simp] theorem State.setLaunch_subject (c l : Nat) (x : Launch) : (s.setLaunch c l x).subject = s.subject := rfl
@[simp] theorem State.setLaunch_input (c l : Nat) (x : Launch) : (s.setLaunch c l x).input = s.input := rfl
@[simp] theorem State.setLaunch_agenda (c l : Nat) (x : Launch) : (s.setLaunch c l x).agenda = s.agenda := rfl
@[simp] theorem State.setLaunch_freeCtr (c l : Nat) (x : Launch) : (s.setLaunch c l x).freeCtr = s.freeCtr := rfl
@[simp] theorem State.setLaunch_nextId (c l : Nat) (x : Launch) : (s.setLaunch c l x).nextId = s.nextId := rfl

/-! `State.setCtx`. -/

@[simp] theorem State.setCtx_time (c : Nat) (x : Ctx) : (s.setCtx c x).time = s.time := rfl
@[simp] theorem State.setCtx_phase (c : Nat) (x : Ctx) : (s.setCtx c x).phase = s.phase := rfl
@[simp] theorem State.setCtx_mem (c : Nat) (x : Ctx) : (s.setCtx c x).mem = s.mem := rfl
@[simp] theorem State.setCtx_cxlFrames (c : Nat) (x : Ctx) : (s.setCtx c x).cxlFrames = s.cxlFrames := rfl
@[simp] theorem State.setCtx_lines (c : Nat) (x : Ctx) : (s.setCtx c x).lines = s.lines := rfl
@[simp] theorem State.setCtx_sliceExp (c : Nat) (x : Ctx) : (s.setCtx c x).sliceExp = s.sliceExp := rfl
@[simp] theorem State.setCtx_verCtr (c : Nat) (x : Ctx) : (s.setCtx c x).verCtr = s.verCtr := rfl
@[simp] theorem State.setCtx_l2 (c : Nat) (x : Ctx) : (s.setCtx c x).l2 = s.l2 := rfl
@[simp] theorem State.setCtx_partials (c : Nat) (x : Ctx) : (s.setCtx c x).partials = s.partials := rfl
@[simp] theorem State.setCtx_crFlags (c : Nat) (x : Ctx) : (s.setCtx c x).crFlags = s.crFlags := rfl
@[simp] theorem State.setCtx_badLines (c : Nat) (x : Ctx) : (s.setCtx c x).badLines = s.badLines := rfl
@[simp] theorem State.setCtx_l1 (c : Nat) (x : Ctx) : (s.setCtx c x).l1 = s.l1 := rfl
@[simp] theorem State.setCtx_tlb (c : Nat) (x : Ctx) : (s.setCtx c x).tlb = s.tlb := rfl
@[simp] theorem State.setCtx_icache (c : Nat) (x : Ctx) : (s.setCtx c x).icache = s.icache := rfl
@[simp] theorem State.setCtx_clearing (c : Nat) (x : Ctx) : (s.setCtx c x).clearing = s.clearing := rfl
@[simp] theorem State.setCtx_clockMHz (c : Nat) (x : Ctx) : (s.setCtx c x).clockMHz = s.clockMHz := rfl
@[simp] theorem State.setCtx_clocks (c : Nat) (x : Ctx) : (s.setCtx c x).clocks = s.clocks := rfl
@[simp] theorem State.setCtx_clockRem (c : Nat) (x : Ctx) : (s.setCtx c x).clockRem = s.clockRem := rfl
@[simp] theorem State.setCtx_scr (c : Nat) (x : Ctx) : (s.setCtx c x).scr = s.scr := rfl
@[simp] theorem State.setCtx_acctab (c : Nat) (x : Ctx) : (s.setCtx c x).acctab = s.acctab := rfl
@[simp] theorem State.setCtx_acchalf (c : Nat) (x : Ctx) : (s.setCtx c x).acchalf = s.acchalf := rfl
@[simp] theorem State.setCtx_poolQ (c : Nat) (x : Ctx) : (s.setCtx c x).poolQ = s.poolQ := rfl
@[simp] theorem State.setCtx_runs (c : Nat) (x : Ctx) : (s.setCtx c x).runs = s.runs := rfl
@[simp] theorem State.setCtx_msgs (c : Nat) (x : Ctx) : (s.setCtx c x).msgs = s.msgs := rfl
@[simp] theorem State.setCtx_pends (c : Nat) (x : Ctx) : (s.setCtx c x).pends = s.pends := rfl
@[simp] theorem State.setCtx_xq (c : Nat) (x : Ctx) : (s.setCtx c x).xq = s.xq := rfl
@[simp] theorem State.setCtx_xnext (c : Nat) (x : Ctx) : (s.setCtx c x).xnext = s.xnext := rfl
@[simp] theorem State.setCtx_reqs (c : Nat) (x : Ctx) : (s.setCtx c x).reqs = s.reqs := rfl
@[simp] theorem State.setCtx_evEntries (c : Nat) (x : Ctx) : (s.setCtx c x).evEntries = s.evEntries := rfl
@[simp] theorem State.setCtx_evOver (c : Nat) (x : Ctx) : (s.setCtx c x).evOver = s.evOver := rfl
@[simp] theorem State.setCtx_teller (c : Nat) (x : Ctx) : (s.setCtx c x).teller = s.teller := rfl
@[simp] theorem State.setCtx_faultQ (c : Nat) (x : Ctx) : (s.setCtx c x).faultQ = s.faultQ := rfl
@[simp] theorem State.setCtx_demreqs (c : Nat) (x : Ctx) : (s.setCtx c x).demreqs = s.demreqs := rfl
@[simp] theorem State.setCtx_staging (c : Nat) (x : Ctx) : (s.setCtx c x).staging = s.staging := rfl
@[simp] theorem State.setCtx_lanes (c : Nat) (x : Ctx) : (s.setCtx c x).lanes = s.lanes := rfl
@[simp] theorem State.setCtx_laneWct (c : Nat) (x : Ctx) : (s.setCtx c x).laneWct = s.laneWct := rfl
@[simp] theorem State.setCtx_session (c : Nat) (x : Ctx) : (s.setCtx c x).session = s.session := rfl
@[simp] theorem State.setCtx_compQ (c : Nat) (x : Ctx) : (s.setCtx c x).compQ = s.compQ := rfl
@[simp] theorem State.setCtx_openResult (c : Nat) (x : Ctx) : (s.setCtx c x).openResult = s.openResult := rfl
@[simp] theorem State.setCtx_spdm (c : Nat) (x : Ctx) : (s.setCtx c x).spdm = s.spdm := rfl
@[simp] theorem State.setCtx_fabricId (c : Nat) (x : Ctx) : (s.setCtx c x).fabricId = s.fabricId := rfl
@[simp] theorem State.setCtx_fuses (c : Nat) (x : Ctx) : (s.setCtx c x).fuses = s.fuses := rfl
@[simp] theorem State.setCtx_ghosts (c : Nat) (x : Ctx) : (s.setCtx c x).ghosts = s.ghosts := rfl
@[simp] theorem State.setCtx_unheard (c : Nat) (x : Ctx) : (s.setCtx c x).unheard = s.unheard := rfl
@[simp] theorem State.setCtx_stores (c : Nat) (x : Ctx) : (s.setCtx c x).stores = s.stores := rfl
@[simp] theorem State.setCtx_ctxs (c : Nat) (x : Ctx) : (s.setCtx c x).ctxs = aset s.ctxs c x := rfl
@[simp] theorem State.setCtx_dead (c : Nat) (x : Ctx) : (s.setCtx c x).dead = s.dead := rfl
@[simp] theorem State.setCtx_launches (c : Nat) (x : Ctx) : (s.setCtx c x).launches = s.launches := rfl
@[simp] theorem State.setCtx_crews (c : Nat) (x : Ctx) : (s.setCtx c x).crews = s.crews := rfl
@[simp] theorem State.setCtx_coreSeq (c : Nat) (x : Ctx) : (s.setCtx c x).coreSeq = s.coreSeq := rfl
@[simp] theorem State.setCtx_warps (c : Nat) (x : Ctx) : (s.setCtx c x).warps = s.warps := rfl
@[simp] theorem State.setCtx_orphans (c : Nat) (x : Ctx) : (s.setCtx c x).orphans = s.orphans := rfl
@[simp] theorem State.setCtx_cur (c : Nat) (x : Ctx) : (s.setCtx c x).cur = s.cur := rfl
@[simp] theorem State.setCtx_out (c : Nat) (x : Ctx) : (s.setCtx c x).out = s.out := rfl
@[simp] theorem State.setCtx_met (c : Nat) (x : Ctx) : (s.setCtx c x).met = s.met := rfl
@[simp] theorem State.setCtx_peers (c : Nat) (x : Ctx) : (s.setCtx c x).peers = s.peers := rfl
@[simp] theorem State.setCtx_crSlots (c : Nat) (x : Ctx) : (s.setCtx c x).crSlots = s.crSlots := rfl
@[simp] theorem State.setCtx_badSpots (c : Nat) (x : Ctx) : (s.setCtx c x).badSpots = s.badSpots := rfl
@[simp] theorem State.setCtx_subject (c : Nat) (x : Ctx) : (s.setCtx c x).subject = s.subject := rfl
@[simp] theorem State.setCtx_input (c : Nat) (x : Ctx) : (s.setCtx c x).input = s.input := rfl
@[simp] theorem State.setCtx_agenda (c : Nat) (x : Ctx) : (s.setCtx c x).agenda = s.agenda := rfl
@[simp] theorem State.setCtx_freeCtr (c : Nat) (x : Ctx) : (s.setCtx c x).freeCtr = s.freeCtr := rfl
@[simp] theorem State.setCtx_nextId (c : Nat) (x : Ctx) : (s.setCtx c x).nextId = s.nextId := rfl

/-! `State.modWarp`. -/

@[simp] theorem State.modWarp_time (k : WarpKey) (f : Warp → Warp) : (s.modWarp k f).time = s.time := rfl
@[simp] theorem State.modWarp_phase (k : WarpKey) (f : Warp → Warp) : (s.modWarp k f).phase = s.phase := rfl
@[simp] theorem State.modWarp_mem (k : WarpKey) (f : Warp → Warp) : (s.modWarp k f).mem = s.mem := rfl
@[simp] theorem State.modWarp_cxlFrames (k : WarpKey) (f : Warp → Warp) : (s.modWarp k f).cxlFrames = s.cxlFrames := rfl
@[simp] theorem State.modWarp_lines (k : WarpKey) (f : Warp → Warp) : (s.modWarp k f).lines = s.lines := rfl
@[simp] theorem State.modWarp_sliceExp (k : WarpKey) (f : Warp → Warp) : (s.modWarp k f).sliceExp = s.sliceExp := rfl
@[simp] theorem State.modWarp_verCtr (k : WarpKey) (f : Warp → Warp) : (s.modWarp k f).verCtr = s.verCtr := rfl
@[simp] theorem State.modWarp_l2 (k : WarpKey) (f : Warp → Warp) : (s.modWarp k f).l2 = s.l2 := rfl
@[simp] theorem State.modWarp_partials (k : WarpKey) (f : Warp → Warp) : (s.modWarp k f).partials = s.partials := rfl
@[simp] theorem State.modWarp_crFlags (k : WarpKey) (f : Warp → Warp) : (s.modWarp k f).crFlags = s.crFlags := rfl
@[simp] theorem State.modWarp_badLines (k : WarpKey) (f : Warp → Warp) : (s.modWarp k f).badLines = s.badLines := rfl
@[simp] theorem State.modWarp_l1 (k : WarpKey) (f : Warp → Warp) : (s.modWarp k f).l1 = s.l1 := rfl
@[simp] theorem State.modWarp_tlb (k : WarpKey) (f : Warp → Warp) : (s.modWarp k f).tlb = s.tlb := rfl
@[simp] theorem State.modWarp_icache (k : WarpKey) (f : Warp → Warp) : (s.modWarp k f).icache = s.icache := rfl
@[simp] theorem State.modWarp_clearing (k : WarpKey) (f : Warp → Warp) : (s.modWarp k f).clearing = s.clearing := rfl
@[simp] theorem State.modWarp_clockMHz (k : WarpKey) (f : Warp → Warp) : (s.modWarp k f).clockMHz = s.clockMHz := rfl
@[simp] theorem State.modWarp_clocks (k : WarpKey) (f : Warp → Warp) : (s.modWarp k f).clocks = s.clocks := rfl
@[simp] theorem State.modWarp_clockRem (k : WarpKey) (f : Warp → Warp) : (s.modWarp k f).clockRem = s.clockRem := rfl
@[simp] theorem State.modWarp_scr (k : WarpKey) (f : Warp → Warp) : (s.modWarp k f).scr = s.scr := rfl
@[simp] theorem State.modWarp_acctab (k : WarpKey) (f : Warp → Warp) : (s.modWarp k f).acctab = s.acctab := rfl
@[simp] theorem State.modWarp_acchalf (k : WarpKey) (f : Warp → Warp) : (s.modWarp k f).acchalf = s.acchalf := rfl
@[simp] theorem State.modWarp_poolQ (k : WarpKey) (f : Warp → Warp) : (s.modWarp k f).poolQ = s.poolQ := rfl
@[simp] theorem State.modWarp_runs (k : WarpKey) (f : Warp → Warp) : (s.modWarp k f).runs = s.runs := rfl
@[simp] theorem State.modWarp_msgs (k : WarpKey) (f : Warp → Warp) : (s.modWarp k f).msgs = s.msgs := rfl
@[simp] theorem State.modWarp_pends (k : WarpKey) (f : Warp → Warp) : (s.modWarp k f).pends = s.pends := rfl
@[simp] theorem State.modWarp_xq (k : WarpKey) (f : Warp → Warp) : (s.modWarp k f).xq = s.xq := rfl
@[simp] theorem State.modWarp_xnext (k : WarpKey) (f : Warp → Warp) : (s.modWarp k f).xnext = s.xnext := rfl
@[simp] theorem State.modWarp_reqs (k : WarpKey) (f : Warp → Warp) : (s.modWarp k f).reqs = s.reqs := rfl
@[simp] theorem State.modWarp_evEntries (k : WarpKey) (f : Warp → Warp) : (s.modWarp k f).evEntries = s.evEntries := rfl
@[simp] theorem State.modWarp_evOver (k : WarpKey) (f : Warp → Warp) : (s.modWarp k f).evOver = s.evOver := rfl
@[simp] theorem State.modWarp_teller (k : WarpKey) (f : Warp → Warp) : (s.modWarp k f).teller = s.teller := rfl
@[simp] theorem State.modWarp_faultQ (k : WarpKey) (f : Warp → Warp) : (s.modWarp k f).faultQ = s.faultQ := rfl
@[simp] theorem State.modWarp_demreqs (k : WarpKey) (f : Warp → Warp) : (s.modWarp k f).demreqs = s.demreqs := rfl
@[simp] theorem State.modWarp_staging (k : WarpKey) (f : Warp → Warp) : (s.modWarp k f).staging = s.staging := rfl
@[simp] theorem State.modWarp_lanes (k : WarpKey) (f : Warp → Warp) : (s.modWarp k f).lanes = s.lanes := rfl
@[simp] theorem State.modWarp_laneWct (k : WarpKey) (f : Warp → Warp) : (s.modWarp k f).laneWct = s.laneWct := rfl
@[simp] theorem State.modWarp_session (k : WarpKey) (f : Warp → Warp) : (s.modWarp k f).session = s.session := rfl
@[simp] theorem State.modWarp_compQ (k : WarpKey) (f : Warp → Warp) : (s.modWarp k f).compQ = s.compQ := rfl
@[simp] theorem State.modWarp_openResult (k : WarpKey) (f : Warp → Warp) : (s.modWarp k f).openResult = s.openResult := rfl
@[simp] theorem State.modWarp_spdm (k : WarpKey) (f : Warp → Warp) : (s.modWarp k f).spdm = s.spdm := rfl
@[simp] theorem State.modWarp_fabricId (k : WarpKey) (f : Warp → Warp) : (s.modWarp k f).fabricId = s.fabricId := rfl
@[simp] theorem State.modWarp_fuses (k : WarpKey) (f : Warp → Warp) : (s.modWarp k f).fuses = s.fuses := rfl
@[simp] theorem State.modWarp_ghosts (k : WarpKey) (f : Warp → Warp) : (s.modWarp k f).ghosts = s.ghosts := rfl
@[simp] theorem State.modWarp_unheard (k : WarpKey) (f : Warp → Warp) : (s.modWarp k f).unheard = s.unheard := rfl
@[simp] theorem State.modWarp_stores (k : WarpKey) (f : Warp → Warp) : (s.modWarp k f).stores = s.stores := rfl
@[simp] theorem State.modWarp_ctxs (k : WarpKey) (f : Warp → Warp) : (s.modWarp k f).ctxs = s.ctxs := rfl
@[simp] theorem State.modWarp_dead (k : WarpKey) (f : Warp → Warp) : (s.modWarp k f).dead = s.dead := rfl
@[simp] theorem State.modWarp_launches (k : WarpKey) (f : Warp → Warp) : (s.modWarp k f).launches = s.launches := rfl
@[simp] theorem State.modWarp_crews (k : WarpKey) (f : Warp → Warp) : (s.modWarp k f).crews = s.crews := rfl
@[simp] theorem State.modWarp_coreSeq (k : WarpKey) (f : Warp → Warp) : (s.modWarp k f).coreSeq = s.coreSeq := rfl
@[simp] theorem State.modWarp_warps (k : WarpKey) (f : Warp → Warp) : (s.modWarp k f).warps = aset s.warps k (f (s.warp k)) := rfl
@[simp] theorem State.modWarp_orphans (k : WarpKey) (f : Warp → Warp) : (s.modWarp k f).orphans = s.orphans := rfl
@[simp] theorem State.modWarp_cur (k : WarpKey) (f : Warp → Warp) : (s.modWarp k f).cur = s.cur := rfl
@[simp] theorem State.modWarp_out (k : WarpKey) (f : Warp → Warp) : (s.modWarp k f).out = s.out := rfl
@[simp] theorem State.modWarp_met (k : WarpKey) (f : Warp → Warp) : (s.modWarp k f).met = s.met := rfl
@[simp] theorem State.modWarp_peers (k : WarpKey) (f : Warp → Warp) : (s.modWarp k f).peers = s.peers := rfl
@[simp] theorem State.modWarp_crSlots (k : WarpKey) (f : Warp → Warp) : (s.modWarp k f).crSlots = s.crSlots := rfl
@[simp] theorem State.modWarp_badSpots (k : WarpKey) (f : Warp → Warp) : (s.modWarp k f).badSpots = s.badSpots := rfl
@[simp] theorem State.modWarp_subject (k : WarpKey) (f : Warp → Warp) : (s.modWarp k f).subject = s.subject := rfl
@[simp] theorem State.modWarp_input (k : WarpKey) (f : Warp → Warp) : (s.modWarp k f).input = s.input := rfl
@[simp] theorem State.modWarp_agenda (k : WarpKey) (f : Warp → Warp) : (s.modWarp k f).agenda = s.agenda := rfl
@[simp] theorem State.modWarp_freeCtr (k : WarpKey) (f : Warp → Warp) : (s.modWarp k f).freeCtr = s.freeCtr := rfl
@[simp] theorem State.modWarp_nextId (k : WarpKey) (f : Warp → Warp) : (s.modWarp k f).nextId = s.nextId := rfl

/-! `State.modCrew`. -/

@[simp] theorem State.modCrew_time (k : CrewKey) (f : Crew → Crew) : (s.modCrew k f).time = s.time := rfl
@[simp] theorem State.modCrew_phase (k : CrewKey) (f : Crew → Crew) : (s.modCrew k f).phase = s.phase := rfl
@[simp] theorem State.modCrew_mem (k : CrewKey) (f : Crew → Crew) : (s.modCrew k f).mem = s.mem := rfl
@[simp] theorem State.modCrew_cxlFrames (k : CrewKey) (f : Crew → Crew) : (s.modCrew k f).cxlFrames = s.cxlFrames := rfl
@[simp] theorem State.modCrew_lines (k : CrewKey) (f : Crew → Crew) : (s.modCrew k f).lines = s.lines := rfl
@[simp] theorem State.modCrew_sliceExp (k : CrewKey) (f : Crew → Crew) : (s.modCrew k f).sliceExp = s.sliceExp := rfl
@[simp] theorem State.modCrew_verCtr (k : CrewKey) (f : Crew → Crew) : (s.modCrew k f).verCtr = s.verCtr := rfl
@[simp] theorem State.modCrew_l2 (k : CrewKey) (f : Crew → Crew) : (s.modCrew k f).l2 = s.l2 := rfl
@[simp] theorem State.modCrew_partials (k : CrewKey) (f : Crew → Crew) : (s.modCrew k f).partials = s.partials := rfl
@[simp] theorem State.modCrew_crFlags (k : CrewKey) (f : Crew → Crew) : (s.modCrew k f).crFlags = s.crFlags := rfl
@[simp] theorem State.modCrew_badLines (k : CrewKey) (f : Crew → Crew) : (s.modCrew k f).badLines = s.badLines := rfl
@[simp] theorem State.modCrew_l1 (k : CrewKey) (f : Crew → Crew) : (s.modCrew k f).l1 = s.l1 := rfl
@[simp] theorem State.modCrew_tlb (k : CrewKey) (f : Crew → Crew) : (s.modCrew k f).tlb = s.tlb := rfl
@[simp] theorem State.modCrew_icache (k : CrewKey) (f : Crew → Crew) : (s.modCrew k f).icache = s.icache := rfl
@[simp] theorem State.modCrew_clearing (k : CrewKey) (f : Crew → Crew) : (s.modCrew k f).clearing = s.clearing := rfl
@[simp] theorem State.modCrew_clockMHz (k : CrewKey) (f : Crew → Crew) : (s.modCrew k f).clockMHz = s.clockMHz := rfl
@[simp] theorem State.modCrew_clocks (k : CrewKey) (f : Crew → Crew) : (s.modCrew k f).clocks = s.clocks := rfl
@[simp] theorem State.modCrew_clockRem (k : CrewKey) (f : Crew → Crew) : (s.modCrew k f).clockRem = s.clockRem := rfl
@[simp] theorem State.modCrew_scr (k : CrewKey) (f : Crew → Crew) : (s.modCrew k f).scr = s.scr := rfl
@[simp] theorem State.modCrew_acctab (k : CrewKey) (f : Crew → Crew) : (s.modCrew k f).acctab = s.acctab := rfl
@[simp] theorem State.modCrew_acchalf (k : CrewKey) (f : Crew → Crew) : (s.modCrew k f).acchalf = s.acchalf := rfl
@[simp] theorem State.modCrew_poolQ (k : CrewKey) (f : Crew → Crew) : (s.modCrew k f).poolQ = s.poolQ := rfl
@[simp] theorem State.modCrew_runs (k : CrewKey) (f : Crew → Crew) : (s.modCrew k f).runs = s.runs := rfl
@[simp] theorem State.modCrew_msgs (k : CrewKey) (f : Crew → Crew) : (s.modCrew k f).msgs = s.msgs := rfl
@[simp] theorem State.modCrew_pends (k : CrewKey) (f : Crew → Crew) : (s.modCrew k f).pends = s.pends := rfl
@[simp] theorem State.modCrew_xq (k : CrewKey) (f : Crew → Crew) : (s.modCrew k f).xq = s.xq := rfl
@[simp] theorem State.modCrew_xnext (k : CrewKey) (f : Crew → Crew) : (s.modCrew k f).xnext = s.xnext := rfl
@[simp] theorem State.modCrew_reqs (k : CrewKey) (f : Crew → Crew) : (s.modCrew k f).reqs = s.reqs := rfl
@[simp] theorem State.modCrew_evEntries (k : CrewKey) (f : Crew → Crew) : (s.modCrew k f).evEntries = s.evEntries := rfl
@[simp] theorem State.modCrew_evOver (k : CrewKey) (f : Crew → Crew) : (s.modCrew k f).evOver = s.evOver := rfl
@[simp] theorem State.modCrew_teller (k : CrewKey) (f : Crew → Crew) : (s.modCrew k f).teller = s.teller := rfl
@[simp] theorem State.modCrew_faultQ (k : CrewKey) (f : Crew → Crew) : (s.modCrew k f).faultQ = s.faultQ := rfl
@[simp] theorem State.modCrew_demreqs (k : CrewKey) (f : Crew → Crew) : (s.modCrew k f).demreqs = s.demreqs := rfl
@[simp] theorem State.modCrew_staging (k : CrewKey) (f : Crew → Crew) : (s.modCrew k f).staging = s.staging := rfl
@[simp] theorem State.modCrew_lanes (k : CrewKey) (f : Crew → Crew) : (s.modCrew k f).lanes = s.lanes := rfl
@[simp] theorem State.modCrew_laneWct (k : CrewKey) (f : Crew → Crew) : (s.modCrew k f).laneWct = s.laneWct := rfl
@[simp] theorem State.modCrew_session (k : CrewKey) (f : Crew → Crew) : (s.modCrew k f).session = s.session := rfl
@[simp] theorem State.modCrew_compQ (k : CrewKey) (f : Crew → Crew) : (s.modCrew k f).compQ = s.compQ := rfl
@[simp] theorem State.modCrew_openResult (k : CrewKey) (f : Crew → Crew) : (s.modCrew k f).openResult = s.openResult := rfl
@[simp] theorem State.modCrew_spdm (k : CrewKey) (f : Crew → Crew) : (s.modCrew k f).spdm = s.spdm := rfl
@[simp] theorem State.modCrew_fabricId (k : CrewKey) (f : Crew → Crew) : (s.modCrew k f).fabricId = s.fabricId := rfl
@[simp] theorem State.modCrew_fuses (k : CrewKey) (f : Crew → Crew) : (s.modCrew k f).fuses = s.fuses := rfl
@[simp] theorem State.modCrew_ghosts (k : CrewKey) (f : Crew → Crew) : (s.modCrew k f).ghosts = s.ghosts := rfl
@[simp] theorem State.modCrew_unheard (k : CrewKey) (f : Crew → Crew) : (s.modCrew k f).unheard = s.unheard := rfl
@[simp] theorem State.modCrew_stores (k : CrewKey) (f : Crew → Crew) : (s.modCrew k f).stores = s.stores := rfl
@[simp] theorem State.modCrew_ctxs (k : CrewKey) (f : Crew → Crew) : (s.modCrew k f).ctxs = s.ctxs := rfl
@[simp] theorem State.modCrew_dead (k : CrewKey) (f : Crew → Crew) : (s.modCrew k f).dead = s.dead := rfl
@[simp] theorem State.modCrew_launches (k : CrewKey) (f : Crew → Crew) : (s.modCrew k f).launches = s.launches := rfl
@[simp] theorem State.modCrew_crews (k : CrewKey) (f : Crew → Crew) : (s.modCrew k f).crews = aset s.crews k (f (s.crew k)) := rfl
@[simp] theorem State.modCrew_coreSeq (k : CrewKey) (f : Crew → Crew) : (s.modCrew k f).coreSeq = s.coreSeq := rfl
@[simp] theorem State.modCrew_warps (k : CrewKey) (f : Crew → Crew) : (s.modCrew k f).warps = s.warps := rfl
@[simp] theorem State.modCrew_orphans (k : CrewKey) (f : Crew → Crew) : (s.modCrew k f).orphans = s.orphans := rfl
@[simp] theorem State.modCrew_cur (k : CrewKey) (f : Crew → Crew) : (s.modCrew k f).cur = s.cur := rfl
@[simp] theorem State.modCrew_out (k : CrewKey) (f : Crew → Crew) : (s.modCrew k f).out = s.out := rfl
@[simp] theorem State.modCrew_met (k : CrewKey) (f : Crew → Crew) : (s.modCrew k f).met = s.met := rfl
@[simp] theorem State.modCrew_peers (k : CrewKey) (f : Crew → Crew) : (s.modCrew k f).peers = s.peers := rfl
@[simp] theorem State.modCrew_crSlots (k : CrewKey) (f : Crew → Crew) : (s.modCrew k f).crSlots = s.crSlots := rfl
@[simp] theorem State.modCrew_badSpots (k : CrewKey) (f : Crew → Crew) : (s.modCrew k f).badSpots = s.badSpots := rfl
@[simp] theorem State.modCrew_subject (k : CrewKey) (f : Crew → Crew) : (s.modCrew k f).subject = s.subject := rfl
@[simp] theorem State.modCrew_input (k : CrewKey) (f : Crew → Crew) : (s.modCrew k f).input = s.input := rfl
@[simp] theorem State.modCrew_agenda (k : CrewKey) (f : Crew → Crew) : (s.modCrew k f).agenda = s.agenda := rfl
@[simp] theorem State.modCrew_freeCtr (k : CrewKey) (f : Crew → Crew) : (s.modCrew k f).freeCtr = s.freeCtr := rfl
@[simp] theorem State.modCrew_nextId (k : CrewKey) (f : Crew → Crew) : (s.modCrew k f).nextId = s.nextId := rfl

/-! `State.modLaunch`. -/

@[simp] theorem State.modLaunch_time (c l : Nat) (f : Launch → Launch) : (s.modLaunch c l f).time = s.time := rfl
@[simp] theorem State.modLaunch_phase (c l : Nat) (f : Launch → Launch) : (s.modLaunch c l f).phase = s.phase := rfl
@[simp] theorem State.modLaunch_mem (c l : Nat) (f : Launch → Launch) : (s.modLaunch c l f).mem = s.mem := rfl
@[simp] theorem State.modLaunch_cxlFrames (c l : Nat) (f : Launch → Launch) : (s.modLaunch c l f).cxlFrames = s.cxlFrames := rfl
@[simp] theorem State.modLaunch_lines (c l : Nat) (f : Launch → Launch) : (s.modLaunch c l f).lines = s.lines := rfl
@[simp] theorem State.modLaunch_sliceExp (c l : Nat) (f : Launch → Launch) : (s.modLaunch c l f).sliceExp = s.sliceExp := rfl
@[simp] theorem State.modLaunch_verCtr (c l : Nat) (f : Launch → Launch) : (s.modLaunch c l f).verCtr = s.verCtr := rfl
@[simp] theorem State.modLaunch_l2 (c l : Nat) (f : Launch → Launch) : (s.modLaunch c l f).l2 = s.l2 := rfl
@[simp] theorem State.modLaunch_partials (c l : Nat) (f : Launch → Launch) : (s.modLaunch c l f).partials = s.partials := rfl
@[simp] theorem State.modLaunch_crFlags (c l : Nat) (f : Launch → Launch) : (s.modLaunch c l f).crFlags = s.crFlags := rfl
@[simp] theorem State.modLaunch_badLines (c l : Nat) (f : Launch → Launch) : (s.modLaunch c l f).badLines = s.badLines := rfl
@[simp] theorem State.modLaunch_l1 (c l : Nat) (f : Launch → Launch) : (s.modLaunch c l f).l1 = s.l1 := rfl
@[simp] theorem State.modLaunch_tlb (c l : Nat) (f : Launch → Launch) : (s.modLaunch c l f).tlb = s.tlb := rfl
@[simp] theorem State.modLaunch_icache (c l : Nat) (f : Launch → Launch) : (s.modLaunch c l f).icache = s.icache := rfl
@[simp] theorem State.modLaunch_clearing (c l : Nat) (f : Launch → Launch) : (s.modLaunch c l f).clearing = s.clearing := rfl
@[simp] theorem State.modLaunch_clockMHz (c l : Nat) (f : Launch → Launch) : (s.modLaunch c l f).clockMHz = s.clockMHz := rfl
@[simp] theorem State.modLaunch_clocks (c l : Nat) (f : Launch → Launch) : (s.modLaunch c l f).clocks = s.clocks := rfl
@[simp] theorem State.modLaunch_clockRem (c l : Nat) (f : Launch → Launch) : (s.modLaunch c l f).clockRem = s.clockRem := rfl
@[simp] theorem State.modLaunch_scr (c l : Nat) (f : Launch → Launch) : (s.modLaunch c l f).scr = s.scr := rfl
@[simp] theorem State.modLaunch_acctab (c l : Nat) (f : Launch → Launch) : (s.modLaunch c l f).acctab = s.acctab := rfl
@[simp] theorem State.modLaunch_acchalf (c l : Nat) (f : Launch → Launch) : (s.modLaunch c l f).acchalf = s.acchalf := rfl
@[simp] theorem State.modLaunch_poolQ (c l : Nat) (f : Launch → Launch) : (s.modLaunch c l f).poolQ = s.poolQ := rfl
@[simp] theorem State.modLaunch_runs (c l : Nat) (f : Launch → Launch) : (s.modLaunch c l f).runs = s.runs := rfl
@[simp] theorem State.modLaunch_msgs (c l : Nat) (f : Launch → Launch) : (s.modLaunch c l f).msgs = s.msgs := rfl
@[simp] theorem State.modLaunch_pends (c l : Nat) (f : Launch → Launch) : (s.modLaunch c l f).pends = s.pends := rfl
@[simp] theorem State.modLaunch_xq (c l : Nat) (f : Launch → Launch) : (s.modLaunch c l f).xq = s.xq := rfl
@[simp] theorem State.modLaunch_xnext (c l : Nat) (f : Launch → Launch) : (s.modLaunch c l f).xnext = s.xnext := rfl
@[simp] theorem State.modLaunch_reqs (c l : Nat) (f : Launch → Launch) : (s.modLaunch c l f).reqs = s.reqs := rfl
@[simp] theorem State.modLaunch_evEntries (c l : Nat) (f : Launch → Launch) : (s.modLaunch c l f).evEntries = s.evEntries := rfl
@[simp] theorem State.modLaunch_evOver (c l : Nat) (f : Launch → Launch) : (s.modLaunch c l f).evOver = s.evOver := rfl
@[simp] theorem State.modLaunch_teller (c l : Nat) (f : Launch → Launch) : (s.modLaunch c l f).teller = s.teller := rfl
@[simp] theorem State.modLaunch_faultQ (c l : Nat) (f : Launch → Launch) : (s.modLaunch c l f).faultQ = s.faultQ := rfl
@[simp] theorem State.modLaunch_demreqs (c l : Nat) (f : Launch → Launch) : (s.modLaunch c l f).demreqs = s.demreqs := rfl
@[simp] theorem State.modLaunch_staging (c l : Nat) (f : Launch → Launch) : (s.modLaunch c l f).staging = s.staging := rfl
@[simp] theorem State.modLaunch_lanes (c l : Nat) (f : Launch → Launch) : (s.modLaunch c l f).lanes = s.lanes := rfl
@[simp] theorem State.modLaunch_laneWct (c l : Nat) (f : Launch → Launch) : (s.modLaunch c l f).laneWct = s.laneWct := rfl
@[simp] theorem State.modLaunch_session (c l : Nat) (f : Launch → Launch) : (s.modLaunch c l f).session = s.session := rfl
@[simp] theorem State.modLaunch_compQ (c l : Nat) (f : Launch → Launch) : (s.modLaunch c l f).compQ = s.compQ := rfl
@[simp] theorem State.modLaunch_openResult (c l : Nat) (f : Launch → Launch) : (s.modLaunch c l f).openResult = s.openResult := rfl
@[simp] theorem State.modLaunch_spdm (c l : Nat) (f : Launch → Launch) : (s.modLaunch c l f).spdm = s.spdm := rfl
@[simp] theorem State.modLaunch_fabricId (c l : Nat) (f : Launch → Launch) : (s.modLaunch c l f).fabricId = s.fabricId := rfl
@[simp] theorem State.modLaunch_fuses (c l : Nat) (f : Launch → Launch) : (s.modLaunch c l f).fuses = s.fuses := rfl
@[simp] theorem State.modLaunch_ghosts (c l : Nat) (f : Launch → Launch) : (s.modLaunch c l f).ghosts = s.ghosts := rfl
@[simp] theorem State.modLaunch_unheard (c l : Nat) (f : Launch → Launch) : (s.modLaunch c l f).unheard = s.unheard := rfl
@[simp] theorem State.modLaunch_stores (c l : Nat) (f : Launch → Launch) : (s.modLaunch c l f).stores = s.stores := rfl
@[simp] theorem State.modLaunch_ctxs (c l : Nat) (f : Launch → Launch) : (s.modLaunch c l f).ctxs = s.ctxs := rfl
@[simp] theorem State.modLaunch_dead (c l : Nat) (f : Launch → Launch) : (s.modLaunch c l f).dead = s.dead := rfl
@[simp] theorem State.modLaunch_launches (c l : Nat) (f : Launch → Launch) : (s.modLaunch c l f).launches = aset s.launches (c, l) (f (s.launch c l)) := rfl
@[simp] theorem State.modLaunch_crews (c l : Nat) (f : Launch → Launch) : (s.modLaunch c l f).crews = s.crews := rfl
@[simp] theorem State.modLaunch_coreSeq (c l : Nat) (f : Launch → Launch) : (s.modLaunch c l f).coreSeq = s.coreSeq := rfl
@[simp] theorem State.modLaunch_warps (c l : Nat) (f : Launch → Launch) : (s.modLaunch c l f).warps = s.warps := rfl
@[simp] theorem State.modLaunch_orphans (c l : Nat) (f : Launch → Launch) : (s.modLaunch c l f).orphans = s.orphans := rfl
@[simp] theorem State.modLaunch_cur (c l : Nat) (f : Launch → Launch) : (s.modLaunch c l f).cur = s.cur := rfl
@[simp] theorem State.modLaunch_out (c l : Nat) (f : Launch → Launch) : (s.modLaunch c l f).out = s.out := rfl
@[simp] theorem State.modLaunch_met (c l : Nat) (f : Launch → Launch) : (s.modLaunch c l f).met = s.met := rfl
@[simp] theorem State.modLaunch_peers (c l : Nat) (f : Launch → Launch) : (s.modLaunch c l f).peers = s.peers := rfl
@[simp] theorem State.modLaunch_crSlots (c l : Nat) (f : Launch → Launch) : (s.modLaunch c l f).crSlots = s.crSlots := rfl
@[simp] theorem State.modLaunch_badSpots (c l : Nat) (f : Launch → Launch) : (s.modLaunch c l f).badSpots = s.badSpots := rfl
@[simp] theorem State.modLaunch_subject (c l : Nat) (f : Launch → Launch) : (s.modLaunch c l f).subject = s.subject := rfl
@[simp] theorem State.modLaunch_input (c l : Nat) (f : Launch → Launch) : (s.modLaunch c l f).input = s.input := rfl
@[simp] theorem State.modLaunch_agenda (c l : Nat) (f : Launch → Launch) : (s.modLaunch c l f).agenda = s.agenda := rfl
@[simp] theorem State.modLaunch_freeCtr (c l : Nat) (f : Launch → Launch) : (s.modLaunch c l f).freeCtr = s.freeCtr := rfl
@[simp] theorem State.modLaunch_nextId (c l : Nat) (f : Launch → Launch) : (s.modLaunch c l f).nextId = s.nextId := rfl

/-! `State.modCtx`. -/

@[simp] theorem State.modCtx_time (c : Nat) (f : Ctx → Ctx) : (s.modCtx c f).time = s.time := rfl
@[simp] theorem State.modCtx_phase (c : Nat) (f : Ctx → Ctx) : (s.modCtx c f).phase = s.phase := rfl
@[simp] theorem State.modCtx_mem (c : Nat) (f : Ctx → Ctx) : (s.modCtx c f).mem = s.mem := rfl
@[simp] theorem State.modCtx_cxlFrames (c : Nat) (f : Ctx → Ctx) : (s.modCtx c f).cxlFrames = s.cxlFrames := rfl
@[simp] theorem State.modCtx_lines (c : Nat) (f : Ctx → Ctx) : (s.modCtx c f).lines = s.lines := rfl
@[simp] theorem State.modCtx_sliceExp (c : Nat) (f : Ctx → Ctx) : (s.modCtx c f).sliceExp = s.sliceExp := rfl
@[simp] theorem State.modCtx_verCtr (c : Nat) (f : Ctx → Ctx) : (s.modCtx c f).verCtr = s.verCtr := rfl
@[simp] theorem State.modCtx_l2 (c : Nat) (f : Ctx → Ctx) : (s.modCtx c f).l2 = s.l2 := rfl
@[simp] theorem State.modCtx_partials (c : Nat) (f : Ctx → Ctx) : (s.modCtx c f).partials = s.partials := rfl
@[simp] theorem State.modCtx_crFlags (c : Nat) (f : Ctx → Ctx) : (s.modCtx c f).crFlags = s.crFlags := rfl
@[simp] theorem State.modCtx_badLines (c : Nat) (f : Ctx → Ctx) : (s.modCtx c f).badLines = s.badLines := rfl
@[simp] theorem State.modCtx_l1 (c : Nat) (f : Ctx → Ctx) : (s.modCtx c f).l1 = s.l1 := rfl
@[simp] theorem State.modCtx_tlb (c : Nat) (f : Ctx → Ctx) : (s.modCtx c f).tlb = s.tlb := rfl
@[simp] theorem State.modCtx_icache (c : Nat) (f : Ctx → Ctx) : (s.modCtx c f).icache = s.icache := rfl
@[simp] theorem State.modCtx_clearing (c : Nat) (f : Ctx → Ctx) : (s.modCtx c f).clearing = s.clearing := rfl
@[simp] theorem State.modCtx_clockMHz (c : Nat) (f : Ctx → Ctx) : (s.modCtx c f).clockMHz = s.clockMHz := rfl
@[simp] theorem State.modCtx_clocks (c : Nat) (f : Ctx → Ctx) : (s.modCtx c f).clocks = s.clocks := rfl
@[simp] theorem State.modCtx_clockRem (c : Nat) (f : Ctx → Ctx) : (s.modCtx c f).clockRem = s.clockRem := rfl
@[simp] theorem State.modCtx_scr (c : Nat) (f : Ctx → Ctx) : (s.modCtx c f).scr = s.scr := rfl
@[simp] theorem State.modCtx_acctab (c : Nat) (f : Ctx → Ctx) : (s.modCtx c f).acctab = s.acctab := rfl
@[simp] theorem State.modCtx_acchalf (c : Nat) (f : Ctx → Ctx) : (s.modCtx c f).acchalf = s.acchalf := rfl
@[simp] theorem State.modCtx_poolQ (c : Nat) (f : Ctx → Ctx) : (s.modCtx c f).poolQ = s.poolQ := rfl
@[simp] theorem State.modCtx_runs (c : Nat) (f : Ctx → Ctx) : (s.modCtx c f).runs = s.runs := rfl
@[simp] theorem State.modCtx_msgs (c : Nat) (f : Ctx → Ctx) : (s.modCtx c f).msgs = s.msgs := rfl
@[simp] theorem State.modCtx_pends (c : Nat) (f : Ctx → Ctx) : (s.modCtx c f).pends = s.pends := rfl
@[simp] theorem State.modCtx_xq (c : Nat) (f : Ctx → Ctx) : (s.modCtx c f).xq = s.xq := rfl
@[simp] theorem State.modCtx_xnext (c : Nat) (f : Ctx → Ctx) : (s.modCtx c f).xnext = s.xnext := rfl
@[simp] theorem State.modCtx_reqs (c : Nat) (f : Ctx → Ctx) : (s.modCtx c f).reqs = s.reqs := rfl
@[simp] theorem State.modCtx_evEntries (c : Nat) (f : Ctx → Ctx) : (s.modCtx c f).evEntries = s.evEntries := rfl
@[simp] theorem State.modCtx_evOver (c : Nat) (f : Ctx → Ctx) : (s.modCtx c f).evOver = s.evOver := rfl
@[simp] theorem State.modCtx_teller (c : Nat) (f : Ctx → Ctx) : (s.modCtx c f).teller = s.teller := rfl
@[simp] theorem State.modCtx_faultQ (c : Nat) (f : Ctx → Ctx) : (s.modCtx c f).faultQ = s.faultQ := rfl
@[simp] theorem State.modCtx_demreqs (c : Nat) (f : Ctx → Ctx) : (s.modCtx c f).demreqs = s.demreqs := rfl
@[simp] theorem State.modCtx_staging (c : Nat) (f : Ctx → Ctx) : (s.modCtx c f).staging = s.staging := rfl
@[simp] theorem State.modCtx_lanes (c : Nat) (f : Ctx → Ctx) : (s.modCtx c f).lanes = s.lanes := rfl
@[simp] theorem State.modCtx_laneWct (c : Nat) (f : Ctx → Ctx) : (s.modCtx c f).laneWct = s.laneWct := rfl
@[simp] theorem State.modCtx_session (c : Nat) (f : Ctx → Ctx) : (s.modCtx c f).session = s.session := rfl
@[simp] theorem State.modCtx_compQ (c : Nat) (f : Ctx → Ctx) : (s.modCtx c f).compQ = s.compQ := rfl
@[simp] theorem State.modCtx_openResult (c : Nat) (f : Ctx → Ctx) : (s.modCtx c f).openResult = s.openResult := rfl
@[simp] theorem State.modCtx_spdm (c : Nat) (f : Ctx → Ctx) : (s.modCtx c f).spdm = s.spdm := rfl
@[simp] theorem State.modCtx_fabricId (c : Nat) (f : Ctx → Ctx) : (s.modCtx c f).fabricId = s.fabricId := rfl
@[simp] theorem State.modCtx_fuses (c : Nat) (f : Ctx → Ctx) : (s.modCtx c f).fuses = s.fuses := rfl
@[simp] theorem State.modCtx_ghosts (c : Nat) (f : Ctx → Ctx) : (s.modCtx c f).ghosts = s.ghosts := rfl
@[simp] theorem State.modCtx_unheard (c : Nat) (f : Ctx → Ctx) : (s.modCtx c f).unheard = s.unheard := rfl
@[simp] theorem State.modCtx_stores (c : Nat) (f : Ctx → Ctx) : (s.modCtx c f).stores = s.stores := rfl
@[simp] theorem State.modCtx_ctxs (c : Nat) (f : Ctx → Ctx) : (s.modCtx c f).ctxs = aset s.ctxs c (f (s.ctx c)) := rfl
@[simp] theorem State.modCtx_dead (c : Nat) (f : Ctx → Ctx) : (s.modCtx c f).dead = s.dead := rfl
@[simp] theorem State.modCtx_launches (c : Nat) (f : Ctx → Ctx) : (s.modCtx c f).launches = s.launches := rfl
@[simp] theorem State.modCtx_crews (c : Nat) (f : Ctx → Ctx) : (s.modCtx c f).crews = s.crews := rfl
@[simp] theorem State.modCtx_coreSeq (c : Nat) (f : Ctx → Ctx) : (s.modCtx c f).coreSeq = s.coreSeq := rfl
@[simp] theorem State.modCtx_warps (c : Nat) (f : Ctx → Ctx) : (s.modCtx c f).warps = s.warps := rfl
@[simp] theorem State.modCtx_orphans (c : Nat) (f : Ctx → Ctx) : (s.modCtx c f).orphans = s.orphans := rfl
@[simp] theorem State.modCtx_cur (c : Nat) (f : Ctx → Ctx) : (s.modCtx c f).cur = s.cur := rfl
@[simp] theorem State.modCtx_out (c : Nat) (f : Ctx → Ctx) : (s.modCtx c f).out = s.out := rfl
@[simp] theorem State.modCtx_met (c : Nat) (f : Ctx → Ctx) : (s.modCtx c f).met = s.met := rfl
@[simp] theorem State.modCtx_peers (c : Nat) (f : Ctx → Ctx) : (s.modCtx c f).peers = s.peers := rfl
@[simp] theorem State.modCtx_crSlots (c : Nat) (f : Ctx → Ctx) : (s.modCtx c f).crSlots = s.crSlots := rfl
@[simp] theorem State.modCtx_badSpots (c : Nat) (f : Ctx → Ctx) : (s.modCtx c f).badSpots = s.badSpots := rfl
@[simp] theorem State.modCtx_subject (c : Nat) (f : Ctx → Ctx) : (s.modCtx c f).subject = s.subject := rfl
@[simp] theorem State.modCtx_input (c : Nat) (f : Ctx → Ctx) : (s.modCtx c f).input = s.input := rfl
@[simp] theorem State.modCtx_agenda (c : Nat) (f : Ctx → Ctx) : (s.modCtx c f).agenda = s.agenda := rfl
@[simp] theorem State.modCtx_freeCtr (c : Nat) (f : Ctx → Ctx) : (s.modCtx c f).freeCtr = s.freeCtr := rfl
@[simp] theorem State.modCtx_nextId (c : Nat) (f : Ctx → Ctx) : (s.modCtx c f).nextId = s.nextId := rfl

/-! `State.wrN`. -/

@[simp] theorem State.wrN_time (pa : Nat) (d : List Byte) : (s.wrN pa d).time = s.time := rfl
@[simp] theorem State.wrN_phase (pa : Nat) (d : List Byte) : (s.wrN pa d).phase = s.phase := rfl
@[simp] theorem State.wrN_mem (pa : Nat) (d : List Byte) : (s.wrN pa d).mem = ssetList s.mem pa d := rfl
@[simp] theorem State.wrN_cxlFrames (pa : Nat) (d : List Byte) : (s.wrN pa d).cxlFrames = s.cxlFrames := rfl
@[simp] theorem State.wrN_lines (pa : Nat) (d : List Byte) : (s.wrN pa d).lines = s.lines := rfl
@[simp] theorem State.wrN_sliceExp (pa : Nat) (d : List Byte) : (s.wrN pa d).sliceExp = s.sliceExp := rfl
@[simp] theorem State.wrN_verCtr (pa : Nat) (d : List Byte) : (s.wrN pa d).verCtr = s.verCtr := rfl
@[simp] theorem State.wrN_l2 (pa : Nat) (d : List Byte) : (s.wrN pa d).l2 = s.l2 := rfl
@[simp] theorem State.wrN_partials (pa : Nat) (d : List Byte) : (s.wrN pa d).partials = s.partials := rfl
@[simp] theorem State.wrN_crFlags (pa : Nat) (d : List Byte) : (s.wrN pa d).crFlags = s.crFlags := rfl
@[simp] theorem State.wrN_badLines (pa : Nat) (d : List Byte) : (s.wrN pa d).badLines = s.badLines := rfl
@[simp] theorem State.wrN_l1 (pa : Nat) (d : List Byte) : (s.wrN pa d).l1 = s.l1 := rfl
@[simp] theorem State.wrN_tlb (pa : Nat) (d : List Byte) : (s.wrN pa d).tlb = s.tlb := rfl
@[simp] theorem State.wrN_icache (pa : Nat) (d : List Byte) : (s.wrN pa d).icache = s.icache := rfl
@[simp] theorem State.wrN_clearing (pa : Nat) (d : List Byte) : (s.wrN pa d).clearing = s.clearing := rfl
@[simp] theorem State.wrN_clockMHz (pa : Nat) (d : List Byte) : (s.wrN pa d).clockMHz = s.clockMHz := rfl
@[simp] theorem State.wrN_clocks (pa : Nat) (d : List Byte) : (s.wrN pa d).clocks = s.clocks := rfl
@[simp] theorem State.wrN_clockRem (pa : Nat) (d : List Byte) : (s.wrN pa d).clockRem = s.clockRem := rfl
@[simp] theorem State.wrN_scr (pa : Nat) (d : List Byte) : (s.wrN pa d).scr = s.scr := rfl
@[simp] theorem State.wrN_acctab (pa : Nat) (d : List Byte) : (s.wrN pa d).acctab = s.acctab := rfl
@[simp] theorem State.wrN_acchalf (pa : Nat) (d : List Byte) : (s.wrN pa d).acchalf = s.acchalf := rfl
@[simp] theorem State.wrN_poolQ (pa : Nat) (d : List Byte) : (s.wrN pa d).poolQ = s.poolQ := rfl
@[simp] theorem State.wrN_runs (pa : Nat) (d : List Byte) : (s.wrN pa d).runs = s.runs := rfl
@[simp] theorem State.wrN_msgs (pa : Nat) (d : List Byte) : (s.wrN pa d).msgs = s.msgs := rfl
@[simp] theorem State.wrN_pends (pa : Nat) (d : List Byte) : (s.wrN pa d).pends = s.pends := rfl
@[simp] theorem State.wrN_xq (pa : Nat) (d : List Byte) : (s.wrN pa d).xq = s.xq := rfl
@[simp] theorem State.wrN_xnext (pa : Nat) (d : List Byte) : (s.wrN pa d).xnext = s.xnext := rfl
@[simp] theorem State.wrN_reqs (pa : Nat) (d : List Byte) : (s.wrN pa d).reqs = s.reqs := rfl
@[simp] theorem State.wrN_evEntries (pa : Nat) (d : List Byte) : (s.wrN pa d).evEntries = s.evEntries := rfl
@[simp] theorem State.wrN_evOver (pa : Nat) (d : List Byte) : (s.wrN pa d).evOver = s.evOver := rfl
@[simp] theorem State.wrN_teller (pa : Nat) (d : List Byte) : (s.wrN pa d).teller = s.teller := rfl
@[simp] theorem State.wrN_faultQ (pa : Nat) (d : List Byte) : (s.wrN pa d).faultQ = s.faultQ := rfl
@[simp] theorem State.wrN_demreqs (pa : Nat) (d : List Byte) : (s.wrN pa d).demreqs = s.demreqs := rfl
@[simp] theorem State.wrN_staging (pa : Nat) (d : List Byte) : (s.wrN pa d).staging = s.staging := rfl
@[simp] theorem State.wrN_lanes (pa : Nat) (d : List Byte) : (s.wrN pa d).lanes = s.lanes := rfl
@[simp] theorem State.wrN_laneWct (pa : Nat) (d : List Byte) : (s.wrN pa d).laneWct = s.laneWct := rfl
@[simp] theorem State.wrN_session (pa : Nat) (d : List Byte) : (s.wrN pa d).session = s.session := rfl
@[simp] theorem State.wrN_compQ (pa : Nat) (d : List Byte) : (s.wrN pa d).compQ = s.compQ := rfl
@[simp] theorem State.wrN_openResult (pa : Nat) (d : List Byte) : (s.wrN pa d).openResult = s.openResult := rfl
@[simp] theorem State.wrN_spdm (pa : Nat) (d : List Byte) : (s.wrN pa d).spdm = s.spdm := rfl
@[simp] theorem State.wrN_fabricId (pa : Nat) (d : List Byte) : (s.wrN pa d).fabricId = s.fabricId := rfl
@[simp] theorem State.wrN_fuses (pa : Nat) (d : List Byte) : (s.wrN pa d).fuses = s.fuses := rfl
@[simp] theorem State.wrN_ghosts (pa : Nat) (d : List Byte) : (s.wrN pa d).ghosts = s.ghosts := rfl
@[simp] theorem State.wrN_unheard (pa : Nat) (d : List Byte) : (s.wrN pa d).unheard = s.unheard := rfl
@[simp] theorem State.wrN_stores (pa : Nat) (d : List Byte) : (s.wrN pa d).stores = s.stores := rfl
@[simp] theorem State.wrN_ctxs (pa : Nat) (d : List Byte) : (s.wrN pa d).ctxs = s.ctxs := rfl
@[simp] theorem State.wrN_dead (pa : Nat) (d : List Byte) : (s.wrN pa d).dead = s.dead := rfl
@[simp] theorem State.wrN_launches (pa : Nat) (d : List Byte) : (s.wrN pa d).launches = s.launches := rfl
@[simp] theorem State.wrN_crews (pa : Nat) (d : List Byte) : (s.wrN pa d).crews = s.crews := rfl
@[simp] theorem State.wrN_coreSeq (pa : Nat) (d : List Byte) : (s.wrN pa d).coreSeq = s.coreSeq := rfl
@[simp] theorem State.wrN_warps (pa : Nat) (d : List Byte) : (s.wrN pa d).warps = s.warps := rfl
@[simp] theorem State.wrN_orphans (pa : Nat) (d : List Byte) : (s.wrN pa d).orphans = s.orphans := rfl
@[simp] theorem State.wrN_cur (pa : Nat) (d : List Byte) : (s.wrN pa d).cur = s.cur := rfl
@[simp] theorem State.wrN_out (pa : Nat) (d : List Byte) : (s.wrN pa d).out = s.out := rfl
@[simp] theorem State.wrN_met (pa : Nat) (d : List Byte) : (s.wrN pa d).met = s.met := rfl
@[simp] theorem State.wrN_peers (pa : Nat) (d : List Byte) : (s.wrN pa d).peers = s.peers := rfl
@[simp] theorem State.wrN_crSlots (pa : Nat) (d : List Byte) : (s.wrN pa d).crSlots = s.crSlots := rfl
@[simp] theorem State.wrN_badSpots (pa : Nat) (d : List Byte) : (s.wrN pa d).badSpots = s.badSpots := rfl
@[simp] theorem State.wrN_subject (pa : Nat) (d : List Byte) : (s.wrN pa d).subject = s.subject := rfl
@[simp] theorem State.wrN_input (pa : Nat) (d : List Byte) : (s.wrN pa d).input = s.input := rfl
@[simp] theorem State.wrN_agenda (pa : Nat) (d : List Byte) : (s.wrN pa d).agenda = s.agenda := rfl
@[simp] theorem State.wrN_freeCtr (pa : Nat) (d : List Byte) : (s.wrN pa d).freeCtr = s.freeCtr := rfl
@[simp] theorem State.wrN_nextId (pa : Nat) (d : List Byte) : (s.wrN pa d).nextId = s.nextId := rfl

/-! `State.dropMsg`. -/

@[simp] theorem State.dropMsg_time (i : Nat) : (s.dropMsg i).time = s.time := rfl
@[simp] theorem State.dropMsg_phase (i : Nat) : (s.dropMsg i).phase = s.phase := rfl
@[simp] theorem State.dropMsg_mem (i : Nat) : (s.dropMsg i).mem = s.mem := rfl
@[simp] theorem State.dropMsg_cxlFrames (i : Nat) : (s.dropMsg i).cxlFrames = s.cxlFrames := rfl
@[simp] theorem State.dropMsg_lines (i : Nat) : (s.dropMsg i).lines = s.lines := rfl
@[simp] theorem State.dropMsg_sliceExp (i : Nat) : (s.dropMsg i).sliceExp = s.sliceExp := rfl
@[simp] theorem State.dropMsg_verCtr (i : Nat) : (s.dropMsg i).verCtr = s.verCtr := rfl
@[simp] theorem State.dropMsg_l2 (i : Nat) : (s.dropMsg i).l2 = s.l2 := rfl
@[simp] theorem State.dropMsg_partials (i : Nat) : (s.dropMsg i).partials = s.partials := rfl
@[simp] theorem State.dropMsg_crFlags (i : Nat) : (s.dropMsg i).crFlags = s.crFlags := rfl
@[simp] theorem State.dropMsg_badLines (i : Nat) : (s.dropMsg i).badLines = s.badLines := rfl
@[simp] theorem State.dropMsg_l1 (i : Nat) : (s.dropMsg i).l1 = s.l1 := rfl
@[simp] theorem State.dropMsg_tlb (i : Nat) : (s.dropMsg i).tlb = s.tlb := rfl
@[simp] theorem State.dropMsg_icache (i : Nat) : (s.dropMsg i).icache = s.icache := rfl
@[simp] theorem State.dropMsg_clearing (i : Nat) : (s.dropMsg i).clearing = s.clearing := rfl
@[simp] theorem State.dropMsg_clockMHz (i : Nat) : (s.dropMsg i).clockMHz = s.clockMHz := rfl
@[simp] theorem State.dropMsg_clocks (i : Nat) : (s.dropMsg i).clocks = s.clocks := rfl
@[simp] theorem State.dropMsg_clockRem (i : Nat) : (s.dropMsg i).clockRem = s.clockRem := rfl
@[simp] theorem State.dropMsg_scr (i : Nat) : (s.dropMsg i).scr = s.scr := rfl
@[simp] theorem State.dropMsg_acctab (i : Nat) : (s.dropMsg i).acctab = s.acctab := rfl
@[simp] theorem State.dropMsg_acchalf (i : Nat) : (s.dropMsg i).acchalf = s.acchalf := rfl
@[simp] theorem State.dropMsg_poolQ (i : Nat) : (s.dropMsg i).poolQ = s.poolQ := rfl
@[simp] theorem State.dropMsg_runs (i : Nat) : (s.dropMsg i).runs = s.runs := rfl
@[simp] theorem State.dropMsg_msgs (i : Nat) : (s.dropMsg i).msgs = s.msgs.filter (fun m => m.id ≠ i) := rfl
@[simp] theorem State.dropMsg_pends (i : Nat) : (s.dropMsg i).pends = s.pends := rfl
@[simp] theorem State.dropMsg_xq (i : Nat) : (s.dropMsg i).xq = s.xq := rfl
@[simp] theorem State.dropMsg_xnext (i : Nat) : (s.dropMsg i).xnext = s.xnext := rfl
@[simp] theorem State.dropMsg_reqs (i : Nat) : (s.dropMsg i).reqs = s.reqs := rfl
@[simp] theorem State.dropMsg_evEntries (i : Nat) : (s.dropMsg i).evEntries = s.evEntries := rfl
@[simp] theorem State.dropMsg_evOver (i : Nat) : (s.dropMsg i).evOver = s.evOver := rfl
@[simp] theorem State.dropMsg_teller (i : Nat) : (s.dropMsg i).teller = s.teller := rfl
@[simp] theorem State.dropMsg_faultQ (i : Nat) : (s.dropMsg i).faultQ = s.faultQ := rfl
@[simp] theorem State.dropMsg_demreqs (i : Nat) : (s.dropMsg i).demreqs = s.demreqs := rfl
@[simp] theorem State.dropMsg_staging (i : Nat) : (s.dropMsg i).staging = s.staging := rfl
@[simp] theorem State.dropMsg_lanes (i : Nat) : (s.dropMsg i).lanes = s.lanes := rfl
@[simp] theorem State.dropMsg_laneWct (i : Nat) : (s.dropMsg i).laneWct = s.laneWct := rfl
@[simp] theorem State.dropMsg_session (i : Nat) : (s.dropMsg i).session = s.session := rfl
@[simp] theorem State.dropMsg_compQ (i : Nat) : (s.dropMsg i).compQ = s.compQ := rfl
@[simp] theorem State.dropMsg_openResult (i : Nat) : (s.dropMsg i).openResult = s.openResult := rfl
@[simp] theorem State.dropMsg_spdm (i : Nat) : (s.dropMsg i).spdm = s.spdm := rfl
@[simp] theorem State.dropMsg_fabricId (i : Nat) : (s.dropMsg i).fabricId = s.fabricId := rfl
@[simp] theorem State.dropMsg_fuses (i : Nat) : (s.dropMsg i).fuses = s.fuses := rfl
@[simp] theorem State.dropMsg_ghosts (i : Nat) : (s.dropMsg i).ghosts = s.ghosts := rfl
@[simp] theorem State.dropMsg_unheard (i : Nat) : (s.dropMsg i).unheard = s.unheard := rfl
@[simp] theorem State.dropMsg_stores (i : Nat) : (s.dropMsg i).stores = s.stores := rfl
@[simp] theorem State.dropMsg_ctxs (i : Nat) : (s.dropMsg i).ctxs = s.ctxs := rfl
@[simp] theorem State.dropMsg_dead (i : Nat) : (s.dropMsg i).dead = s.dead := rfl
@[simp] theorem State.dropMsg_launches (i : Nat) : (s.dropMsg i).launches = s.launches := rfl
@[simp] theorem State.dropMsg_crews (i : Nat) : (s.dropMsg i).crews = s.crews := rfl
@[simp] theorem State.dropMsg_coreSeq (i : Nat) : (s.dropMsg i).coreSeq = s.coreSeq := rfl
@[simp] theorem State.dropMsg_warps (i : Nat) : (s.dropMsg i).warps = s.warps := rfl
@[simp] theorem State.dropMsg_orphans (i : Nat) : (s.dropMsg i).orphans = s.orphans := rfl
@[simp] theorem State.dropMsg_cur (i : Nat) : (s.dropMsg i).cur = s.cur := rfl
@[simp] theorem State.dropMsg_out (i : Nat) : (s.dropMsg i).out = s.out := rfl
@[simp] theorem State.dropMsg_met (i : Nat) : (s.dropMsg i).met = s.met := rfl
@[simp] theorem State.dropMsg_peers (i : Nat) : (s.dropMsg i).peers = s.peers := rfl
@[simp] theorem State.dropMsg_crSlots (i : Nat) : (s.dropMsg i).crSlots = s.crSlots := rfl
@[simp] theorem State.dropMsg_badSpots (i : Nat) : (s.dropMsg i).badSpots = s.badSpots := rfl
@[simp] theorem State.dropMsg_subject (i : Nat) : (s.dropMsg i).subject = s.subject := rfl
@[simp] theorem State.dropMsg_input (i : Nat) : (s.dropMsg i).input = s.input := rfl
@[simp] theorem State.dropMsg_agenda (i : Nat) : (s.dropMsg i).agenda = s.agenda := rfl
@[simp] theorem State.dropMsg_freeCtr (i : Nat) : (s.dropMsg i).freeCtr = s.freeCtr := rfl
@[simp] theorem State.dropMsg_nextId (i : Nat) : (s.dropMsg i).nextId = s.nextId := rfl

/-! `State.turnMsg`. -/

@[simp] theorem State.turnMsg_time (i : Nat) (x : MsgKind) : (s.turnMsg i x).time = s.time := rfl
@[simp] theorem State.turnMsg_phase (i : Nat) (x : MsgKind) : (s.turnMsg i x).phase = s.phase := rfl
@[simp] theorem State.turnMsg_mem (i : Nat) (x : MsgKind) : (s.turnMsg i x).mem = s.mem := rfl
@[simp] theorem State.turnMsg_cxlFrames (i : Nat) (x : MsgKind) : (s.turnMsg i x).cxlFrames = s.cxlFrames := rfl
@[simp] theorem State.turnMsg_lines (i : Nat) (x : MsgKind) : (s.turnMsg i x).lines = s.lines := rfl
@[simp] theorem State.turnMsg_sliceExp (i : Nat) (x : MsgKind) : (s.turnMsg i x).sliceExp = s.sliceExp := rfl
@[simp] theorem State.turnMsg_verCtr (i : Nat) (x : MsgKind) : (s.turnMsg i x).verCtr = s.verCtr := rfl
@[simp] theorem State.turnMsg_l2 (i : Nat) (x : MsgKind) : (s.turnMsg i x).l2 = s.l2 := rfl
@[simp] theorem State.turnMsg_partials (i : Nat) (x : MsgKind) : (s.turnMsg i x).partials = s.partials := rfl
@[simp] theorem State.turnMsg_crFlags (i : Nat) (x : MsgKind) : (s.turnMsg i x).crFlags = s.crFlags := rfl
@[simp] theorem State.turnMsg_badLines (i : Nat) (x : MsgKind) : (s.turnMsg i x).badLines = s.badLines := rfl
@[simp] theorem State.turnMsg_l1 (i : Nat) (x : MsgKind) : (s.turnMsg i x).l1 = s.l1 := rfl
@[simp] theorem State.turnMsg_tlb (i : Nat) (x : MsgKind) : (s.turnMsg i x).tlb = s.tlb := rfl
@[simp] theorem State.turnMsg_icache (i : Nat) (x : MsgKind) : (s.turnMsg i x).icache = s.icache := rfl
@[simp] theorem State.turnMsg_clearing (i : Nat) (x : MsgKind) : (s.turnMsg i x).clearing = s.clearing := rfl
@[simp] theorem State.turnMsg_clockMHz (i : Nat) (x : MsgKind) : (s.turnMsg i x).clockMHz = s.clockMHz := rfl
@[simp] theorem State.turnMsg_clocks (i : Nat) (x : MsgKind) : (s.turnMsg i x).clocks = s.clocks := rfl
@[simp] theorem State.turnMsg_clockRem (i : Nat) (x : MsgKind) : (s.turnMsg i x).clockRem = s.clockRem := rfl
@[simp] theorem State.turnMsg_scr (i : Nat) (x : MsgKind) : (s.turnMsg i x).scr = s.scr := rfl
@[simp] theorem State.turnMsg_acctab (i : Nat) (x : MsgKind) : (s.turnMsg i x).acctab = s.acctab := rfl
@[simp] theorem State.turnMsg_acchalf (i : Nat) (x : MsgKind) : (s.turnMsg i x).acchalf = s.acchalf := rfl
@[simp] theorem State.turnMsg_poolQ (i : Nat) (x : MsgKind) : (s.turnMsg i x).poolQ = s.poolQ := rfl
@[simp] theorem State.turnMsg_runs (i : Nat) (x : MsgKind) : (s.turnMsg i x).runs = s.runs := rfl
@[simp] theorem State.turnMsg_msgs (i : Nat) (x : MsgKind) : (s.turnMsg i x).msgs = s.msgs.map (fun m => if m.id = i then { m with k := x } else m) := rfl
@[simp] theorem State.turnMsg_pends (i : Nat) (x : MsgKind) : (s.turnMsg i x).pends = s.pends := rfl
@[simp] theorem State.turnMsg_xq (i : Nat) (x : MsgKind) : (s.turnMsg i x).xq = s.xq := rfl
@[simp] theorem State.turnMsg_xnext (i : Nat) (x : MsgKind) : (s.turnMsg i x).xnext = s.xnext := rfl
@[simp] theorem State.turnMsg_reqs (i : Nat) (x : MsgKind) : (s.turnMsg i x).reqs = s.reqs := rfl
@[simp] theorem State.turnMsg_evEntries (i : Nat) (x : MsgKind) : (s.turnMsg i x).evEntries = s.evEntries := rfl
@[simp] theorem State.turnMsg_evOver (i : Nat) (x : MsgKind) : (s.turnMsg i x).evOver = s.evOver := rfl
@[simp] theorem State.turnMsg_teller (i : Nat) (x : MsgKind) : (s.turnMsg i x).teller = s.teller := rfl
@[simp] theorem State.turnMsg_faultQ (i : Nat) (x : MsgKind) : (s.turnMsg i x).faultQ = s.faultQ := rfl
@[simp] theorem State.turnMsg_demreqs (i : Nat) (x : MsgKind) : (s.turnMsg i x).demreqs = s.demreqs := rfl
@[simp] theorem State.turnMsg_staging (i : Nat) (x : MsgKind) : (s.turnMsg i x).staging = s.staging := rfl
@[simp] theorem State.turnMsg_lanes (i : Nat) (x : MsgKind) : (s.turnMsg i x).lanes = s.lanes := rfl
@[simp] theorem State.turnMsg_laneWct (i : Nat) (x : MsgKind) : (s.turnMsg i x).laneWct = s.laneWct := rfl
@[simp] theorem State.turnMsg_session (i : Nat) (x : MsgKind) : (s.turnMsg i x).session = s.session := rfl
@[simp] theorem State.turnMsg_compQ (i : Nat) (x : MsgKind) : (s.turnMsg i x).compQ = s.compQ := rfl
@[simp] theorem State.turnMsg_openResult (i : Nat) (x : MsgKind) : (s.turnMsg i x).openResult = s.openResult := rfl
@[simp] theorem State.turnMsg_spdm (i : Nat) (x : MsgKind) : (s.turnMsg i x).spdm = s.spdm := rfl
@[simp] theorem State.turnMsg_fabricId (i : Nat) (x : MsgKind) : (s.turnMsg i x).fabricId = s.fabricId := rfl
@[simp] theorem State.turnMsg_fuses (i : Nat) (x : MsgKind) : (s.turnMsg i x).fuses = s.fuses := rfl
@[simp] theorem State.turnMsg_ghosts (i : Nat) (x : MsgKind) : (s.turnMsg i x).ghosts = s.ghosts := rfl
@[simp] theorem State.turnMsg_unheard (i : Nat) (x : MsgKind) : (s.turnMsg i x).unheard = s.unheard := rfl
@[simp] theorem State.turnMsg_stores (i : Nat) (x : MsgKind) : (s.turnMsg i x).stores = s.stores := rfl
@[simp] theorem State.turnMsg_ctxs (i : Nat) (x : MsgKind) : (s.turnMsg i x).ctxs = s.ctxs := rfl
@[simp] theorem State.turnMsg_dead (i : Nat) (x : MsgKind) : (s.turnMsg i x).dead = s.dead := rfl
@[simp] theorem State.turnMsg_launches (i : Nat) (x : MsgKind) : (s.turnMsg i x).launches = s.launches := rfl
@[simp] theorem State.turnMsg_crews (i : Nat) (x : MsgKind) : (s.turnMsg i x).crews = s.crews := rfl
@[simp] theorem State.turnMsg_coreSeq (i : Nat) (x : MsgKind) : (s.turnMsg i x).coreSeq = s.coreSeq := rfl
@[simp] theorem State.turnMsg_warps (i : Nat) (x : MsgKind) : (s.turnMsg i x).warps = s.warps := rfl
@[simp] theorem State.turnMsg_orphans (i : Nat) (x : MsgKind) : (s.turnMsg i x).orphans = s.orphans := rfl
@[simp] theorem State.turnMsg_cur (i : Nat) (x : MsgKind) : (s.turnMsg i x).cur = s.cur := rfl
@[simp] theorem State.turnMsg_out (i : Nat) (x : MsgKind) : (s.turnMsg i x).out = s.out := rfl
@[simp] theorem State.turnMsg_met (i : Nat) (x : MsgKind) : (s.turnMsg i x).met = s.met := rfl
@[simp] theorem State.turnMsg_peers (i : Nat) (x : MsgKind) : (s.turnMsg i x).peers = s.peers := rfl
@[simp] theorem State.turnMsg_crSlots (i : Nat) (x : MsgKind) : (s.turnMsg i x).crSlots = s.crSlots := rfl
@[simp] theorem State.turnMsg_badSpots (i : Nat) (x : MsgKind) : (s.turnMsg i x).badSpots = s.badSpots := rfl
@[simp] theorem State.turnMsg_subject (i : Nat) (x : MsgKind) : (s.turnMsg i x).subject = s.subject := rfl
@[simp] theorem State.turnMsg_input (i : Nat) (x : MsgKind) : (s.turnMsg i x).input = s.input := rfl
@[simp] theorem State.turnMsg_agenda (i : Nat) (x : MsgKind) : (s.turnMsg i x).agenda = s.agenda := rfl
@[simp] theorem State.turnMsg_freeCtr (i : Nat) (x : MsgKind) : (s.turnMsg i x).freeCtr = s.freeCtr := rfl
@[simp] theorem State.turnMsg_nextId (i : Nat) (x : MsgKind) : (s.turnMsg i x).nextId = s.nextId := rfl

/-! `State.modPend`. -/

@[simp] theorem State.modPend_time (i : Nat) (f : Pend → Pend) : (s.modPend i f).time = s.time := rfl
@[simp] theorem State.modPend_phase (i : Nat) (f : Pend → Pend) : (s.modPend i f).phase = s.phase := rfl
@[simp] theorem State.modPend_mem (i : Nat) (f : Pend → Pend) : (s.modPend i f).mem = s.mem := rfl
@[simp] theorem State.modPend_cxlFrames (i : Nat) (f : Pend → Pend) : (s.modPend i f).cxlFrames = s.cxlFrames := rfl
@[simp] theorem State.modPend_lines (i : Nat) (f : Pend → Pend) : (s.modPend i f).lines = s.lines := rfl
@[simp] theorem State.modPend_sliceExp (i : Nat) (f : Pend → Pend) : (s.modPend i f).sliceExp = s.sliceExp := rfl
@[simp] theorem State.modPend_verCtr (i : Nat) (f : Pend → Pend) : (s.modPend i f).verCtr = s.verCtr := rfl
@[simp] theorem State.modPend_l2 (i : Nat) (f : Pend → Pend) : (s.modPend i f).l2 = s.l2 := rfl
@[simp] theorem State.modPend_partials (i : Nat) (f : Pend → Pend) : (s.modPend i f).partials = s.partials := rfl
@[simp] theorem State.modPend_crFlags (i : Nat) (f : Pend → Pend) : (s.modPend i f).crFlags = s.crFlags := rfl
@[simp] theorem State.modPend_badLines (i : Nat) (f : Pend → Pend) : (s.modPend i f).badLines = s.badLines := rfl
@[simp] theorem State.modPend_l1 (i : Nat) (f : Pend → Pend) : (s.modPend i f).l1 = s.l1 := rfl
@[simp] theorem State.modPend_tlb (i : Nat) (f : Pend → Pend) : (s.modPend i f).tlb = s.tlb := rfl
@[simp] theorem State.modPend_icache (i : Nat) (f : Pend → Pend) : (s.modPend i f).icache = s.icache := rfl
@[simp] theorem State.modPend_clearing (i : Nat) (f : Pend → Pend) : (s.modPend i f).clearing = s.clearing := rfl
@[simp] theorem State.modPend_clockMHz (i : Nat) (f : Pend → Pend) : (s.modPend i f).clockMHz = s.clockMHz := rfl
@[simp] theorem State.modPend_clocks (i : Nat) (f : Pend → Pend) : (s.modPend i f).clocks = s.clocks := rfl
@[simp] theorem State.modPend_clockRem (i : Nat) (f : Pend → Pend) : (s.modPend i f).clockRem = s.clockRem := rfl
@[simp] theorem State.modPend_scr (i : Nat) (f : Pend → Pend) : (s.modPend i f).scr = s.scr := rfl
@[simp] theorem State.modPend_acctab (i : Nat) (f : Pend → Pend) : (s.modPend i f).acctab = s.acctab := rfl
@[simp] theorem State.modPend_acchalf (i : Nat) (f : Pend → Pend) : (s.modPend i f).acchalf = s.acchalf := rfl
@[simp] theorem State.modPend_poolQ (i : Nat) (f : Pend → Pend) : (s.modPend i f).poolQ = s.poolQ := rfl
@[simp] theorem State.modPend_runs (i : Nat) (f : Pend → Pend) : (s.modPend i f).runs = s.runs := rfl
@[simp] theorem State.modPend_msgs (i : Nat) (f : Pend → Pend) : (s.modPend i f).msgs = s.msgs := rfl
@[simp] theorem State.modPend_pends (i : Nat) (f : Pend → Pend) : (s.modPend i f).pends = s.pends.map (fun p => if p.id = i then f p else p) := rfl
@[simp] theorem State.modPend_xq (i : Nat) (f : Pend → Pend) : (s.modPend i f).xq = s.xq := rfl
@[simp] theorem State.modPend_xnext (i : Nat) (f : Pend → Pend) : (s.modPend i f).xnext = s.xnext := rfl
@[simp] theorem State.modPend_reqs (i : Nat) (f : Pend → Pend) : (s.modPend i f).reqs = s.reqs := rfl
@[simp] theorem State.modPend_evEntries (i : Nat) (f : Pend → Pend) : (s.modPend i f).evEntries = s.evEntries := rfl
@[simp] theorem State.modPend_evOver (i : Nat) (f : Pend → Pend) : (s.modPend i f).evOver = s.evOver := rfl
@[simp] theorem State.modPend_teller (i : Nat) (f : Pend → Pend) : (s.modPend i f).teller = s.teller := rfl
@[simp] theorem State.modPend_faultQ (i : Nat) (f : Pend → Pend) : (s.modPend i f).faultQ = s.faultQ := rfl
@[simp] theorem State.modPend_demreqs (i : Nat) (f : Pend → Pend) : (s.modPend i f).demreqs = s.demreqs := rfl
@[simp] theorem State.modPend_staging (i : Nat) (f : Pend → Pend) : (s.modPend i f).staging = s.staging := rfl
@[simp] theorem State.modPend_lanes (i : Nat) (f : Pend → Pend) : (s.modPend i f).lanes = s.lanes := rfl
@[simp] theorem State.modPend_laneWct (i : Nat) (f : Pend → Pend) : (s.modPend i f).laneWct = s.laneWct := rfl
@[simp] theorem State.modPend_session (i : Nat) (f : Pend → Pend) : (s.modPend i f).session = s.session := rfl
@[simp] theorem State.modPend_compQ (i : Nat) (f : Pend → Pend) : (s.modPend i f).compQ = s.compQ := rfl
@[simp] theorem State.modPend_openResult (i : Nat) (f : Pend → Pend) : (s.modPend i f).openResult = s.openResult := rfl
@[simp] theorem State.modPend_spdm (i : Nat) (f : Pend → Pend) : (s.modPend i f).spdm = s.spdm := rfl
@[simp] theorem State.modPend_fabricId (i : Nat) (f : Pend → Pend) : (s.modPend i f).fabricId = s.fabricId := rfl
@[simp] theorem State.modPend_fuses (i : Nat) (f : Pend → Pend) : (s.modPend i f).fuses = s.fuses := rfl
@[simp] theorem State.modPend_ghosts (i : Nat) (f : Pend → Pend) : (s.modPend i f).ghosts = s.ghosts := rfl
@[simp] theorem State.modPend_unheard (i : Nat) (f : Pend → Pend) : (s.modPend i f).unheard = s.unheard := rfl
@[simp] theorem State.modPend_stores (i : Nat) (f : Pend → Pend) : (s.modPend i f).stores = s.stores := rfl
@[simp] theorem State.modPend_ctxs (i : Nat) (f : Pend → Pend) : (s.modPend i f).ctxs = s.ctxs := rfl
@[simp] theorem State.modPend_dead (i : Nat) (f : Pend → Pend) : (s.modPend i f).dead = s.dead := rfl
@[simp] theorem State.modPend_launches (i : Nat) (f : Pend → Pend) : (s.modPend i f).launches = s.launches := rfl
@[simp] theorem State.modPend_crews (i : Nat) (f : Pend → Pend) : (s.modPend i f).crews = s.crews := rfl
@[simp] theorem State.modPend_coreSeq (i : Nat) (f : Pend → Pend) : (s.modPend i f).coreSeq = s.coreSeq := rfl
@[simp] theorem State.modPend_warps (i : Nat) (f : Pend → Pend) : (s.modPend i f).warps = s.warps := rfl
@[simp] theorem State.modPend_orphans (i : Nat) (f : Pend → Pend) : (s.modPend i f).orphans = s.orphans := rfl
@[simp] theorem State.modPend_cur (i : Nat) (f : Pend → Pend) : (s.modPend i f).cur = s.cur := rfl
@[simp] theorem State.modPend_out (i : Nat) (f : Pend → Pend) : (s.modPend i f).out = s.out := rfl
@[simp] theorem State.modPend_met (i : Nat) (f : Pend → Pend) : (s.modPend i f).met = s.met := rfl
@[simp] theorem State.modPend_peers (i : Nat) (f : Pend → Pend) : (s.modPend i f).peers = s.peers := rfl
@[simp] theorem State.modPend_crSlots (i : Nat) (f : Pend → Pend) : (s.modPend i f).crSlots = s.crSlots := rfl
@[simp] theorem State.modPend_badSpots (i : Nat) (f : Pend → Pend) : (s.modPend i f).badSpots = s.badSpots := rfl
@[simp] theorem State.modPend_subject (i : Nat) (f : Pend → Pend) : (s.modPend i f).subject = s.subject := rfl
@[simp] theorem State.modPend_input (i : Nat) (f : Pend → Pend) : (s.modPend i f).input = s.input := rfl
@[simp] theorem State.modPend_agenda (i : Nat) (f : Pend → Pend) : (s.modPend i f).agenda = s.agenda := rfl
@[simp] theorem State.modPend_freeCtr (i : Nat) (f : Pend → Pend) : (s.modPend i f).freeCtr = s.freeCtr := rfl
@[simp] theorem State.modPend_nextId (i : Nat) (f : Pend → Pend) : (s.modPend i f).nextId = s.nextId := rfl

/-! `State.send`. -/

@[simp] theorem State.send_time (c o r : Nat) (w : Option WarpKey) (x : MsgKind) : (s.send c o r w x).time = s.time := rfl
@[simp] theorem State.send_phase (c o r : Nat) (w : Option WarpKey) (x : MsgKind) : (s.send c o r w x).phase = s.phase := rfl
@[simp] theorem State.send_mem (c o r : Nat) (w : Option WarpKey) (x : MsgKind) : (s.send c o r w x).mem = s.mem := rfl
@[simp] theorem State.send_cxlFrames (c o r : Nat) (w : Option WarpKey) (x : MsgKind) : (s.send c o r w x).cxlFrames = s.cxlFrames := rfl
@[simp] theorem State.send_lines (c o r : Nat) (w : Option WarpKey) (x : MsgKind) : (s.send c o r w x).lines = s.lines := rfl
@[simp] theorem State.send_sliceExp (c o r : Nat) (w : Option WarpKey) (x : MsgKind) : (s.send c o r w x).sliceExp = s.sliceExp := rfl
@[simp] theorem State.send_verCtr (c o r : Nat) (w : Option WarpKey) (x : MsgKind) : (s.send c o r w x).verCtr = s.verCtr := rfl
@[simp] theorem State.send_l2 (c o r : Nat) (w : Option WarpKey) (x : MsgKind) : (s.send c o r w x).l2 = s.l2 := rfl
@[simp] theorem State.send_partials (c o r : Nat) (w : Option WarpKey) (x : MsgKind) : (s.send c o r w x).partials = s.partials := rfl
@[simp] theorem State.send_crFlags (c o r : Nat) (w : Option WarpKey) (x : MsgKind) : (s.send c o r w x).crFlags = s.crFlags := rfl
@[simp] theorem State.send_badLines (c o r : Nat) (w : Option WarpKey) (x : MsgKind) : (s.send c o r w x).badLines = s.badLines := rfl
@[simp] theorem State.send_l1 (c o r : Nat) (w : Option WarpKey) (x : MsgKind) : (s.send c o r w x).l1 = s.l1 := rfl
@[simp] theorem State.send_tlb (c o r : Nat) (w : Option WarpKey) (x : MsgKind) : (s.send c o r w x).tlb = s.tlb := rfl
@[simp] theorem State.send_icache (c o r : Nat) (w : Option WarpKey) (x : MsgKind) : (s.send c o r w x).icache = s.icache := rfl
@[simp] theorem State.send_clearing (c o r : Nat) (w : Option WarpKey) (x : MsgKind) : (s.send c o r w x).clearing = s.clearing := rfl
@[simp] theorem State.send_clockMHz (c o r : Nat) (w : Option WarpKey) (x : MsgKind) : (s.send c o r w x).clockMHz = s.clockMHz := rfl
@[simp] theorem State.send_clocks (c o r : Nat) (w : Option WarpKey) (x : MsgKind) : (s.send c o r w x).clocks = s.clocks := rfl
@[simp] theorem State.send_clockRem (c o r : Nat) (w : Option WarpKey) (x : MsgKind) : (s.send c o r w x).clockRem = s.clockRem := rfl
@[simp] theorem State.send_scr (c o r : Nat) (w : Option WarpKey) (x : MsgKind) : (s.send c o r w x).scr = s.scr := rfl
@[simp] theorem State.send_acctab (c o r : Nat) (w : Option WarpKey) (x : MsgKind) : (s.send c o r w x).acctab = s.acctab := rfl
@[simp] theorem State.send_acchalf (c o r : Nat) (w : Option WarpKey) (x : MsgKind) : (s.send c o r w x).acchalf = s.acchalf := rfl
@[simp] theorem State.send_poolQ (c o r : Nat) (w : Option WarpKey) (x : MsgKind) : (s.send c o r w x).poolQ = s.poolQ := rfl
@[simp] theorem State.send_runs (c o r : Nat) (w : Option WarpKey) (x : MsgKind) : (s.send c o r w x).runs = s.runs := rfl
@[simp] theorem State.send_msgs (c o r : Nat) (w : Option WarpKey) (x : MsgKind) : (s.send c o r w x).msgs = s.msgs ++ [⟨s.nextId, c, o, r, w, s.time, x⟩] := rfl
@[simp] theorem State.send_pends (c o r : Nat) (w : Option WarpKey) (x : MsgKind) : (s.send c o r w x).pends = s.pends := rfl
@[simp] theorem State.send_xq (c o r : Nat) (w : Option WarpKey) (x : MsgKind) : (s.send c o r w x).xq = s.xq := rfl
@[simp] theorem State.send_xnext (c o r : Nat) (w : Option WarpKey) (x : MsgKind) : (s.send c o r w x).xnext = s.xnext := rfl
@[simp] theorem State.send_reqs (c o r : Nat) (w : Option WarpKey) (x : MsgKind) : (s.send c o r w x).reqs = s.reqs := rfl
@[simp] theorem State.send_evEntries (c o r : Nat) (w : Option WarpKey) (x : MsgKind) : (s.send c o r w x).evEntries = s.evEntries := rfl
@[simp] theorem State.send_evOver (c o r : Nat) (w : Option WarpKey) (x : MsgKind) : (s.send c o r w x).evOver = s.evOver := rfl
@[simp] theorem State.send_teller (c o r : Nat) (w : Option WarpKey) (x : MsgKind) : (s.send c o r w x).teller = s.teller := rfl
@[simp] theorem State.send_faultQ (c o r : Nat) (w : Option WarpKey) (x : MsgKind) : (s.send c o r w x).faultQ = s.faultQ := rfl
@[simp] theorem State.send_demreqs (c o r : Nat) (w : Option WarpKey) (x : MsgKind) : (s.send c o r w x).demreqs = s.demreqs := rfl
@[simp] theorem State.send_staging (c o r : Nat) (w : Option WarpKey) (x : MsgKind) : (s.send c o r w x).staging = s.staging := rfl
@[simp] theorem State.send_lanes (c o r : Nat) (w : Option WarpKey) (x : MsgKind) : (s.send c o r w x).lanes = s.lanes := rfl
@[simp] theorem State.send_laneWct (c o r : Nat) (w : Option WarpKey) (x : MsgKind) : (s.send c o r w x).laneWct = s.laneWct := rfl
@[simp] theorem State.send_session (c o r : Nat) (w : Option WarpKey) (x : MsgKind) : (s.send c o r w x).session = s.session := rfl
@[simp] theorem State.send_compQ (c o r : Nat) (w : Option WarpKey) (x : MsgKind) : (s.send c o r w x).compQ = s.compQ := rfl
@[simp] theorem State.send_openResult (c o r : Nat) (w : Option WarpKey) (x : MsgKind) : (s.send c o r w x).openResult = s.openResult := rfl
@[simp] theorem State.send_spdm (c o r : Nat) (w : Option WarpKey) (x : MsgKind) : (s.send c o r w x).spdm = s.spdm := rfl
@[simp] theorem State.send_fabricId (c o r : Nat) (w : Option WarpKey) (x : MsgKind) : (s.send c o r w x).fabricId = s.fabricId := rfl
@[simp] theorem State.send_fuses (c o r : Nat) (w : Option WarpKey) (x : MsgKind) : (s.send c o r w x).fuses = s.fuses := rfl
@[simp] theorem State.send_ghosts (c o r : Nat) (w : Option WarpKey) (x : MsgKind) : (s.send c o r w x).ghosts = s.ghosts := rfl
@[simp] theorem State.send_unheard (c o r : Nat) (w : Option WarpKey) (x : MsgKind) : (s.send c o r w x).unheard = s.unheard := rfl
@[simp] theorem State.send_stores (c o r : Nat) (w : Option WarpKey) (x : MsgKind) : (s.send c o r w x).stores = s.stores := rfl
@[simp] theorem State.send_ctxs (c o r : Nat) (w : Option WarpKey) (x : MsgKind) : (s.send c o r w x).ctxs = s.ctxs := rfl
@[simp] theorem State.send_dead (c o r : Nat) (w : Option WarpKey) (x : MsgKind) : (s.send c o r w x).dead = s.dead := rfl
@[simp] theorem State.send_launches (c o r : Nat) (w : Option WarpKey) (x : MsgKind) : (s.send c o r w x).launches = s.launches := rfl
@[simp] theorem State.send_crews (c o r : Nat) (w : Option WarpKey) (x : MsgKind) : (s.send c o r w x).crews = s.crews := rfl
@[simp] theorem State.send_coreSeq (c o r : Nat) (w : Option WarpKey) (x : MsgKind) : (s.send c o r w x).coreSeq = s.coreSeq := rfl
@[simp] theorem State.send_warps (c o r : Nat) (w : Option WarpKey) (x : MsgKind) : (s.send c o r w x).warps = s.warps := rfl
@[simp] theorem State.send_orphans (c o r : Nat) (w : Option WarpKey) (x : MsgKind) : (s.send c o r w x).orphans = s.orphans := rfl
@[simp] theorem State.send_cur (c o r : Nat) (w : Option WarpKey) (x : MsgKind) : (s.send c o r w x).cur = s.cur := rfl
@[simp] theorem State.send_out (c o r : Nat) (w : Option WarpKey) (x : MsgKind) : (s.send c o r w x).out = s.out := rfl
@[simp] theorem State.send_met (c o r : Nat) (w : Option WarpKey) (x : MsgKind) : (s.send c o r w x).met = s.met := rfl
@[simp] theorem State.send_peers (c o r : Nat) (w : Option WarpKey) (x : MsgKind) : (s.send c o r w x).peers = s.peers := rfl
@[simp] theorem State.send_crSlots (c o r : Nat) (w : Option WarpKey) (x : MsgKind) : (s.send c o r w x).crSlots = s.crSlots := rfl
@[simp] theorem State.send_badSpots (c o r : Nat) (w : Option WarpKey) (x : MsgKind) : (s.send c o r w x).badSpots = s.badSpots := rfl
@[simp] theorem State.send_subject (c o r : Nat) (w : Option WarpKey) (x : MsgKind) : (s.send c o r w x).subject = s.subject := rfl
@[simp] theorem State.send_input (c o r : Nat) (w : Option WarpKey) (x : MsgKind) : (s.send c o r w x).input = s.input := rfl
@[simp] theorem State.send_agenda (c o r : Nat) (w : Option WarpKey) (x : MsgKind) : (s.send c o r w x).agenda = s.agenda := rfl
@[simp] theorem State.send_freeCtr (c o r : Nat) (w : Option WarpKey) (x : MsgKind) : (s.send c o r w x).freeCtr = s.freeCtr := rfl
@[simp] theorem State.send_nextId (c o r : Nat) (w : Option WarpKey) (x : MsgKind) : (s.send c o r w x).nextId = s.nextId + 1 := rfl

end Sys2Proof.Machine
end

