-- ==== Sys2Proof/Laws/Issue.lean ====
section
/-! SUPPORT. What issue and retirement do, once: the lemmas that a proof about one instruction cites instead of
unfolding them. -/

namespace Sys2Proof.Machine

/-- Where an instruction may execute, issue runs its meaning on the issued state. -/
theorem issue_free (i : Instr) (s : State) (g : Cur) (k : Cur → State → Out) (h : Free i s g) :
    issue i s k = k g (issued i s g) := by
  have hr := h.regs
  unfold issue
  rw [h.cur]
  simp only
  rw [if_neg (by have := h.mode; cases hp : privileged i <;> simp_all), if_neg (by omega), h.operands]
  rfl

/-! Register writes. -/

/-- The value that a list of register writes of one lane leaves in a register. -/
def lastIn (r : Nat) (x : Word) : List (Nat × Word) → Word
  | [] => x
  | (d, v) :: l => lastIn r (if d = r then v else x) l

theorem Warp.rg_wr (w : Warp) (r l r' l' : Nat) (v : Word) (hl : l < 32) (hl' : l' < 32) :
    (w.wr r l v).rg r' l' = if r' = r ∧ l' = l then v else w.rg r' l' := by
  split
  · rename_i h; obtain ⟨rfl, rfl⟩ := h; exact Warp.rg_wr_same ..
  · rename_i h; exact Warp.rg_wr_ne _ _ _ _ _ _ hl hl' h

theorem Warp.wrs_append (x y : List (Nat × Nat × Word)) : ∀ w : Warp, w.wrs (x ++ y) = (w.wrs x).wrs y := by
  induction x with
  | nil => intro w; rfl
  | cons p x ih => intro w; exact ih _

theorem Warp.rg_wrs_lane (l : Nat) (hl : l < 32) (x : List (Nat × Word)) : ∀ (w : Warp) (r l' : Nat), l' < 32 →
    (w.wrs (x.map (fun p => (p.1, l, p.2)))).rg r l' = if l' = l then lastIn r (w.rg r l') x else w.rg r l' := by
  induction x with
  | nil => intro w r l' _; simp [Warp.wrs, lastIn]
  | cons p x ih =>
    intro w r l' h'
    simp only [List.map_cons, Warp.wrs, lastIn]
    rw [ih _ _ _ h', Warp.rg_wr _ _ _ _ _ _ hl h']
    by_cases h : l' = l <;> by_cases h2 : r = p.1 <;> simp [h, h2, eq_comm]

/-- What the writes of a lane-wise instruction leave in each lane-register, for values computed beforehand. -/
theorem Warp.rg_wrs_lanes (f : Nat → List (Nat × Word)) (lanes : List Nat) (hl : ∀ l ∈ lanes, l < 32) (hn : lanes.Nodup) :
    ∀ (w : Warp) (r l : Nat), l < 32 →
    (w.wrs (lanes.flatMap (fun l => (f l).map (fun p => (p.1, l, p.2))))).rg r l =
      if l ∈ lanes then lastIn r (w.rg r l) (f l) else w.rg r l := by
  induction lanes with
  | nil => intro w r l _; simp [Warp.wrs]
  | cons a lanes ih =>
    intro w r l h
    have ha := hl a (List.mem_cons_self ..)
    rw [List.flatMap_cons, Warp.wrs_append, ih (fun l h => hl l (List.mem_cons_of_mem _ h)) (List.nodup_cons.mp hn).2 _ _ _ h,
      Warp.rg_wrs_lane a ha _ _ _ _ h]
    have := (List.nodup_cons.mp hn).1
    by_cases e : l = a
    · subst e; simp [this]
    · simp [e]

theorem taking_lt (s : State) (g : Cur) (h : Hdr) : ∀ l ∈ s.taking g h, l < 32 := by
  intro l hl
  simp only [State.taking, Warp.active, List.mem_filter, List.mem_range] at hl
  exact hl.1.1
theorem taking_nodup (s : State) (g : Cur) (h : Hdr) : (s.taking g h).Nodup :=
  (List.nodup_range.filter _).filter _

/-! The latch is read by no meaning. -/

theorem issued_warp (i : Instr) (s : State) (g : Cur) :
    (issued i s g).warp g.warp = { s.warp g.warp with latch := latchOf (s.warp g.warp) i } := by simp [issued]
theorem issued_warp_ne (i : Instr) (s : State) (g : Cur) (k : WarpKey) (h : k ≠ g.warp) : (issued i s g).warp k = s.warp k :=
  State.warp_modWarp_ne _ _ _ _ h
theorem issued_taking (i : Instr) (s : State) (g : Cur) (h : Hdr) : (issued i s g).taking g h = s.taking g h := by
  simp only [State.taking, issued_warp]; rfl
@[simp] theorem issued_rg (i : Instr) (s : State) (g : Cur) (r l : Nat) : ((issued i s g).warp g.warp).rg r l = (s.warp g.warp).rg r l := by
  rw [issued_warp]; rfl

/-! Retirement. -/

theorem lt_map_id {α : Type} (l : List α) (f : α → α) (h : ∀ a, f a = a) : l.map f = l := by
  rw [show f = id from funext h]; exact List.map_id _

theorem ctx_count (s : State) (o : Option Nat) (code n c : Nat) :
    { (s.count o code n).ctx c with counts := [] } = { s.ctx c with counts := [] } := by
  unfold State.count
  cases o with
  | none => rfl
  | some d =>
    simp only
    split
    · by_cases e : c = d
      · subst e; rw [State.ctx_modCtx_same]; rfl
      · rw [State.ctx_modCtx_ne _ _ _ _ e]; rfl
    · rfl
/-- Counting changes performance counts only. -/
theorem count_eq (s : State) (o : Option Nat) (code n : Nat) :
    ∃ c p q, s.count o code n = { s with ctxs := c, scr := { s.scr with prfCnt := p, prfNow := q } } := by
  unfold State.count
  cases o with
  | none => exact ⟨_, _, _, rfl⟩
  | some d =>
    simp only
    split
    · exact ⟨_, _, _, rfl⟩
    · exact ⟨_, _, _, rfl⟩

theorem launch_modLaunch_same (s : State) (c l : Nat) (f : Launch → Launch) : (s.modLaunch c l f).launch c l = f (s.launch c l) := by
  simp [State.modLaunch, State.setLaunch, State.launch]
theorem launch_modLaunch_ne (s : State) (c l c' l' : Nat) (f : Launch → Launch) (h : (c', l') ≠ (c, l)) :
    (s.modLaunch c l f).launch c' l' = s.launch c' l' := by
  simp [State.modLaunch, State.setLaunch, State.launch, aget_aset_ne _ _ _ _ h]

/-- Progress changes launches only. -/
theorem progress_eq (s : State) (c l : Nat) : ∃ L, s.progress c l = { s with launches := L } := by
  unfold State.progress
  split
  · exact ⟨_, rfl⟩
  · exact ⟨_, rfl⟩
theorem retireCount_eq (s : State) (k : CrewKey) : ∃ c p q L T,
    s.retireCount k = { s with ctxs := c, scr := { s.scr with prfCnt := p, prfNow := q }, launches := L, teller := T } := by
  obtain ⟨c, p, q, h⟩ := count_eq s (some k.ctx) 0x02 1
  obtain ⟨L, h2⟩ := progress_eq { s with ctxs := c, scr := { s.scr with prfCnt := p, prfNow := q } } k.ctx k.launch
  refine ⟨c, p, q, L, (s.retireCount k).teller, ?_⟩
  simp only [State.retireCount, h, h2]
theorem retireCount_warps (s : State) (k : CrewKey) : (s.retireCount k).warps = s.warps := by
  obtain ⟨c, p, q, L, T, h⟩ := retireCount_eq s k
  rw [h]
theorem launch_progress (s : State) (c l c' l' : Nat) :
    (s.progress c l).launch c' l' = s.launch c' l' ∨ (s.progress c l).launch c' l' = { s.launch c' l' with timer := 0 } := by
  unfold State.progress
  cases h : aget s.launches (c, l) with
  | none => exact .inl rfl
  | some x =>
    by_cases e : (c', l') = (c, l)
    · obtain ⟨rfl, rfl⟩ := Prod.mk.injEq .. ▸ e
      have hx : s.launch c' l' = x := by simp [State.launch, h]
      simp only [State.setLaunch, State.launch, aget_aset_same, Option.getD_some, h]
      split
      · exact .inl rfl
      · exact .inr rfl
    · simp only [State.setLaunch, State.launch, aget_aset_ne _ _ _ _ e]; exact .inl trivial
theorem retireCount_counted (s : State) (k : CrewKey) : Counted s (s.retireCount k) where
  ctxs c := by
    rw [← ctx_count s (some k.ctx) 0x02 1 c]
    obtain ⟨L, h⟩ := progress_eq (s.count (some k.ctx) 0x02 1) k.ctx k.launch
    simp only [State.retireCount, h]; rfl
  launches c l := by
    obtain ⟨cc, p, q, hc⟩ := count_eq s (some k.ctx) 0x02 1
    have e : (s.retireCount k).launch c l = ((s.count (some k.ctx) 0x02 1).progress k.ctx k.launch).launch c l := rfl
    have e2 : (s.count (some k.ctx) 0x02 1).launch c l = s.launch c l := by rw [hc]; rfl
    rw [e, ← e2]; exact launch_progress ..
  teller := by
    have e : ((s.count (some k.ctx) 0x02 1).progress k.ctx k.launch).teller = s.teller := by
      obtain ⟨cc, p, q, hc⟩ := count_eq s (some k.ctx) 0x02 1
      obtain ⟨L, h⟩ := progress_eq (s.count (some k.ctx) 0x02 1) k.ctx k.launch
      rw [h, hc]
    simp only [State.retireCount, e, List.map_map]
    congr 1
    funext p
    simp only [Function.comp]
    split <;> rfl
  pends := by
    obtain ⟨c, p, q, L, T, h⟩ := retireCount_eq s k
    rw [h]
/-- Looking ahead changes lookaheads only. -/
theorem looked_counted (s t : State) (k : WarpKey) (h : Counted s t) : Counted s (t.looked k) where
  ctxs := h.ctxs
  launches := h.launches
  teller := h.teller
  pends := by
    rw [← h.pends]
    simp only [State.looked, List.map_map]
    congr 1
    funext p
    simp only [Function.comp]
    split <;> rfl

/-! Moving on. -/

theorem part_slices (w : Warp) (m : BitVec 8) (i : Nat) (x : Slice) (h : w.slices[i]? = some x) :
    ∃ y, (w.part m).slices[i]? = some y ∧ y = { x with gang := y.gang } ∧ (m.getLsbD i = false → y = x) := by
  simp only [Warp.part, List.getElem?_mapIdx, h, Option.map_some]
  refine ⟨_, rfl, ?_, ?_⟩ <;> split <;> simp_all
/-- The slices that part: a slice of the gang is named after the lowest one at its address (R31). -/
theorem part_lowest (w : Warp) (m : BitVec 8) (i : Nat) (y : Slice) (h : (w.part m).slices[i]? = some y) (hi : i < 8)
    (hm : m.getLsbD i = true) (he : y.exited = false) : LowestAt (w.part m) m y.pc y.gang := by
  have back : ∀ j z, (w.part m).slices[j]? = some z → ∃ x, w.slices[j]? = some x ∧ z.pc = x.pc ∧ z.exited = x.exited ∧ w.slice j = x := by
    intro j z hz
    simp only [Warp.part, List.getElem?_mapIdx, Option.map_eq_some_iff] at hz
    obtain ⟨x, hx, rfl⟩ := hz
    refine ⟨x, hx, ?_, ?_, by simp [Warp.slice, hx]⟩ <;> split <;> rfl
  obtain ⟨x, hx, hpc, hex, hsl⟩ := back i y h
  have hy : y.gang = (((List.range 8).find? (fun j => m.getLsbD j && !(w.slice j).exited && (w.slice j).pc = (w.slice i).pc)).getD i) := by
    have h2 := h
    simp only [Warp.part, List.getElem?_mapIdx, hx, Option.map_some, Option.some.injEq] at h2
    rw [← h2, if_pos (by simp [hm, ← hex, he])]
  obtain ⟨j, hj⟩ : ∃ j, (List.range 8).find? (fun j => m.getLsbD j && !(w.slice j).exited && (w.slice j).pc = (w.slice i).pc) = some j := by
    rw [← Option.isSome_iff_exists, List.find?_isSome]
    exact ⟨i, List.mem_range.mpr hi, by simp [hm, hsl, ← hex, he]⟩
  rw [hj] at hy
  simp only [Option.getD_some] at hy
  obtain ⟨h1, _, h3⟩ := List.find?_range_eq_some.mp hj
  simp only [Bool.and_eq_true, Bool.not_eq_true', decide_eq_true_eq] at h1
  obtain ⟨⟨hmj, hej⟩, hpj⟩ := h1
  have hjs : ∃ z, w.slices[j]? = some z := by
    cases e : w.slices[j]? with
    | some z => exact ⟨z, rfl⟩
    | none => simp [Warp.slice, e] at hej
  obtain ⟨z, hz⟩ := hjs
  obtain ⟨z', hz', hz2, _⟩ := part_slices w m j z hz
  have fwd : z'.pc = z.pc ∧ z'.exited = z.exited := by rw [hz2]; exact ⟨rfl, rfl⟩
  have hzs : w.slice j = z := by simp [Warp.slice, hz]
  refine ⟨⟨z', by rw [hy]; exact hz', by rw [hy]; exact hmj, by rw [fwd.2, ← hzs]; exact hej, ?_⟩, ?_⟩
  · rw [fwd.1, ← hzs, hpj, hsl, hpc]
  · intro k u hu hmk hek hpk
    obtain ⟨v, _, e1, e2, e3⟩ := back k u hu
    rw [hy]
    by_contra hlt
    have := h3 k (by omega)
    simp [hmk, e3, ← e2, hek, ← e1, hpk, hsl, hpc] at this
theorem part_rest (w : Warp) (m : BitVec 8) : { w.part m with slices := w.slices, latch := w.latch } = w := rfl

theorem moveTo_moved (s : State) (g : Cur) (f : Nat → Slice → Slice) : Moved s (s.moveTo g f) g f where
  slices i x h := by
    simp only [State.moveTo, State.warp_modWarp_same]
    have e : ((s.warp g.warp).slices.mapIdx (fun i x => if g.slices.getLsbD i then { f i x.unblock with relDone := false } else x))[i]? =
        some (if g.slices.getLsbD i then { f i x.unblock with relDone := false } else x) := by
      simp only [List.getElem?_mapIdx, h, Option.map_some]
    generalize (s.warp g.warp).slices.mapIdx (fun i x => if g.slices.getLsbD i then { f i x.unblock with relDone := false } else x) = L at e ⊢
    obtain ⟨y, h1, h2, h3⟩ := part_slices { s.warp g.warp with slices := L } g.slices i _ e
    refine ⟨y, h1, ?_⟩
    split
    · rename_i e; rw [if_pos e] at h2; exact h2
    · rename_i e; rw [if_neg e] at h3; exact h3 (by simpa using e)
  gangs i y h := by
    simp only [State.moveTo, State.warp_modWarp_same] at h ⊢
    exact part_lowest _ _ _ _ h
  warp w h := by
    subst h
    simp only [State.moveTo, State.warp_modWarp_same]
    rfl
  others k h := State.warp_modWarp_ne _ _ _ _ h

theorem wrs_slices (x : List (Nat × Nat × Word)) : ∀ w : Warp, (w.wrs x).slices = w.slices := by
  induction x with
  | nil => intro w; rfl
  | cons p x ih => intro w; exact ih (w.wr p.1 p.2.1 p.2.2)
theorem wrs_rest (x : List (Nat × Nat × Word)) : ∀ w : Warp, { w.wrs x with regs := w.regs, latch := w.latch } = w := by
  induction x with
  | nil => intro w; rfl
  | cons p x ih => intro w; exact congrArg (fun v => { v with regs := w.regs, latch := w.latch }) (ih (w.wr p.1 p.2.1 p.2.2))

/-! Writing registers, then completing. -/

theorem part_rg (w : Warp) (m : BitVec 8) (r l : Nat) : (w.part m).rg r l = w.rg r l := rfl
theorem aset_aset {α β : Type} [DecidableEq α] (l : List (α × β)) (k : α) (v v' : β) : aset (aset l k v) k v' = aset l k v' := by
  induction l with
  | nil => simp [aset]
  | cons p l ih => simp only [aset]; split <;> simp_all [aset]

/-- The state after an instruction that writes registers x and goes on as f says. -/
def wroteMoved (s : State) (g : Cur) (x : List (Nat × Nat × Word)) (f : Nat → Slice → Slice) : State :=
  ((s.wrLanes g.warp x).retire g).moveTo g f

theorem wrLanes_warp (s : State) (k : WarpKey) (x : List (Nat × Nat × Word)) : (s.wrLanes k x).warp k = (s.warp k).wrs x := by
  simp only [State.wrLanes, State.heal, State.warp, State.modWarp, State.setWarp, aget_aset_same, Option.getD_some]
theorem looked_warps (s : State) (k : WarpKey) : (s.looked k).warps = s.warps := rfl
theorem wroteMoved_regs (s : State) (g : Cur) (x : List (Nat × Nat × Word)) (f : Nat → Slice → Slice) (r l : Nat) :
    ((wroteMoved s g x f).warp g.warp).rg r l = ((s.warp g.warp).wrs x).rg r l := by
  have : ((s.wrLanes g.warp x).retireCount g.crewK).warp g.warp = (s.warp g.warp).wrs x := by
    rw [← wrLanes_warp]; simp only [State.warp, retireCount_warps]
  simp only [wroteMoved, State.moveTo, State.warp_modWarp_same, part_rg, State.retire, State.issued]
  have e : ∀ u : State, (u.looked g.warp).warp g.warp = u.warp g.warp := fun _ => rfl
  rw [show ∀ w : Warp, ∀ L, ({ w with slices := L } : Warp).rg r l = w.rg r l from fun _ _ => rfl, e, State.warp_modWarp_same, this]
  rfl

/-- What is counted is read from four fields. -/
theorem counted_of {s t s' t' : State} (h : Counted s t) (a : s'.ctxs = s.ctxs) (b : s'.launches = s.launches)
    (c : s'.teller = s.teller) (d : s'.pends = s.pends) (a' : t'.ctxs = t.ctxs) (b' : t'.launches = t.launches)
    (c' : t'.teller = t.teller) (d' : t'.pends = t.pends) : Counted s' t' where
  ctxs k := by simpa only [State.ctx, a, a'] using h.ctxs k
  launches k l := by simpa only [State.launch, b, b'] using h.launches k l
  teller := by rw [c, c']; exact h.teller
  pends := by rw [d, d']; exact h.pends
theorem retire_warp_ne (s : State) (g : Cur) (k : WarpKey) (h : k ≠ g.warp) : (s.retire g).warp k = s.warp k := by
  have e : ∀ u : State, (u.issued g).warp k = u.warp k := fun u => State.warp_modWarp_ne u g.warp k (fun w => w.issued g) h
  rw [State.retire, e]
  simp only [State.warp, retireCount_warps]
theorem wrLanes_warp_ne (s : State) (k j : WarpKey) (x) (h : j ≠ k) : (s.wrLanes k x).warp j = s.warp j :=
  State.warp_modWarp_ne s k j (fun w => w.wrs x) h
theorem sameRest_wrLanes (s : State) (k : WarpKey) (x) : SameRest s (s.wrLanes k x) :=
  ⟨rfl, fun _ h => (List.mem_filter.mp h).1⟩
theorem sameRest_warps {s t : State} (W) (h : SameRest s t) : SameRest s { t with warps := W } := ⟨h.same, h.healed⟩
theorem sameRest_pends {s t : State} (P) (h : SameRest s t) : SameRest s { t with pends := P } := ⟨h.same, h.healed⟩
theorem sameRest_counts {s t : State} (c p q L T) (h : SameRest s t) :
    SameRest s { t with ctxs := c, scr := { t.scr with prfCnt := p, prfNow := q }, launches := L, teller := T } := ⟨h.same, h.healed⟩
theorem sameRest_retire {s t : State} {g : Cur} (h : SameRest s t) : SameRest s (t.retire g) := by
  obtain ⟨c, p, q, L, T, he⟩ := retireCount_eq t g.crewK
  have h1 : SameRest s (t.retireCount g.crewK) := he ▸ sameRest_counts c p q L T h
  exact sameRest_pends (t.retire g).pends (sameRest_warps (t.retire g).warps h1)
theorem sameRest_moveTo {s t : State} (g : Cur) (f) (h : SameRest s t) : SameRest s (t.moveTo g f) := sameRest_warps _ h
theorem wroteMoved_quiet (s : State) (g : Cur) (x : List (Nat × Nat × Word)) (f : Nat → Slice → Slice) :
    Quiet s (wroteMoved s g x f) g f := by
  have hw : ((s.wrLanes g.warp x).retireCount g.crewK).warp g.warp = (s.warp g.warp).wrs x := by
    rw [← wrLanes_warp]; simp only [State.warp, retireCount_warps]
  have hs : ∀ y : List (Nat × Nat × Word), ∀ w : Warp, (w.wrs y).slices = w.slices := fun y w => wrs_slices y w
  have hm := moveTo_moved ((s.wrLanes g.warp x).retire g) g f
  have hl : ∀ u : State, (u.looked g.warp).warp g.warp = u.warp g.warp := fun _ => rfl
  have hw2 : ((s.wrLanes g.warp x).retire g).warp g.warp = ((s.warp g.warp).wrs x).issued g := by
    simp only [State.retire, State.issued, hl, State.warp_modWarp_same, hw]
  have hC := looked_counted _ _ g.warp (retireCount_counted (s.wrLanes g.warp x) g.crewK)
  refine ⟨⟨?_, hm.gangs, ?_, ?_⟩, ?_, ?_⟩
  · intro i y h
    have h1 : (((s.wrLanes g.warp x).retire g).warp g.warp).slices[i]? = some y := by
      rw [hw2]; simp only [Warp.issued, hs]; exact h
    exact hm.slices i y h1
  · intro w h
    have := hm.warp w h
    have e := wrs_rest x (s.warp g.warp)
    rw [hw2] at this
    generalize hv : (s.warp g.warp).wrs x = v at *
    rw [← e] at *
    simp only [Warp.issued] at this
    clear hm hC hw hw2 h
    cases w; cases v
    simp only [Warp.mk.injEq] at this ⊢
    simp_all
  · intro k h
    rw [wroteMoved, hm.others k h]
    rw [retire_warp_ne _ _ _ h, wrLanes_warp_ne _ _ _ _ h]
  · exact counted_of hC rfl rfl rfl rfl rfl rfl rfl rfl
  · exact sameRest_moveTo _ _ (sameRest_retire (sameRest_wrLanes ..))

theorem wrote_quiet (s : State) (g : Cur) (x : List (Nat × Nat × Word)) :
    finish (s.wrLanes g.warp x) g = .next (wroteMoved s g x (onward g)) := rfl

/-- What a lane-wise instruction does, once and for all: it completes, each taking-part lane has the registers that
its writes leave, and nothing else changes. -/
theorem laneOp_completes (i : Instr) (h : Hdr) (f : Warp → Nat → List (Nat × Word)) (he : ∀ s, exec i s = laneOp i h f s) :
    Completes i Always fun s t g => Quiet s t g (onward g) ∧ ∀ r l, l < 32 → (t.warp g.warp).rg r l =
      if l ∈ s.taking g h then lastIn r ((s.warp g.warp).rg r l) (f (s.warp g.warp) l) else (s.warp g.warp).rg r l := by
  intro s g hf _
  refine ⟨wroteMoved (issued i s g) g (laneWrites ((issued i s g).warp g.warp) ((issued i s g).taking g h) f) (onward g), ?_, ?_, ?_⟩
  · rw [he, laneOp, issue_free _ _ _ _ hf]; rfl
  · exact wroteMoved_quiet ..
  · intro r l hl
    rw [wroteMoved_regs, laneWrites, Warp.rg_wrs_lanes _ _ (taking_lt _ _ _) (taking_nodup _ _ _) _ _ _ hl]
theorem laneWord_of (i : Instr) (h : Hdr) (d : Reg) (v : Warp → Nat → Word)
    (he : ∀ s, exec i s = laneOp i h (fun w l => outW d (v w l)) s) : LaneWord i h d v := by
  intro s g hf hp
  obtain ⟨t, h1, h2, h3⟩ := laneOp_completes i h _ he s g hf hp
  refine ⟨t, h1, h2, fun r l hl => ?_⟩
  rw [h3 r l hl]
  simp only [outW, lastIn]
  by_cases e : r = d.toNat <;> by_cases e2 : l ∈ (issued i s g).taking g h <;> simp [e, e2, eq_comm]
theorem lanePair_of (i : Instr) (h : Hdr) (d : Reg) (v : Warp → Nat → DWord)
    (he : ∀ s, exec i s = laneOp i h (fun w l => outP d (v w l)) s) : LanePair i h d v := by
  intro s g hf hp
  obtain ⟨t, h1, h2, h3⟩ := laneOp_completes i h _ he s g hf hp
  refine ⟨t, h1, h2, fun r l hl => ?_⟩
  rw [h3 r l hl]
  simp only [outP, lastIn]
  by_cases e2 : l ∈ (issued i s g).taking g h
  · by_cases e : r = d.toNat
    · simp [e, e2]
    · by_cases e3 : r = d.toNat + 1
      · simp [e3, e2]
      · simp [e, e3, e2, Ne.symm e, Ne.symm e3]
  · simp [e2]
theorem laneAll_of (i : Instr) (h : Hdr) (d : Reg) (v : Warp → List Nat → Nat → Word)
    (he : ∀ s, exec i s = collectOp i h d v s) : LaneAll i h d v := by
  intro s g hf _
  refine ⟨wroteMoved (issued i s g) g (((issued i s g).taking g h).map (fun l => (d.toNat, l, v ((issued i s g).warp g.warp) ((issued i s g).taking g h) l))) (onward g), ?_, ?_, ?_⟩
  · rw [he, collectOp, issue_free _ _ _ _ hf]; rfl
  · exact wroteMoved_quiet ..
  · intro r l hl
    have e : ∀ L : List Nat, L.map (fun l => (d.toNat, l, v ((issued i s g).warp g.warp) ((issued i s g).taking g h) l)) =
      L.flatMap (fun l => ([(d.toNat, v ((issued i s g).warp g.warp) ((issued i s g).taking g h) l)] : List (Nat × Word)).map (fun p => (p.1, l, p.2))) := by
      intro L; induction L <;> simp_all
    rw [wroteMoved_regs, e, Warp.rg_wrs_lanes _ _ (taking_lt _ _ _) (taking_nodup _ _ _) _ _ _ hl]
    simp only [lastIn]
    by_cases e : r = d.toNat <;> by_cases e2 : l ∈ (issued i s g).taking g h <;> simp [e, e2, eq_comm]

end Sys2Proof.Machine
end

