-- ==== Sys2Proof/Laws/Elements.lean ====
section
/-! SUPPORT. Packed elements: what element j of a word is that was put together from elements (R43, R253). -/

namespace Sys2Proof.Machine

theorem tyWidth_cases (t : Ty) : tyWidth t = 8 ∨ tyWidth t = 16 ∨ tyWidth t = 32 ∨ tyWidth t = 64 := by
  cases t <;> simp [tyWidth]

theorem foldr_elem (w : Nat) (l : List Nat) : ∀ j, j < l.length →
    (l.foldr (fun c r => c % 2 ^ w + 2 ^ w * r) 0) / 2 ^ (w * j) % 2 ^ w = l.getD j 0 % 2 ^ w := by
  have hp : 0 < 2 ^ w := Nat.two_pow_pos w
  induction l with
  | nil => intro j h; exact absurd h (Nat.not_lt_zero _)
  | cons c l ih =>
    intro j h
    simp only [List.foldr_cons]
    cases j with
    | zero => simp [Nat.add_mul_mod_self_left]
    | succ j =>
      have : 2 ^ (w * (j + 1)) = 2 ^ w * 2 ^ (w * j) := by rw [← Nat.pow_add]; congr 1; ring
      rw [this, ← Nat.div_div_eq_div_mul, Nat.add_mul_div_left _ _ hp, Nat.div_eq_of_lt (Nat.mod_lt _ hp), Nat.zero_add,
        ih j (by simpa using h)]
      simp
theorem foldr_lt (w : Nat) (l : List Nat) : l.foldr (fun c r => c % 2 ^ w + 2 ^ w * r) 0 < 2 ^ (w * l.length) := by
  have hp : 0 < 2 ^ w := Nat.two_pow_pos w
  induction l with
  | nil => simp
  | cons c l ih =>
    have : 2 ^ (w * (l.length + 1)) = 2 ^ w * 2 ^ (w * l.length) := by rw [← Nat.pow_add]; congr 1; ring
    simp only [List.foldr_cons, List.length_cons, this]
    have h1 := Nat.mod_lt c hp
    calc c % 2 ^ w + 2 ^ w * _ < 2 ^ w * (List.foldr (fun c r => c % 2 ^ w + 2 ^ w * r) 0 l + 1) := by rw [Nat.mul_add]; omega
      _ ≤ _ := Nat.mul_le_mul_left _ ih

/-- Element j of a packed word. -/
theorem elemAt_pack (t : Ty) (l : List Nat) (h : l.length = 32 / tyWidth t) (j : Nat) (hj : j < 32 / tyWidth t) :
    elemAt (tyWidth t) (packElems (tyWidth t) l) j = l.getD j 0 % 2 ^ tyWidth t := by
  have hl := foldr_lt (tyWidth t) l
  have hw : tyWidth t * l.length ≤ 32 := by rw [h]; exact Nat.mul_div_le ..
  have hb : l.foldr (fun c r => c % 2 ^ tyWidth t + 2 ^ tyWidth t * r) 0 < 2 ^ 32 := hl.trans_le (Nat.pow_le_pow_right (by decide) hw)
  rw [elemAt, packElems, BitVec.toNat_ofNat, Nat.mod_eq_of_lt hb, foldr_elem _ _ _ (by omega)]

theorem elems_length (w : Nat) (x : Word) : (elems w x).length = 32 / w := by simp [elems]
theorem elems_getD (w : Nat) (x : Word) (j : Nat) (h : j < 32 / w) : (elems w x).getD j 0 = elemAt w x j := by
  simp [elems, elemAt, h]

theorem emap1_elem (t : Ty) (f : Nat → Nat) (a : Word) : IsElems t (emap1 (tyWidth t) f a) fun j => f (elemAt (tyWidth t) a j) := by
  intro j h
  rw [emap1, elemAt_pack t _ (by simp [elems]) j h]
  have := elems_getD (tyWidth t) a j h
  have hl := elems_length (tyWidth t) a
  simp only [List.getD_eq_getElem?_getD, List.getElem?_map] at this ⊢
  rw [List.getElem?_eq_getElem (by omega)] at this ⊢
  simp at this ⊢
  rw [this]
theorem emap2_elem (t : Ty) (f : Nat → Nat → Nat) (a b : Word) :
    IsElems t (emap2 (tyWidth t) f a b) fun j => f (elemAt (tyWidth t) a j) (elemAt (tyWidth t) b j) := by
  intro j h
  rw [emap2, elemAt_pack t _ (by simp [elems]) j h]
  have ha := elems_getD (tyWidth t) a j h
  have hb := elems_getD (tyWidth t) b j h
  have la := elems_length (tyWidth t) a
  have lb := elems_length (tyWidth t) b
  simp only [List.getD_eq_getElem?_getD, List.getElem?_zipWith] at ha hb ⊢
  rw [List.getElem?_eq_getElem (by omega)] at ha hb
  rw [List.getElem?_eq_getElem (by omega), List.getElem?_eq_getElem (by omega)]
  simp at ha hb ⊢
  rw [ha, hb]
theorem emap3_elem (t : Ty) (f : Nat → Nat → Nat → Nat) (a b c : Word) :
    IsElems t (emap3 (tyWidth t) f a b c) fun j => f (elemAt (tyWidth t) a j) (elemAt (tyWidth t) b j) (elemAt (tyWidth t) c j) := by
  intro j h
  rw [emap3, elemAt_pack t _ (by simp) j h]
  simp only [List.getD_eq_getElem?_getD, List.getElem?_map, List.getElem?_range h, Option.map_some, Option.getD_some]
  rw [← List.getD_eq_getElem?_getD, ← List.getD_eq_getElem?_getD, ← List.getD_eq_getElem?_getD, elems_getD _ _ _ h, elems_getD _ _ _ h, elems_getD _ _ _ h]

/-- A lane-wise word that stands in a relation. -/
theorem laneBy_of (i : Instr) (h : Hdr) (d : Reg) (v : Warp → Nat → Word) (rel : Warp → Nat → Word → Prop)
    (he : ∀ s, exec i s = laneOp i h (fun w l => outW d (v w l)) s) (hr : ∀ w l, rel w l (v w l)) : LaneBy i h d rel := by
  intro s g hf hp
  obtain ⟨t, h1, h2, h3⟩ := laneWord_of i h d v he s g hf hp
  exact ⟨t, h1, h2, v, h3, fun l _ => hr _ _⟩

end Sys2Proof.Machine
end

