-- ==== Sys2Proof/Laws/Memory.lean ====
section
/-! SUPPORT. Memory behind its homes: what reads give outside a write, and which operations change no byte. -/

namespace Sys2Proof.Machine

variable {n : Nat}

/-- A read outside the entries written gives what it gave before. -/
theorem sgetList_ssetList_ne (m : Sparse n) (k : Nat) (d : List (BitVec n)) (c : Nat) : ∀ a : Nat, a + c ≤ k ∨ k + d.length ≤ a →
    sgetList (ssetList m k d) a c = sgetList m a c := by
  induction c with
  | zero => exact fun _ _ => rfl
  | succ c ih => exact fun a h => by simp only [sgetList]; rw [sget_ssetList_ne _ _ _ _ (by omega), ih _ (by omega)]
/-- Bytes that no cell lists read as zeros. -/
theorem sgetList_zero (m : Sparse n) (c : Nat) : ∀ a : Nat, (∀ p ∈ m, p.1 < a ∨ a + c ≤ p.1) → sgetList m a c = List.replicate c 0 := by
  induction c with
  | zero => exact fun _ _ => rfl
  | succ c ih =>
    intro a h
    have z : sget m a = 0 := by
      clear ih
      induction m with
      | nil => rfl
      | cons p m im =>
        have := h p (by simp)
        simp only [sget]
        rw [if_neg (by omega)]
        exact im (fun q hq => h q (by simp [hq]))
    rw [sgetList, z, ih (a + 1) (fun p hp => by have := h p hp; omega), List.replicate_succ]
/-- A list in front that does not hold a key is passed over. -/
theorem sget_append (m m' : Sparse n) (k : Nat) (h : ∀ p ∈ m, p.1 ≠ k) : sget (m ++ m') k = sget m' k := by
  induction m with
  | nil => rfl
  | cons p m ih =>
    simp only [List.cons_append, sget]
    rw [if_neg (h p (by simp)), ih (fun q hq => h q (by simp [hq]))]
/-- Cells laid out from an address hold their values. -/
theorem sget_cells (f : Nat → BitVec n) (m : Sparse n) (a j : Nat) (l : List Nat) (h : j ∈ l) : sget (l.map (fun i => (a + i, f i)) ++ m) (a + j) = f j := by
  induction l with
  | nil => simp at h
  | cons i l ih =>
    simp only [List.map_cons, List.cons_append, sget]
    by_cases e : i = j
    · rw [if_pos (by rw [e]), e]
    · rw [if_neg (by omega), ih (by simpa [Ne.symm e] using h)]
/-- A read of several entries is the reads of each. -/
theorem sgetList_eq (m : Sparse n) (c : Nat) : ∀ a, sgetList m a c = (List.range c).map (fun i => sget m (a + i)) := by
  induction c with
  | zero => exact fun _ => rfl
  | succ c ih =>
    intro a
    rw [sgetList, ih, List.range_succ_eq_map, List.map_cons, List.map_map]
    simp only [Nat.add_zero, Function.comp_def, List.cons.injEq, true_and]
    exact List.map_congr_left (fun i _ => by rw [Nat.succ_eq_add_one, Nat.add_assoc, Nat.add_comm 1 i])
/-- A number laid out in n bytes. -/
theorem nbytes_length (c : Nat) : ∀ v, (nbytes c v).length = c := by
  unfold nbytes
  induction c with
  | zero => exact fun _ => rfl
  | succ n ih => exact fun v => by simp [nbytes.natBytesM, ih]
/-- Work at a home slice changes no byte of memory. -/
theorem State.l2Touch_mem (s : State) (l : Nat) (b : Bool) : (s.l2Touch l b).mem = s.mem := by
  unfold State.l2Touch
  split
  · rfl
  · unfold State.l2Room
    split
    · rfl
    · split <;> rfl
theorem State.l2Touches_mem (ls : List Nat) : ∀ s : State, (ls.foldl (fun s l => s.l2Touch l true) s).mem = s.mem := by
  induction ls with
  | nil => exact fun _ => rfl
  | cons l ls ih => exact fun s => (ih _).trans (State.l2Touch_mem _ _ _)
/-- A write at its home puts its bytes in memory. -/
theorem State.homeWrite_mem (s : State) (pa : Nat) (d : List Byte) : (s.homeWrite pa d).2.mem = ssetList s.mem pa d := by
  unfold State.homeWrite
  dsimp only
  split
  · exact State.l2Touches_mem _ _
  · rfl
/-- What a read leaves at the homes changes no byte of memory. -/
theorem State.touchLines_mem (s : State) (pa n : Nat) : (s.touchLines pa n).mem = s.mem := by
  unfold State.touchLines
  split
  · generalize (List.range _) = ls
    induction ls generalizing s with
    | nil => rfl
    | cons l ls ih => exact (ih _).trans (State.l2Touch_mem _ _ _)
  · rfl
/-- A block whose sidecar entry is that of its bytes passes its check; on tier 0 the entry is the CRC and zeros (R101, R103). -/
theorem State.checkBlock_of {s : State} {ctx b : Nat} {d : List Byte} (ht : region b = .tier 0) (hb : s.isBad b 4096 = false) (ha : s.sideBad b true false = none)
    (h : s.rdN (sideAddr s b) 16 = nbytes 8 (crc64 d).toNat ++ nbytes 8 0) (hd : s.rdN b 4096 = d) (pa : Nat) (hp : blockOf pa = b) : s.checkBlock ctx pa = none := by
  unfold State.checkBlock State.sideBytes
  simp [hp, hb, ha, h, hd, ht]

end Sys2Proof.Machine
end

