-- ==== Sys2Proof/Tests/Slice0.lean ====
section
/-! SUPPORT. The model's own tests: encodings written out from the spec, ill-formed terms, single instructions, and for
each statement with hypotheses a state and operands that meet them. -/

namespace Sys2Proof

open Sys2Proof.Machine

set_option maxRecDepth 100000

/-- No guard, no lookahead, no live mask, no reuse; and a guard that no lane passes on cleared registers. -/
def hd : Hdr := ⟨none, 0, none, false, false, false⟩
def hoff : Hdr := ⟨some ⟨255, 0, false⟩, 0, none, false, false, false⟩
/-- A gang of all eight slices that is about to execute an instruction of 8 bytes: a placed supervisor program. -/
def me : Cur := ⟨⟨placeCrew, 0⟩, 0xFF, 8, false⟩
def probe : State := { State.reset.withFetchWord 64 0 with agenda := [], cur := some me }
/-- Bytes at virtual address 0x1000 + o of the probe's one page. -/
def withData (s : State) (o : Nat) (b : List Byte) : State := { s with mem := ssetList (n := 8) s.mem (placeCode + o) b }
/-- Registers of the probe's warp, the same in each lane. -/
def withRegs (s : State) (l : List (Nat × Word)) : State :=
  s.modWarp me.warp (fun w => w.wrs (l.flatMap (fun p => (List.range 32).map (fun x => (p.1, x, p.2)))))

/-! Encodings: words written out from the spec's own examples and tables decode to the instructions they stand for. -/

/-- The instruction of some words, the first lowest. -/
def dec1 (l : List Nat) : Option Instr := decodeTableWord (32 * l.length) (wordsNat l)

/-- 14.3: BOOL3 v9, v1, v2, v3 with table 0xD8. -/
theorem test_decode_bool3 : dec1 [0x00000C01, 0x00020109, 0x0006C003] = some (.bool3 ⟨hd, .u32, false, false, false, 0xD8, 9, 1, 2, 3⟩) := by decide
/-- 14.4: ICMP.S32 v5.2, v1, v2 and PLOP.OR v5.4, v5.5. -/
theorem test_decode_icmp : dec1 [0x00000F80, 0x28020105] = some (.icmp ⟨hd, 2, true, 5, 1, 2⟩) := by decide
theorem test_decode_plop : dec1 [0x00001080, 0x20250505] = some (.plop ⟨hd, 4, .or, 5, 5, 5⟩) := by decide
/-- 14.6, 14.7, 14.8. -/
theorem test_decode_cvtpk : dec1 [0x00004081, 0xA8161514, 0x00134217] =
    some (.cvtpk ⟨hd, .e4m3x4, .f32, true, .rne, true, 6, true, 0x14, 0x15, 0x16, 0x17⟩) := by decide
theorem test_decode_lxch : dec1 [0x00004181, 0x000C0B0A, 0x00000E0D] = some (.lxch ⟨hd, .shift, 3, 10, 11, 12, 13⟩) := by decide
theorem test_decode_sreg : dec1 [0x00004600, 0x00000301] = some (.sreg ⟨hd, 3, 1⟩) := by decide
/-- 14.9: ?v7.3 DBRA. -/
theorem test_decode_dbra : dec1 [0x038D6082, 0, 0x40, 0x80] = some (.dbra ⟨⟨some ⟨7, 3, false⟩, 0, none, false, false, false⟩, 0x40, 0x80⟩) := by decide
/-- Table 15.4. -/
theorem test_decode_ld : dec1 [0x00008011, 0x2000040A, 0x40] = some (.ld96i ⟨⟨none, 2, none, false, false, false⟩, .b32, 10, 4, 0x40⟩) := by decide
theorem test_decode_st : dec1 [0x00008080, 0x60030407] = some (.st ⟨hd, .b32, some .device, 7, 4⟩) := by decide
theorem test_decode_lds : dec1 [0x00008301, 0x18000603, 0x10] = some (.lds96i ⟨hd, .s16, 3, 6, 0x10⟩) := by decide
theorem test_decode_clear : dec1 [0x00008200, 0x40] = some (.clear ⟨hd, 0x40⟩) := by decide
theorem test_decode_atom : dec1 [0x00008581, 0x00060409, 0x00080300] = some (.atom ⟨hd, .u32, .add, .device, false, 8, 9, 4, 6⟩) := by decide
theorem test_decode_red : dec1 [0x00008680, 0x80030813] = some (.red ⟨hd, .u8, .max, .device, 8, 3⟩) := by decide
theorem test_decode_spset : dec1 [0x0000A281, 0x002F0000, 0x0001E200] = some (.spset ⟨hd, 2, 15, false, 47⟩) := by decide
/-- 16.2, 16.6. -/
theorem test_decode_mma : dec1 [0x0000C021, 0x40090800, 0x00200200] =
    some (.mma ⟨⟨none, 4, none, false, false, false⟩, .scr, .bf16, .bf16, 0, 0, true, 0, 2, 8, 9⟩) := by decide
theorem test_decode_kvcommit : dec1 [0x0000C580, 0x00060400] = some (.kvcommit ⟨hd, 4, 6⟩) := by decide
/-- Table 17.4. -/
theorem test_decode_gbar : dec1 [0x0000E080, 1] = some (.gbar ⟨hd, 1⟩) := by decide
theorem test_decode_evadd : dec1 [0x0000E101, 0x300, 0xFFFFFFFF] = some (.evadd96i ⟨hd, .reg 3, 0xFFFFFFFF⟩) := by decide
theorem test_decode_taskput : dec1 [0x0000E301, 0x80060040, 0x300] = some (.taskput ⟨hd, .imm 0x40, 3, 6⟩) := by decide
theorem test_decode_sibpost : dec1 [0x0000E408, 0x0000040A] = some (.sibpost ⟨⟨none, 1, none, false, false, false⟩, 0, 10, 4⟩) := by decide
/-- 12.9: the worked Uaten-2 words. -/
theorem test_decode_u2 : decodeU2 0x0803020A038D0080 = .ok (.iadd ⟨⟨some ⟨7, 3, false⟩, 0, none, false, false, false⟩, .s32, false, 10, 2, 3⟩) := by decide
theorem test_decode_u2_bra : decodeU2 0x0000000400006000 = .ok (.bra ⟨hd, 32⟩) := by decide
/-- A live mask (12.2, Table 11.3): YIELD as a safe point that names v0 to v39, a0, a1 and the copies. -/
theorem test_decode_safe_point : dec1 [0x00006486, 0, 0x0000001F, 0x01000003] =
    some (.yield ⟨{ hd with mask := some 0x010000030000001F }⟩) := by decide

/-! Well-formed instructions: each check refuses a term that breaks it. -/

theorem test_wf_row : Instr.check (.swapIn ⟨0, 0⟩) = some .unassigned := by decide
theorem test_wf_lookahead : Instr.check (.nop ⟨{ hd with la := 1 }⟩) = some .lookahead := by decide
theorem test_wf_safe_point : Instr.check (.iadd96i ⟨{ hd with mask := some 0 }, .u32, 0, 0, 0⟩) = some .safePoint := by decide
theorem test_wf_live_mask : Instr.check (.yield ⟨{ hd with mask := some 0x1000000000000000 }⟩) = some .liveMask := by decide
theorem test_wf_reuse : Instr.check (.not ⟨{ hd with ruB := true }, .u32, false, 0, 1⟩) = some .reuse := by decide
theorem test_wf_pair : Instr.check (.movi64 ⟨hd, 3, 0⟩) = some .pair := by decide
theorem test_wf_span : Instr.check (.ld ⟨hd, .b128, none, 6, 4⟩) = some .pair := by decide
theorem test_wf_type : Instr.check (.iadd ⟨hd, .f32, false, 0, 1, 2⟩) = some .badValue := by decide
theorem test_wf_offset : Instr.check (.bra ⟨hd, 2⟩) = some .offset := by decide
theorem test_wf_accepts : Instr.check (.iadd ⟨hd, .s8x4, true, 0, 255, 2⟩) = none := by decide
theorem test_wf_unused : Instr.check (.lea ⟨hd, .u32, false, false, false, 0, 2, 4, 6, 1⟩) = some .unused := by decide
/-- The decoder's own refusals: LEN 11, a block crossing, an opcode of no table, a missing form, W0[31], a guard field
without GE, bytes that are missing (12.4). -/
theorem test_decode_refuses : decode 0 (natBytes 16 3) = .error .noLength ∧ decode 28 (natBytes 16 0x80) = .error .boundary ∧
    dec1 [0x0000F000, 0] = none ∧ decode 0 (natBytes 16 (wordsNat [0x80000000, 0])) = .error .reserved ∧
    decode 0 (natBytes 16 (wordsNat [0x00040000, 0])) = .error .guard ∧ decode 0 (natBytes 6 0) = .error .short := by decide

/-! Witnesses: for each statement with hypotheses, states and operands that meet them all. -/

/-- In state s the gang may execute i and, in the state in which its meaning runs, pre holds. -/
def Met (i : Instr) (s : State) (pre : State → Cur → Prop) : Prop := Free i s me ∧ pre (issued i s me) me
theorem no_bad {s : State} (h : s.badSpots = []) (g : Cur) (i : Instr) : s.badLanes g i = [] := by
  unfold State.badLanes
  split <;> simp [h]
theorem free_of {i : Instr} {s : State} (h : (decide (s.cur = some me) && (!privileged i || s.privOf me.warp) &&
    decide (i.regTop ≤ 8 * (s.packetOf me.crewK).vregsDiv8) && decide (s.badSpots = [])) = true) : Free i s me := by
  simp only [Bool.and_eq_true, Bool.or_eq_true, Bool.not_eq_true', decide_eq_true_eq] at h
  exact ⟨h.1.1.1, fun p => h.1.1.2.resolve_left (by simp [p]), h.1.2, no_bad h.2 _ _⟩

/-- Every instruction whose registers lie below v256 may execute in the probe: what the statements with no further
hypothesis ask for. -/
theorem wit_free (i : Instr) (h : i.regTop ≤ 256) : Free i probe me := free_of (by
  have a : decide (probe.cur = some me) = true := by decide
  have b : probe.privOf me.warp = true := by decide
  have c : 8 * (probe.packetOf me.crewK).vregsDiv8 = 256 := by decide
  have d : decide (probe.badSpots = []) = true := by decide
  rw [a, b, c, d]; simp [h])
theorem issued_free (i : Instr) (h : i.regTop ≤ 256) (pre : State → Cur → Prop) (hp : ∀ j, pre (issued j probe me) me) : Met i probe pre :=
  ⟨wit_free i h, hp i⟩
/-- Without a guard every lane takes part; with a guard on a cleared register none does. -/
theorem wit_some (i : Instr) (h : i.regTop ≤ 256) : Met i probe fun s g => s.taking g hd = List.range 32 :=
  ⟨wit_free i h, by show _ = _; rw [issued_taking]; decide⟩
theorem wit_none (i : Instr) (h : i.regTop ≤ 256) : Met i probe fun s g => s.taking g hoff = [] :=
  ⟨wit_free i h, by show _ = _; rw [issued_taking]; decide⟩
/-- Operand forms that a clause asks for by its type or its modifier. -/
theorem wit_types : tySigned .s16x2 = true ∧ tySigned .u32 = false ∧ tyWidth .bf16x2 = 16 ∧ tyKind .u8x4 = .uint ∧
    tyRegs .u64 = 2 ∧ tyRegs .f32 = 1 ∧ tyElems .e4m3x4 = 4 ∧ tyElems .bf16x2 = 2 ∧ tyElems .f32 = 1 := by decide
theorem wit_float_kind : ∃ m, tyKind .f16x2 = .float m := ⟨_, rfl⟩

/-- A scoreboard result that has its answers, and one that has not. -/
def oneResult (left : Nat) : State := { probe with pends := [{ id := 7, warp := me.warp, regs := [3], writes := [(3, 31, 5)], left := left }] }
theorem wit_long_latency : ∃ p, (oneResult 0).pend? 7 = some p ∧ p.left = 0 ∧ p.tiles = [] ∧ (aget (oneResult 0).warps p.warp).isSome = true := by decide
theorem wit_long_latency_waits : ∃ p, (oneResult 1).pend? 7 = some p ∧ p.left ≠ 0 := by decide
theorem test_long_latency_lands : ∃ t, exec (.longLatencyResult 7) (oneResult 0) = .next t ∧ (t.warp me.warp).rg 3 31 = 5 := ⟨_, rfl, by decide⟩

/-- The transform pipe with room, with none, and with a request to reply to. -/
def pipe (n : Nat) : State := { oneResult 1 with xq := (List.range n).map (fun _ => ⟨0, 0, 7⟩) }
theorem wit_xform_room : Met (.xform ⟨hd, .crc64, .e4m3, false, 0, 0, 2, 0, 1⟩) (pipe 7)
    fun s g => (s.xq.filter (fun r => r.core = s.coreOf g.warp && r.quarter = quarterOf s g.warp)).length < 8 := ⟨free_of (by decide), by decide⟩
theorem wit_xform_full : Met (.xform ⟨hd, .crc64, .e4m3, false, 0, 0, 2, 0, 1⟩) (pipe 8)
    fun s g => 8 ≤ (s.xq.filter (fun r => r.core = s.coreOf g.warp && r.quarter = quarterOf s g.warp)).length := ⟨free_of (by decide), by decide⟩
theorem wit_xform_reply : ∃ (r : XReq) (p : Pend), (aget (pipe 1).xnext 0).getD 0 = 0 ∧ (pipe 1).xq.find? (fun x => x.core = 0 && x.quarter = 0) = some r ∧
    (pipe 1).pend? r.pend = some p ∧ (aget (pipe 1).warps p.warp).isSome = true ∧ p.tiles = [] := ⟨⟨0, 0, 7⟩, _, by decide, by decide, rfl, by decide, rfl⟩

/-! Exceptions. -/

/-- The probe at privilege 0, and with an allotment of 8 registers. -/
def userProbe : State := probe.modCrew me.crewK (fun c => { c with priv := false })
def smallProbe : State := probe.modLaunch 0 0 (fun l => { l with packet := { l.packet with vregsDiv8 := 1 } })
theorem wit_privilege : userProbe.cur = some me ∧ privileged (.rte ⟨hd, .next, 0⟩) = true ∧ userProbe.privOf me.warp = false := by decide
theorem wit_reg_range : smallProbe.cur = some me ∧ smallProbe.privOf me.warp = true ∧
    8 * (smallProbe.packetOf me.crewK).vregsDiv8 < Instr.regTop (.mov ⟨hd, .u32, false, 8, 0⟩) := by decide
/-- Register 8 holds an uncorrectable error in lane 3. -/
def errProbe : State := { probe with badSpots := [.reg me.warp (32 * 8 + 3)] }
theorem wit_operand_error : errProbe.cur = some me ∧ privileged (.mov ⟨hd, .u32, false, 9, 8⟩) = false ∧
    Instr.regTop (.mov ⟨hd, .u32, false, 9, 8⟩) ≤ 8 * (errProbe.packetOf me.crewK).vregsDiv8 ∧
    errProbe.badLanes me (.mov ⟨hd, .u32, false, 9, 8⟩) = 3 :: [] := by decide
theorem wit_svc_user : Met (.svc ⟨hd, 1⟩) userProbe fun s g => s.taking g hd ≠ [] ∧ s.privOf g.warp = false := ⟨free_of (by decide), by decide⟩
/-- Delivery of an exception, and the kill where the context has no fault ring. -/
theorem wit_excepted : probe.undelivered 0 true = true ∧
    (probe.modCtx 0 (fun c => { c with desc := { c.desc with faultRing := 0x1000 } })).undelivered 0 false = false := by decide
theorem test_trap_kills : ∃ t, exec (.trap ⟨hd, 9⟩) probe = .next t ∧ (t.ctx 0).kill.isSome = true := ⟨_, rfl, by decide⟩

/-! Control. -/

/-- A slice with a pending path and a join, and one with the restored mask on top. -/
theorem wit_join_path : Slice.stack ({ pc := 0x1000, stack := [⟨0x1008, 1⟩, ⟨0x1000, 0xF⟩] } : Slice) = ⟨0x1008, 1⟩ :: ⟨0x1000, 0xF⟩ :: [] ∧
    ([⟨0x1008, 1⟩, ⟨0x1000, 0xF⟩] : List Entry).length % 2 = 0 := by decide
/-- DBRA that splits slice 0 with an empty stack, and with a stack of 15 entries. -/
def splitProbe (n : Nat) : State :=
  (probe.modWarp me.warp (fun w => w.wr 1 0 1)).modWarp me.warp (fun w => w.modSlices 1 (fun x => { x with stack := List.replicate n ⟨0, 0xF⟩ }))
def split : Instr := .dbra ⟨⟨some ⟨1, 0, false⟩, 0, none, false, false, false⟩, 0x10, 0x20⟩
theorem wit_dbra_room : Met split (splitProbe 14) fun s g => ∀ i, i < 8 → g.slices.getLsbD i = true →
    sliceMask (s.taking g ⟨some ⟨1, 0, false⟩, 0, none, false, false, false⟩) i ≠ 0 →
    sliceMask (s.taking g ⟨some ⟨1, 0, false⟩, 0, none, false, false, false⟩) i ≠ ((s.warp g.warp).slice i).mask →
    ((s.warp g.warp).slice i).stack.length ≤ 14 := ⟨free_of (by decide), by decide⟩
theorem wit_dbra_full : Met split (splitProbe 15) fun s g => ∃ i, i < 8 ∧ g.slices.getLsbD i = true ∧
    sliceMask (s.taking g ⟨some ⟨1, 0, false⟩, 0, none, false, false, false⟩) i ≠ 0 ∧
    sliceMask (s.taking g ⟨some ⟨1, 0, false⟩, 0, none, false, false, false⟩) i ≠ ((s.warp g.warp).slice i).mask ∧
    14 < ((s.warp g.warp).slice i).stack.length := ⟨free_of (by decide), 0, by decide⟩
/-- Table 14.9's example of a split: the taken lane at the target, the other pending, the join below it. -/
theorem test_dbra_splits : ∃ t, exec split (splitProbe 0) = .next t ∧ ((t.warp me.warp).slice 0).pc = 0x1010 ∧ ((t.warp me.warp).slice 0).mask = 1 ∧
    ((t.warp me.warp).slice 0).stack = [⟨0x1008, 0xE⟩, ⟨0x1020, 0xF⟩] ∧ ((t.warp me.warp).slice 1).pc = 0x1008 := ⟨_, rfl, by decide⟩
/-- A REGANG whose eight slices all name all and stand at one address. -/
def regangProbe : State := probe.modWarp me.warp (fun w => w.modSlices 0xFF (fun x => { x with wait := .regang 0xFF 8 }))
theorem wit_regang : (regangProbe.warp me.warp).held = none ∧ regangProbe.writesOut me.warp = false ∧ regangProbe.loadsOut me.warp = false ∧
    (regangProbe.warp me.warp).regangFree = [0, 1, 2, 3, 4, 5, 6, 7] ∧
    (regangProbe.warp me.warp).regangNow (regangProbe.warp me.warp).regangFree = [0, 1, 2, 3, 4, 5, 6, 7] := by decide
/-- One of them has stopped: all at its address wait (R35). -/
theorem wit_regang_stopped : let w := (regangProbe.modWarp me.warp (fun w => w.modSlices 0x01 (fun x => { x with stop := some 0 }))).warp me.warp
    w.regangNow w.regangFree = [] := by decide
theorem wit_canpt : Met (.canpt ⟨hd⟩) (probe.modWarp me.warp (fun w => { w with pending := true }))
    fun s g => s.taking g hd ≠ [] ∧ (s.warp g.warp).pending = true := ⟨free_of (by decide), by decide⟩
theorem wit_canpt_none : Met (.canpt ⟨hd⟩) probe fun s g => s.taking g hd ≠ [] ∧ (s.warp g.warp).pending = false := ⟨free_of (by decide), by decide⟩

/-! Witnesses: memory. -/

/-- A check that answers, with something about its answer. -/
def okAnd {α : Type} (r : Except Bad α) (p : α → Bool) : Bool := match r with | .ok x => p x | .error _ => false
theorem ok_of {α : Type} {r : Except Bad α} {p : α → Bool} (h : okAnd r p = true) : ∃ x, r = .ok x ∧ p x = true := by
  cases r with
  | ok x => exact ⟨x, rfl, h⟩
  | error b => simp [okAnd] at h
theorem oks_of {α : Type} {l : List Nat} {f : Nat → Except Bad α} {p : α → Bool} (h : l.all (fun x => okAnd (f x) p) = true) :
    ∀ x ∈ l, ∃ y, f x = .ok y ∧ p y = true := fun x hx => ok_of (List.all_eq_true.mp h x hx)
theorem lanes_ok {α : Type} {l : List Nat} {f : Nat → Except Bad α} (h : l.all (fun x => okAnd (f x) (fun _ => true)) = true) :
    ∀ x ∈ l, ∃ y, f x = .ok y := fun x hx => let ⟨y, a, _⟩ := oks_of h x hx; ⟨y, a⟩
/-- What a check answers, where it answers one place. -/
def the (r : Except Bad (List Place2)) : Place2 := match r with | .ok [p] => p | _ => default
def place1 (r : Except Bad Place2) : Place2 := match r with | .ok p => p | _ => default

/-- A guard that bit 0 of v1 passes, which is set in lane 0 alone. -/
def lane0 : Hdr := ⟨some ⟨1, 0, false⟩, 0, none, false, false, false⟩
/-- Every lane's v4:v5 is the address 0x1100 of the probe's data page, v6 an offset 0x40. -/
def memProbe : State := (withRegs probe [(4, 0x1100), (6, 0x40)]).modWarp me.warp (fun w => w.wr 1 0 1)
def readyFor (s : State) (g : Cur) (kind : LoadKind) (pl : Place2) : Bool :=
  !s.l1Bad g.warp kind pl && !s.homeBad g.warp kind pl && !s.atomOut g.warp (pl.pa / 64) && !(kind == .ld && cacheable pl && s.loading g.warp (pl.pa / 64)) &&
    !(pl.sp == .window && s.scrOut g.warp (pl.pa - winBase))
theorem ready_of {s : State} {g : Cur} {kind : LoadKind} {pl : Place2} (h : readyFor s g kind pl = true) : LoadReady s g kind pl := by
  simp only [readyFor, Bool.and_eq_true, Bool.not_eq_true'] at h
  obtain ⟨⟨⟨⟨a, z⟩, b⟩, c⟩, d⟩ := h
  refine ⟨a, z, b, fun e f => ?_, fun e => ?_⟩
  · rw [e, f] at c; simpa using c
  · rw [e] at d; simpa using d
theorem loads_ok {l : List Nat} {s : State} {g : Cur} {kind : LoadKind} {f : Nat → Except Bad (List Place2)}
    (h : l.all (fun x => okAnd (f x) (fun ps => ps.all (readyFor s g kind))) = true) :
    ∀ x ∈ l, ∃ ps, f x = .ok ps ∧ ∀ pl ∈ ps, LoadReady s g kind pl := fun x hx =>
  let ⟨ps, a, b⟩ := oks_of h x hx; ⟨ps, a, fun pl hp => ready_of (List.all_eq_true.mp b pl hp)⟩
theorem wit_load : Met (.ld ⟨lane0, .b64, some .device, 2, 4⟩) memProbe fun s g =>
    ∀ l ∈ s.taking g lane0, ∃ ps, accessOf (globalAddr 4 0 8) .read 8 s g.warp l = .ok ps ∧ ∀ pl ∈ ps, LoadReady s g .ld pl :=
  ⟨free_of (by decide), loads_ok (by decide)⟩
theorem wit_load_imm : Met (.ldby96i ⟨lane0, .u8, 2, 4, 1⟩) memProbe fun s g =>
    ∀ l ∈ s.taking g lane0, ∃ ps, accessOf (globalAddr 4 1 1) .read 1 s g.warp l = .ok ps ∧ ∀ pl ∈ ps, LoadReady s g .ldby pl :=
  ⟨free_of (by decide), loads_ok (by decide)⟩
/-- A launch with 16 bytes of local memory a thread, at 0x1000, and its constants there. -/
def localProbe : State :=
  (memProbe.modCtx 0 (fun c => { c with desc := { c.desc with localBase := 0x1000 } })).modLaunch 0 0
    (fun l => { l with packet := { l.packet with localBytes := 16, kernarg := 0x1000 } })
theorem wit_local_load : Met (.ldl ⟨lane0, .b64, none, 2, 0⟩) localProbe fun s g =>
    ∀ l ∈ s.taking g lane0, ∃ ps, accessOf (fun s k l => s.localPieces k l (offsetOf 0 0 s k l) 8) .read 8 s g.warp l = .ok ps ∧ ∀ pl ∈ ps, LoadReady s g .ld pl :=
  ⟨free_of (by decide), loads_ok (by decide)⟩
theorem wit_const_load : Met (.ldc96i ⟨lane0, .b32, 2, 6, 4⟩) localProbe fun s g =>
    ∀ l ∈ s.taking g lane0, ∃ ps, accessOf (fun s k l => s.constPieces k (offsetOf 6 4 s k l) 4) .read 4 s g.warp l = .ok ps ∧ ∀ pl ∈ ps, LoadReady s g .ld pl :=
  ⟨free_of (by decide), loads_ok (by decide)⟩
theorem wit_early_load : Met (.lde ⟨lane0, .b32, none, 2, 4⟩) memProbe fun s g =>
    ∀ l ∈ s.taking g lane0, ∃ ps, accessOf (globalAddr 4 0 4) .read 4 s g.warp l = .ok ps ∧ ∀ pl ∈ ps, LoadReady s g .lde pl :=
  ⟨free_of (by decide), loads_ok (by decide)⟩
/-- A line of the data page in L1, leased until device time 100, and one that has expired. -/
def lineOf (expiry : Nat) : L1Line := ⟨0, 0, (placeCode + 0x100) / 64, 0x77665544, expiry, 1, []⟩
def hitProbe : State := { memProbe with l1 := [lineOf 100] }
theorem wit_load_hit : Met (.ld ⟨lane0, .b32, none, 2, 4⟩) hitProbe fun s g => ∀ l ∈ s.taking g lane0,
    accessOf (globalAddr 4 0 4) .read 4 s g.warp l = .ok [the (accessOf (globalAddr 4 0 4) .read 4 s g.warp l)] ∧
    (the (accessOf (globalAddr 4 0 4) .read 4 s g.warp l)).sp = .device ∧
    (the (accessOf (globalAddr 4 0 4) .read 4 s g.warp l)).tr.lease ≠ 2 ∧
    (the (accessOf (globalAddr 4 0 4) .read 4 s g.warp l)).p.byte = 0 ∧ (the (accessOf (globalAddr 4 0 4) .read 4 s g.warp l)).p.size = 4 ∧
    s.l1Line (s.coreOf g.warp) ((the (accessOf (globalAddr 4 0 4) .read 4 s g.warp l)).pa / 64) = some (lineOf 100) ∧
    s.serves g.warp (lineOf 100) = true ∧ readyFor s g .ld (the (accessOf (globalAddr 4 0 4) .read 4 s g.warp l)) = true := ⟨free_of (by decide), by decide⟩
/-- A hit leaves the line's word pending for D at once. -/
theorem test_load_hit : ∃ t, exec (.ld ⟨lane0, .b32, none, 2, 4⟩) hitProbe = .next t ∧ t.msgs = [] ∧
    (t.pends.getD 0 default).writes.getD 0 (0, 0, 0) = (2, 0, 0x77665544) := ⟨_, rfl, by decide⟩
/-- What a check answers, where it answers at all. -/
def places (r : Except Bad (List Place2)) : List Place2 := match r with | .ok l => l | _ => []
theorem places_of {r : Except Bad (List Place2)} (h : okAnd r (fun _ => true) = true) : r = .ok (places r) := by
  cases r with
  | ok l => rfl
  | error b => cases h
theorem all_places {l : List Nat} {f : Nat → Except Bad (List Place2)} (h : l.all (fun x => okAnd (f x) (fun _ => true)) = true) :
    ∀ x ∈ l, f x = .ok (places (f x)) := fun x hx => places_of (List.all_eq_true.mp h x hx)
theorem wit_store : Met (.st ⟨lane0, .b32, none, 2, 4⟩) memProbe fun s g =>
    ∀ l ∈ s.taking g lane0, accessOf (globalAddr 4 0 4) .write 4 s g.warp l = .ok (places (accessOf (globalAddr 4 0 4) .write 4 s g.warp l)) :=
  ⟨free_of (by decide), all_places (by decide)⟩
theorem wit_local_store : Met (.stl ⟨lane0, .b64, none, 2, 0⟩) localProbe fun s g => ∀ l ∈ s.taking g lane0,
    accessOf (fun s k l => s.localPieces k l (offsetOf 0 0 s k l) 8) .write 8 s g.warp l =
      .ok (places (accessOf (fun s k l => s.localPieces k l (offsetOf 0 0 s k l) 8) .write 8 s g.warp l)) := ⟨free_of (by decide), all_places (by decide)⟩
/-- Of 32 lanes that store to one address one write leaves, with the highest lane's bytes. -/
theorem test_store_highest : ∃ t, exec (.st ⟨hd, .u8, none, 2, 4⟩) (memProbe.modWarp me.warp (fun w => w.wr 2 31 0x1AB)) = .next t ∧
    t.msgs.map (·.k) = [.write (placeCode + 0x100) [0xAB] .device] ∧ t.mem = memProbe.mem := ⟨_, rfl, by decide, rfl⟩
/-- A store on its way, of the probe's warp. -/
def storeOut : Msg := ⟨9, 0, 0, 0, some me.warp, 0, .write (placeCode + 0x100) [1, 2] .device⟩
def sentProbe : State := { memProbe with msgs := [storeOut], nextId := 10 }
/-- The places of a store by ST.REL of the word at v4:v5. -/
def relPlaces (s : State) (l : Nat) : List Place2 := places (accessOf (globalAddr 4 0 4) .write 4 s me.warp l)
def relStore : Mem := ⟨lane0, .b32, some .device, 2, 4⟩
theorem stRel_of {s : State} {i : Instr} {w : Prop} (h : ((issued i s me).taking me lane0).all (fun l => okAnd (accessOf (globalAddr 4 0 4) .write 4 (issued i s me) me.warp l) (fun _ => true)) = true)
    (hn : (issued i s me).taking me lane0 ≠ []) (hw : (∃ l ∈ (issued i s me).taking me lane0, ∃ pl ∈ relPlaces (issued i s me) l, pl.sp = .window) ↔ w) :
    StRel relStore (relPlaces (issued i s me)) w (issued i s me) me := ⟨hn, all_places h, hw⟩
theorem wit_store_rel : Free (.st relStore) memProbe me ∧ StRel relStore (relPlaces (issued (.st relStore) memProbe me)) False (issued (.st relStore) memProbe me) me ∧
    (((issued (.st relStore) memProbe me).warp me.warp).slice 0).relDone = false ∧ (issued (.st relStore) memProbe me).relReady me.warp .device = true :=
  ⟨free_of (by decide), stRel_of (by decide) (by decide) (by decide), by decide⟩
theorem wit_store_rel_waits : Free (.st relStore) sentProbe me ∧ StRel relStore (relPlaces (issued (.st relStore) sentProbe me)) False (issued (.st relStore) sentProbe me) me ∧
    (((issued (.st relStore) sentProbe me).warp me.warp).slice 0).relDone = false ∧ (issued (.st relStore) sentProbe me).relReady me.warp .device = false :=
  ⟨free_of (by decide), stRel_of (by decide) (by decide) (by decide), by decide⟩
/-- The data page is a page of the system control window; the release is done. -/
def winProbe : State := { memProbe with mem := ssetList (n := 8) memProbe.mem (0x402000 + 8) (nbytes 8 (winBase + 0x1D)) }
def relDid (s : State) : State := s.modWarp me.warp (fun w => w.modSlices 0xFF (fun x => { x with relDone := true }))
theorem wit_store_rel_window : Free (.st relStore) (relDid winProbe) me ∧ StRel relStore (relPlaces (issued (.st relStore) (relDid winProbe) me)) True (issued (.st relStore) (relDid winProbe) me) me ∧
    (((issued (.st relStore) (relDid winProbe) me).warp me.warp).slice 0).relDone = true :=
  ⟨free_of (by decide), stRel_of (by decide) (by decide) (by decide), by decide⟩
theorem wit_store_rel_done : Free (.st relStore) (relDid memProbe) me ∧ StRel relStore (relPlaces (issued (.st relStore) (relDid memProbe) me)) False (issued (.st relStore) (relDid memProbe) me) me ∧
    (((issued (.st relStore) (relDid memProbe) me).warp me.warp).slice 0).relDone = true :=
  ⟨free_of (by decide), stRel_of (by decide) (by decide) (by decide), by decide⟩
/-- A misaligned lane 3 behind three that pass: its fault is the lowest. -/
def oddProbe : State := memProbe.modWarp me.warp (fun w => w.wr 4 3 0x1102)
theorem wit_lowest : Met (.ld ⟨hd, .b32, none, 2, 4⟩) oddProbe fun s g => 3 ∈ s.taking g hd ∧
    accessOf (globalAddr 4 0 4) .read 4 s g.warp 3 = .error (bad .misaligned) ∧
    ∀ k ∈ s.taking g hd, k < 3 → okAnd (accessOf (globalAddr 4 0 4) .read 4 s g.warp k) (fun _ => true) = true := ⟨free_of (by decide), by decide⟩
theorem wit_check_piece : canonical 0x1100 = true ∧ 0x1100 % 4 = 0 ∧ canonical 0x8000000000000000 = false ∧
    okAnd (memProbe.checkPiece me.warp .read 4 ⟨0x1100, 4, 0⟩) (fun x => x.pa = placeCode + 0x100) = true ∧
    okAnd (memProbe.checkPiece me.warp .read 4 ⟨0x3000, 4, 0⟩) (fun _ => true) = false ∧
    winProbe.inWindow me.warp 0x1100 = true ∧ winProbe.privOf me.warp = true ∧ (winProbe.modCrew me.crewK (fun c => { c with priv := false })).privOf me.warp = false ∧
    okAnd (winProbe.checkPiece me.warp .read 4 ⟨0x1100, 4, 0⟩) (fun x => x.sp = .window) = true := by decide
theorem wit_scratch : Met (.lds ⟨lane0, .b64, none, 2, 6⟩) memProbe fun s g => s.taking g lane0 ≠ [] ∧
    ∀ l ∈ s.taking g lane0, ∃ x, s.scratchLane g.crewK false (offsetOf 6 0 s g.warp l) 8 = .ok x := ⟨free_of (by decide), by decide, lanes_ok (by decide)⟩
theorem test_sts : ∃ t, exec (.sts96i ⟨hd, .u16, 6, 6, 2⟩) memProbe = .next t ∧ sgetList (t.crew me.crewK).scratch 0x40 5 = [0, 0, 0x40, 0, 0] := ⟨_, rfl, by decide⟩
/-- CLEAR with no entry pending, with one pending, and with one struck. -/
def clearProbe (st : EntrySt) : State := { probe with clearing := [⟨0, me.warp, 5, 1, st⟩] }
theorem wit_clear : Met (.clear ⟨hd, 0x40⟩) (clearProbe .struck) (fun s g => s.entriesPending g.warp = false) ∧
    Met (.clear ⟨hd, 0x40⟩) (clearProbe .pending) (fun s g => s.entriesPending g.warp = true) :=
  ⟨⟨free_of (by decide), by decide⟩, ⟨free_of (by decide), by decide⟩⟩
/-- 15.3: the offset of CLEAR counts words. -/
theorem test_clear_struck : ∃ t, exec (.clear ⟨hd, 0x40⟩) (clearProbe .struck) = .next t ∧ ((t.warp me.warp).slice 0).pc = 0x1100 ∧ t.clearing = [] := ⟨_, rfl, by decide⟩

/-! Atomics, fences. -/

theorem wit_atom : Met (.atom ⟨lane0, .u32, .add, .device, false, 8, 2, 4, 6⟩) memProbe fun s g => ∀ l ∈ s.taking g lane0,
    okAnd (s.atomPlace g.warp .u32 (some .add) true (atomVa 4 8 s g.warp l)) (fun pl => !inL1 .device pl) = true := ⟨free_of (by decide), by decide⟩
theorem wit_atomc : Met (.atomc ⟨lane0, .u64, .device, false, 0, 2, 4, 6, 8⟩) memProbe (fun s g => ∀ l ∈ s.taking g lane0,
      okAnd (s.atomPlace g.warp .u64 none true (atomVa 4 0 s g.warp l)) (fun pl => !inL1 .device pl) = true) ∧
    Met (.red ⟨lane0, .u8, .max, .device, 4, 6⟩) memProbe (fun s g => ∀ l ∈ s.taking g lane0,
      okAnd (s.atomPlace g.warp .u8 (some .max) false (globalVa 4 0 s g.warp l)) (fun pl => !inL1 .device pl) = true) :=
  ⟨⟨free_of (by decide), by decide⟩, ⟨free_of (by decide), by decide⟩⟩
theorem wit_atom_l1 : Met (.atom ⟨lane0, .u32, .add, .crew, false, 0, 2, 4, 6⟩) (hitProbe.modWarp me.warp (fun w => w.wr 1 0 1)) fun s g => s.taking g lane0 = [0] ∧
    s.atomPlace g.warp .u32 (some .add) true (atomVa 4 0 s g.warp 0) = .ok (place1 (s.atomPlace g.warp .u32 (some .add) true (atomVa 4 0 s g.warp 0))) ∧
    inL1 .crew (place1 (s.atomPlace g.warp .u32 (some .add) true (atomVa 4 0 s g.warp 0))) = true ∧
    (place1 (s.atomPlace g.warp .u32 (some .add) true (atomVa 4 0 s g.warp 0))).sp = .device ∧
    s.l1Line (s.coreOf g.warp) ((place1 (s.atomPlace g.warp .u32 (some .add) true (atomVa 4 0 s g.warp 0))).pa / 64) = some (lineOf 100) ∧
    s.serves g.warp (lineOf 100) = true ∧ s.atomOut g.warp ((placeCode + 0x100) / 64) = false ∧ s.loading g.warp ((placeCode + 0x100) / 64) = false ∧
    Spot.l1 (s.coreOf g.warp) ((placeCode + 0x100) / 64) ∉ s.badSpots := ⟨free_of (by decide), by decide⟩
theorem test_atomic_min : aopNew .s32 .min 0xFFFFFFFF 1 = 0xFFFFFFFF ∧ aopNew .u32 .min 0xFFFFFFFF 1 = 1 ∧ aopNew .u32 .add 0xFFFFFFFF 2 = 1 := by decide
theorem wit_fence_rel : Met (.fence ⟨hd, .rel, .device⟩) probe fun s g => s.taking g hd ≠ [] ∧
    ((s.warp g.warp).slice g.gang.slice).relDone = false ∧ s.relReady g.warp .device = true ∧ s.loadsOut g.warp = false := ⟨free_of (by decide), by decide⟩
theorem wit_fence_waits : Met (.fence ⟨hd, .acqRel, .device⟩) sentProbe fun s g => s.taking g hd ≠ [] ∧
    ((s.warp g.warp).slice g.gang.slice).relDone = false ∧ s.relReady g.warp .device = false := ⟨free_of (by decide), by decide⟩
theorem wit_fence_done : Met (.fence ⟨hd, .acqRel, .device⟩) (sentProbe.modWarp me.warp (fun w => w.modSlices 0xFF (fun x => { x with relDone := true })))
    fun s g => s.taking g hd ≠ [] ∧ ((s.warp g.warp).slice g.gang.slice).relDone = true ∧ s.loadsOut g.warp = false := ⟨free_of (by decide), by decide⟩
/-- A load of the warp has not answered. -/
def loadingProbe : State := { probe with pends := [{ id := 7, warp := me.warp, regs := [3], left := 1, load := true }] }
theorem wit_fence_acquire : Met (.fence ⟨hd, .acqInv, .device⟩) loadingProbe (fun s g => s.taking g hd ≠ [] ∧ s.loadsOut g.warp = true) ∧
    Met (.fence ⟨hd, .acq, .device⟩) probe (fun s g => s.taking g hd ≠ [] ∧ s.loadsOut g.warp = false) := ⟨⟨free_of (by decide), by decide⟩, ⟨free_of (by decide), by decide⟩⟩
theorem wit_fence_completion : (probe.modWarp me.warp (fun w => w.modSlices 0xFF (fun x => { x with wait := .release .system false }))).relReady me.warp .system = true ∧
    (((probe.modWarp me.warp (fun w => w.modSlices 0xFF (fun x => { x with wait := .release .system false }))).warp me.warp).slice 0).wait = .release .system false ∧
    (sentProbe.modWarp me.warp (fun w => w.modSlices 0xFF (fun x => { x with wait := .release .system false }))).relReady me.warp .system = false := by decide
/-- ACQ.INV drops a line that holds a partial, and the partial joins the home's slot (Table 06.3, R87). -/
theorem test_inv_partial : let s : State := { hitProbe with partials := [((0, placeCode + 0x100), ⟨0, 5⟩)] }
    (s.invL1 0).l1 = [] ∧ (s.invL1 0).partials = [] ∧ (s.invL1 0).crSlots = [((0, placeCode + 0x100), 5)] := by decide

/-! Homes. -/

def msgProbe (k : MsgKind) : State := { probe with msgs := [⟨9, 0, 0, 0, some me.warp, 0, k⟩], nextId := 10 }
def msgOf (k : MsgKind) : Msg := ⟨9, 0, 0, 0, some me.warp, 0, k⟩
/-- A message of each kind, alone on its way, is served at once. -/
theorem wit_home_write : (msgProbe (.write 0x403FFF [1] .device)).msg? 9 = some (msgOf (.write 0x403FFF [1] .device)) ∧
    (msgProbe (.write 0x403FFF [1] .device)).mustWait (msgOf (.write 0x403FFF [1] .device)) = false ∧ region 0x403FFF = .tier 0 := by decide
theorem wit_home_range_write : (msgProbe (.write 0x403008 [1, 2, 3, 4, 5, 6, 7, 8] (.range 4))).msg? 9 = some (msgOf (.write 0x403008 [1, 2, 3, 4, 5, 6, 7, 8] (.range 4))) ∧
    (msgProbe (.write 0x403008 [1, 2, 3, 4, 5, 6, 7, 8] (.range 4))).mustWait (msgOf (.write 0x403008 [1, 2, 3, 4, 5, 6, 7, 8] (.range 4))) = false := by decide
theorem wit_home_atom : (msgProbe (.atom 0x403100 .u32 .add 1 none .device)).msg? 9 = some (msgOf (.atom 0x403100 .u32 .add 1 none .device)) ∧
    (msgProbe (.atom 0x403100 .u32 .add 1 none .device)).mustWait (msgOf (.atom 0x403100 .u32 .add 1 none .device)) = false := by decide
theorem wit_home_cas : (msgProbe (.cas 0x403100 .u32 0 7 ⟨1, 0, 2, 4, false⟩ .device)).msg? 9 = some (msgOf (.cas 0x403100 .u32 0 7 ⟨1, 0, 2, 4, false⟩ .device)) ∧
    (msgProbe (.cas 0x403100 .u32 0 7 ⟨1, 0, 2, 4, false⟩ .device)).mustWait (msgOf (.cas 0x403100 .u32 0 7 ⟨1, 0, 2, 4, false⟩ .device)) = false ∧
    probe.rdNat 0x403100 4 = (0 : DWord).toNat % 2 ^ 32 ∧ probe.rdNat 0x403100 4 ≠ (5 : DWord).toNat % 2 ^ 32 := by decide
theorem wit_home_fill : (msgProbe (.fill 65728 100 [])).msg? 9 = some (msgOf (.fill 65728 100 [])) ∧
    (msgProbe (.fill 65728 100 [])).mustWait (msgOf (.fill 65728 100 [])) = false ∧ (msgProbe (.fill 65728 100 [])).pinned 0 < (msgProbe (.fill 65728 100 [])).l1Lines 0 ∧ ∀ y ∈ (msgProbe (.fill 65728 100 [])).msgs, y.k.changes = false := by decide
theorem wit_home_reads : (msgProbe (.ldby 0x403100 [] .device)).mustWait (msgOf (.ldby 0x403100 [] .device)) = false ∧
    (msgProbe (.range 0x403100 4 ⟨1, 0, 2, 8, false⟩)).mustWait (msgOf (.range 0x403100 4 ⟨1, 0, 2, 8, false⟩)) = false := by decide
theorem wit_ack : (msgProbe (.ack 50)).msg? 9 = some (msgOf (.ack 50)) ∧ (aget (msgProbe (.ack 50)).warps me.warp).isSome = true := by decide
theorem wit_expiry : hitProbe.l1Line 0 ((placeCode + 0x100) / 64) = some (lineOf 100) ∧ hitProbe.pinnedLine (lineOf 100) = false := by decide
theorem wit_validation : (msgProbe (.valid 5 65728 3 100)).msg? 9 = some (msgOf (.valid 5 65728 3 100)) ∧
    (msgProbe (.valid 5 65728 3 100)).mustWait (msgOf (.valid 5 65728 3 100)) = false ∧
    (msgProbe (.answer 3 5 false (lineOf 9))).msg? 9 = some (msgOf (.answer 3 5 false (lineOf 9))) := by decide
/-- A store at its home raises the acknowledgement's completion time to the line's expiry. -/
theorem test_home_write : ∃ t, exec (.homeWrite 9) { msgProbe (.write 0x403102 [7, 8] .device) with lines := [(0x403102 / 64, ⟨1, 77⟩)] } = .next t ∧
    t.rdN 0x403101 4 = [0, 7, 8, 0] ∧ t.msgs.map (·.k) = [.ack 77] := ⟨_, rfl, by decide⟩
theorem test_home_atom : ∃ t, exec (.homeAtomic 9) (msgProbe (.atom 0x403100 .u32 .add 0xFFFFFFFF none .device)) = .next t ∧
    t.rdN 0x403100 5 = [0xFF, 0xFF, 0xFF, 0xFF, 0] := ⟨_, rfl, by decide⟩

/-- A peer's packets: to a tier, to no tier, and one that the access table refuses. -/
def portProbe : State := { probe with acctab := aset probe.acctab (3, 0) (BitVec.ofNat 128 (2 ^ 117 - 2 ^ 76 + 2 ^ 63 + 0xFF)) }
theorem wit_peer : region 0x403100 = .tier 0 ∧ portProbe.physOk 0x403100 3 false true false = true ∧ 0x403100 % 4096 + 2 ≤ 4096 ∧ portProbe.isBad 0x403100 2 = false ∧
    (∀ t ∈ [0, 1, 2], region 0x400000000000 ≠ .tier t) ∧ ({ probe with acctab := [] } : State).physOk 0x403100 3 false true false = false := by decide
theorem wit_settle_done : ({ probe with time := 60, msgs := [⟨9, 64, 0, 0, none, 0, .settle 4 50⟩] } : State).msg? 9 = some ⟨9, 64, 0, 0, none, 0, .settle 4 50⟩ := by decide
theorem wit_settle : (msgProbe (.settle 4 50)).msg? 9 = some (msgOf (.settle 4 50)) ∧ (msgProbe (.settle 4 50)).time < 50 ∧ (msgProbe (.settle 4 50)).time < 0 + 10000000 ∧
    aget (msgProbe (.settle 4 50)).peers 4 ≠ some .silent := by decide
/-- A gang that waits for a peer that has not answered for 10,000,000 ticks. -/
def latePeer : State :=
  (({ msgProbe (.unheard 0x10000000000000 0) with time := 10000000 }).modCtx 0 (fun c => { c with desc := { c.desc with faultRing := 0x1000 } })).modCrew me.crewK
    (fun c => { c with priv := false }) |>.modWarp me.warp (fun w => w.modSlices 0xFF (fun x => { x with wait := .peer .read 0x10000000000000 8 0xF false }))
theorem wit_peer_timeout : latePeer.msg? 9 = some (msgOf (.unheard 0x10000000000000 0)) ∧ 0 + 10000000 ≤ latePeer.time ∧
    ((latePeer.warp me.warp).slice 0).wait = .peer .read 0x10000000000000 8 0xF false ∧ latePeer.undelivered 0 (latePeer.privOf me.warp) = false := by decide

/-! Witnesses: copies, spools, matrix, attention, KV. -/

/-- v2 is a scratchpad offset, v4:v5 a global address, v7 a count of 16 in each lane. -/
def copyProbe : State := withRegs probe [(2, 0x40), (4, 0x1100), (7, 16)]
theorem wit_cpa : Met (.cpa ⟨hd, 2, false, 2, 4, 7⟩) copyProbe fun s g =>
    (∀ l ∈ s.taking g hd, okAnd (s.cpaLane g.warp ⟨hd, 2, false, 2, 4, 7⟩ l) (fun _ => true) = true) ∧
    s.engineFull (engineOf (s.coreOf g.warp)) (s.taking g hd).length = false := ⟨free_of (by decide), by decide⟩
theorem wit_cpclose : Met (.cpclose ⟨hd, 2⟩) probe fun s g => s.taking g hd ≠ [] ∧
    ((s.warp g.warp).batches.filter (fun b => b.closed && !b.done)).length < 8 := ⟨free_of (by decide), by decide⟩
/-- Eight batches are closed and not complete: CPCLOSE waits for the oldest. -/
def eightProbe : State := probe.modWarp me.warp (fun w => { w with batches := (List.range 8).map (fun i => ⟨BitVec.ofNat 16 i, true, 1, none, false, false⟩) })
theorem wit_cpclose_waits : Met (.cpclose ⟨hd, 2⟩) eightProbe fun s g => s.taking g hd ≠ [] ∧
    ((s.warp g.warp).batches.filter (fun b => b.closed && !b.done)).length = 8 := ⟨free_of (by decide), by decide⟩
/-- A batch that has ended with a copy that failed. -/
def failProbe : State := probe.modWarp me.warp (fun w => { w with batches := [⟨0, true, 0, some ⟨.addrRange, 0x80⟩, true, false⟩], nextBatch := 1, lastBatch := 0 })
theorem wit_cpwait_fails : Met (.cpwait ⟨hd, true, 0⟩) failProbe fun s g => s.taking g hd = 0 :: (List.range 32).tail ∧ (s.warp g.warp).pending = false ∧
    (∀ b ∈ (s.warp g.warp).batches, b.covered true (((s.warp g.warp).rg 0 0).setWidth 16) = true → b.done = true) ∧
    ((s.warp g.warp).batches.filter (fun b => b.covered true (((s.warp g.warp).rg 0 0).setWidth 16))).findSome? (·.failed) = some ⟨.addrRange, 0x80⟩ := ⟨free_of (by decide), by decide⟩
/-- A batch that is not done, and none: CPWAIT waits, goes on, or is a cancellation point. -/
def batchProbe : State := probe.modWarp me.warp (fun w => { w with batches := [⟨0, true, 3, none, false, false⟩], nextBatch := 1, lastBatch := 0 })
theorem wit_cpwait_waits : Met (.cpwait ⟨hd, true, 0⟩) batchProbe fun s g => s.taking g hd = 0 :: (List.range 32).tail ∧ (s.warp g.warp).pending = false ∧
    ∃ b ∈ (s.warp g.warp).batches, b.covered true (((s.warp g.warp).rg 0 0).setWidth 16) = true ∧ b.done = false := ⟨free_of (by decide), by decide⟩
theorem wit_cpwait : Met (.cpwait ⟨hd, true, 0⟩) probe fun s g => s.taking g hd = 0 :: (List.range 32).tail ∧ (s.warp g.warp).pending = false ∧
    ∀ b ∈ (s.warp g.warp).batches, b.covered true (((s.warp g.warp).rg 0 0).setWidth 16) = true → b.done = true ∧ b.failed = none := ⟨free_of (by decide), by decide⟩
theorem test_cpa_queues : ∃ t, exec (.cpa ⟨hd, 2, false, 2, 4, 7⟩) copyProbe = .next t ∧ t.reqs.length = 32 ∧
    (t.reqs.map (·.op)).getD 31 (.dcopyPage 0 0 (0, 0)) = .cpa 0x40 16 16 0x1100 ∧ (t.warp me.warp).batches.map (·.left) = [32] := ⟨_, rfl, by decide⟩

/-- A crew with spool 2 of two slots that expect 16 and 32 bytes; slot 0 holds n. -/
def aSpool (n : Nat) : Spool := { ns := 2, expect := [16, 32], arrived := [n, 0], failed := [none, none], got := [{ wct := 5 }, {}] }
def spoolProbe (n : Nat) : State := copyProbe.setSpool me.crewK 2 (aSpool n)
theorem wit_spset : Met (.spset ⟨hd, 2, 15, false, 7⟩) copyProbe fun s g =>
    (∀ i, i < 16 → i ∈ s.taking g hd ∧ (s.warp g.warp).rg 7 i ≠ 0) ∧ s.spoolTaken (s.coreOf g.warp) g.crewK 2 = false ∧
    s.spoolReqs (s.coreOf g.warp) 2 (· = g.crewK) = false := ⟨free_of (by decide), by decide⟩
theorem wit_spset_bad : Met (.spset ⟨hd, 2, 15, false, 0⟩) copyProbe fun s g =>
    ∃ i, i < 16 ∧ (i ∉ s.taking g hd ∨ (s.warp g.warp).rg 0 i = 0) := ⟨free_of (by decide), by decide⟩
theorem wit_spset_free : Met (.spset ⟨hd, 2, 0, true, 0⟩) (spoolProbe 0) fun s g => s.taking g hd ≠ [] ∧
    s.spoolTaken (s.coreOf g.warp) g.crewK 2 = false ∧ s.spoolReqs (s.coreOf g.warp) 2 (· = g.crewK) = false := ⟨free_of (by decide), by decide⟩
theorem wit_spwait : Met (.spwait ⟨hd, 2, 3⟩) (spoolProbe 16) fun s g => s.taking g hd ≠ [] ∧ (s.warp g.warp).pending = false ∧
    s.spool? g.crewK 2 = some (aSpool 16) ∧ (aSpool 16).arr 0 = (aSpool 16).exp 0 ∧ (aSpool 16).failed.getD 0 none = none := ⟨free_of (by decide), by decide⟩
/-- A slot that is not filled, one whose copy failed, one over-full, and no spool. -/
def badSpool : Spool := { aSpool 8 with failed := [some ⟨.dataCrc, 0x80⟩, none] }
theorem wit_spwait_not : Met (.spwait ⟨hd, 2, 3⟩) (spoolProbe 8) (fun s g => s.taking g hd ≠ [] ∧ (s.warp g.warp).pending = false ∧
      s.spool? g.crewK 2 = some (aSpool 8) ∧ (aSpool 8).arr 0 < (aSpool 8).exp 0 ∧ (aSpool 8).failed.getD 0 none = none) ∧
    Met (.spwait ⟨hd, 2, 3⟩) (copyProbe.setSpool me.crewK 2 badSpool) (fun s g => s.spool? g.crewK 2 = some badSpool ∧ badSpool.arr 0 ≤ badSpool.exp 0 ∧
      badSpool.failed.getD 0 none = some ⟨.dataCrc, 0x80⟩) ∧
    Met (.spwait ⟨hd, 2, 3⟩) (spoolProbe 17) (fun s g => s.spool? g.crewK 2 = some (aSpool 17) ∧ (aSpool 17).exp 0 < (aSpool 17).arr 0) ∧
    Met (.spwait ⟨hd, 2, 3⟩) copyProbe (fun s g => s.taking g hd ≠ [] ∧ s.spool? g.crewK 2 = none) :=
  ⟨⟨free_of (by decide), by decide⟩, ⟨free_of (by decide), by decide⟩, ⟨free_of (by decide), by decide⟩, ⟨free_of (by decide), by decide⟩⟩
theorem wit_sprel : Met (.sprel ⟨hd, 2⟩) (spoolProbe 16) (fun s g => s.taking g hd ≠ [] ∧ s.spool? g.crewK 2 = some (aSpool 16) ∧ (aSpool 16).arr 0 = (aSpool 16).exp 0) ∧
    Met (.sprel ⟨hd, 2⟩) (spoolProbe 8) (fun s g => s.taking g hd ≠ [] ∧ s.spool? g.crewK 2 = some (aSpool 8) ∧ (aSpool 8).arr 0 ≠ (aSpool 8).exp 0) :=
  ⟨⟨free_of (by decide), by decide⟩, ⟨free_of (by decide), by decide⟩⟩

/-- A tensor record at 0x1100: rank 2, 16 by 4 words, base 0x1800, row stride 64. -/
def aRecord : List Byte := nbytes 8 0x1800 ++ nbytes 4 16 ++ nbytes 4 4 ++ nbytes 12 0 ++ [15, 3, 0, 0, 0, 2, 2, 0, 0, 0, 0, 0] ++ nbytes 6 64 ++ nbytes 18 0
/-- One lane takes part: the guard bit of lane 0 alone is set. -/
def one (s : State) : State := s.modWarp me.warp (fun w => w.wr 1 0 1)
def tensorProbe : State := one (withData (spoolProbe 0) 0x100 aRecord)
theorem wit_tcopy : Met (.tcopy ⟨lane0, .scr, false, 0, 2, 1, 2, 4, 0, 0, 0, 0, 0⟩) tensorProbe fun s g => s.taking g lane0 = [0] ∧ s.slotOk g.crewK 2 1 = true ∧ s.unapplied g.warp = false ∧ s.loadsOut g.warp = false ∧
    s.engineFull (engineOf (s.coreOf g.warp)) 1 = false ∧ ∀ l ∈ s.taking g lane0,
      okAnd (s.readTensor g.warp ((s.warp g.warp).pair 4 l).toNat (4 * 2 ^ 20)) (fun x => x.ebytes = 4 &&
        okAnd (s.imageAt g.warp x .scr 0 (imageReg (s.warp g.warp) .scr 2 l)) (fun _ => true)) = true := ⟨free_of (by decide), by decide⟩
theorem wit_tcred : Met (.tcred ⟨lane0, .u32, .add, .scr, 0, 2, 1, 2, 4, 0, 0, 0, 0, 0⟩) tensorProbe fun s g => s.taking g lane0 = [0] ∧ s.slotOk g.crewK 2 1 = true ∧ s.unapplied g.warp = false ∧ s.loadsOut g.warp = false ∧
    ∀ l ∈ s.taking g lane0, okAnd (s.readTensor g.warp ((s.warp g.warp).pair 4 l).toNat (64 * 1024)) (fun x => x.ebytes = atyBytes .u32 &&
        okAnd (s.imageAt g.warp x .scr 0 (imageReg (s.warp g.warp) .scr 2 l)) (fun _ => true)) = true := ⟨free_of (by decide), by decide⟩
/-- A store of the warp is on its way: the record waits for it. -/
theorem wit_record_waits : Met (.tcopy ⟨lane0, .scr, false, 0, 2, 1, 2, 4, 0, 0, 0, 0, 0⟩) { tensorProbe with msgs := [storeOut], nextId := 10 } (fun s g =>
      s.taking g lane0 ≠ [] ∧ s.slotOk g.crewK 2 1 = true ∧ s.unapplied g.warp = true) ∧
    Met (.tcred ⟨lane0, .u32, .add, .scr, 0, 2, 1, 2, 4, 0, 0, 0, 0, 0⟩) { tensorProbe with msgs := [storeOut], nextId := 10 } (fun s g =>
      s.taking g lane0 ≠ [] ∧ s.slotOk g.crewK 2 1 = true ∧ s.unapplied g.warp = true) := ⟨⟨free_of (by decide), by decide⟩, ⟨free_of (by decide), by decide⟩⟩
theorem wit_dcopy : Met (.dcopy ⟨lane0, true, 0, 2, 1, 8, 10, 0⟩) (one (withRegs (spoolProbe 0) [(8, 0x1400), (10, 0x1000)])) fun s g => s.taking g lane0 ≠ [] ∧
    s.slotOk g.crewK 2 1 = true ∧ ∀ l ∈ s.taking g lane0, ((s.warp g.warp).pair 8 l).toNat % 64 = 0 ∧ ((s.warp g.warp).pair 10 l).toNat % 4096 = 0 :=
  ⟨free_of (by decide), by decide⟩
theorem wit_slot_missing : Met (.pgin ⟨hd, 0, 3, 1, 4, 0⟩) (spoolProbe 0) (fun s g => s.taking g hd ≠ [] ∧ s.slotOk g.crewK 3 1 = false) ∧
    Met (.pgmove ⟨hd, 1, 2, 2, 4, 0⟩) (spoolProbe 0) (fun s g => s.taking g hd ≠ [] ∧ s.slotOk g.crewK 2 2 = false) :=
  ⟨⟨free_of (by decide), by decide⟩, ⟨free_of (by decide), by decide⟩⟩
theorem wit_pgmove : Met (.pgmove ⟨hd, 1, 2, 1, 4, 0⟩) (spoolProbe 0) fun s g => s.taking g hd ≠ [] ∧ s.slotOk g.crewK 2 1 = true ∧
    ((pageMoves s g ⟨hd, 1, 2, 1, 4, 0⟩ 1).all (fun o => !s.engineFull o.1 ((pageMoves s g ⟨hd, 1, 2, 1, 4, 0⟩ 1).filter (fun x => x.1 = o.1)).length)) = true ∧
    ∀ l ∈ s.taking g hd, ((s.warp g.warp).pair 4 l).toNat % 64 = 0 := ⟨free_of (by decide), by decide⟩
theorem wit_crcchk : Met (.crcchk ⟨lane0, 2, 4⟩) memProbe fun s g => ∀ l ∈ s.taking g lane0,
    okAnd (s.crcLane g.warp (globalVa 4 0 s g.warp l)) (fun n => n = 0) = true := ⟨free_of (by decide), by decide⟩
/-- A protected block (attribute SC) whose sidecar is not what its bytes give. -/
def sealedProbe : State := { memProbe with mem := ssetList (n := 8) memProbe.mem (0x402000 + 8) (nbytes 8 (placeCode + 0x21D)) }
theorem wit_crcchk_place : okAnd (sealedProbe.xlate 0 0 0x1100 false .read) (fun t => t.prot && t.pa = placeCode + 0x100) = true ∧
    okAnd (memProbe.xlate 0 0 0x1100 false .read) (fun t => !t.prot && memProbe.physOk t.pa 0 true false false) = true ∧
    region (placeCode + 0x100) = .tier 0 ∧ okAnd (winProbe.xlate 0 0 0x1100 false .read) (fun t => region t.pa == .window) = true := by decide
theorem wit_accld : Met (.accld ⟨hd, 3, true, 127, 0, 6⟩) memProbe fun s g => s.taking g hd = 0 :: (List.range 32).tail ∧ s.unapplied g.warp = false ∧ s.loadsOut g.warp = false ∧
    s.imageCheck g.warp ⟨hd, 3, true, 127, 0, 6⟩ false (accAddr (s.warp g.warp) ⟨hd, 3, true, 127, 0, 6⟩ 0) = .ok () := ⟨free_of (by decide), by decide⟩
theorem wit_accld_global : Met (.accld ⟨hd, 3, false, 0, 0, 4⟩) memProbe fun s g => s.unapplied g.warp = false ∧ s.loadsOut g.warp = false ∧
    s.imageCheck g.warp ⟨hd, 3, false, 0, 0, 4⟩ false (accAddr (s.warp g.warp) ⟨hd, 3, false, 0, 0, 4⟩ 0) = .ok () ∧
    okAnd (s.takeRead ⟨s.coreOf g.warp, g.ctx, !s.privOf g.warp, 0⟩ (accAddr (s.warp g.warp) ⟨hd, 3, false, 0, 0, 4⟩ 0) 1024 true) (fun _ => true) = true := ⟨free_of (by decide), by decide⟩
theorem wit_image_bad : Met (.accld ⟨hd, 31, false, 0, 0, 4⟩) memProbe (fun s g => s.unapplied g.warp = false ∧ s.loadsOut g.warp = false ∧
      s.imageCheck g.warp ⟨hd, 31, false, 0, 0, 4⟩ false (accAddr (s.warp g.warp) ⟨hd, 31, false, 0, 0, 4⟩ 0) = .error (bad .accumRange)) ∧
    Met (.accst ⟨hd, 31, false, 0, 0, 4⟩) memProbe (fun s g =>
      s.imageCheck g.warp ⟨hd, 31, false, 0, 0, 4⟩ true (accAddr (s.warp g.warp) ⟨hd, 31, false, 0, 0, 4⟩ 0) = .error (bad .accumRange)) :=
  ⟨⟨free_of (by decide), by decide⟩, ⟨free_of (by decide), by decide⟩⟩
/-- One row of a tile, stored where no page is protected, and where the page is. -/
theorem wit_accst_global : Met (.accst ⟨hd, 3, false, 0, 0, 4⟩) memProbe fun s g =>
    s.imageCheck g.warp ⟨hd, 3, false, 0, 0, 4⟩ true (accAddr (s.warp g.warp) ⟨hd, 3, false, 0, 0, 4⟩ 0) = .ok () ∧
    (accstPages s g ⟨hd, 3, false, 0, 0, 4⟩ 0).all (fun p => !p.2.1.prot && !s.isBad p.2.1.pa p.2.2.length) = true := ⟨free_of (by decide), by decide⟩
theorem wit_accst_sealed : Met (.accst ⟨hd, 3, false, 0, 0, 4⟩) sealedProbe fun s g =>
    s.imageCheck g.warp ⟨hd, 3, false, 0, 0, 4⟩ true (accAddr (s.warp g.warp) ⟨hd, 3, false, 0, 0, 4⟩ 0) = .ok () ∧
    (accstPages s g ⟨hd, 3, false, 0, 0, 4⟩ 0).map (·.1) = [0x1100] ∧ (accstPages s g ⟨hd, 3, false, 0, 0, 4⟩ 0).all (fun p => p.2.1.prot) = true ∧
    s.msgs = [] ∧ s.engineFull (engineOf (s.coreOf g.warp)) 1 = false := ⟨free_of (by decide), by decide⟩

theorem wit_mma : Met (.mma ⟨hd, .scr, .e2m1, .e2m1, 0, 0, true, 0, 2, 8, 9⟩) probe fun s g => s.taking g hd = 0 :: (List.range 32).tail ∧
    s.mmaCheck g.crewK ⟨hd, .scr, .e2m1, .e2m1, 0, 0, true, 0, 2, 8, 9⟩ ((s.warp g.warp).rg 8 0).toNat ((s.warp g.warp).rg 9 0).toNat 128 256 = .ok () ∧ s.mmaBad g ⟨hd, .scr, .e2m1, .e2m1, 0, 0, true, 0, 2, 8, 9⟩ ((s.warp g.warp).rg 8 0).toNat ((s.warp g.warp).rg 9 0).toNat 128 256 false = false := ⟨free_of (by decide), by decide⟩
/-- A word of the tile that a product adds to cannot be corrected. -/
def badTile : State := { probe with badSpots := [.tile placeCrew (32768 * 2 + 9)] }
theorem met_of {i : Instr} {s : State} {pre : State → Cur → Prop} (h : (decide (s.cur = some me) && (!privileged i || s.privOf me.warp) &&
    decide (i.regTop ≤ 8 * (s.packetOf me.crewK).vregsDiv8)) = true) (hb : s.badLanes me i = []) (hp : pre (issued i s me) me) : Met i s pre := by
  simp only [Bool.and_eq_true, Bool.or_eq_true, Bool.not_eq_true', decide_eq_true_eq] at h
  exact ⟨⟨h.1.1, fun p => h.1.2.resolve_left (by simp [p]), h.2, hb⟩, hp⟩
theorem wit_mma_bad : Met (.mma ⟨hd, .scr, .e2m1, .e2m1, 0, 0, true, 0, 2, 8, 9⟩) badTile fun s g => s.taking g hd = 0 :: (List.range 32).tail ∧ s.peerSilent 0 = false ∧
    s.mmaCheck g.crewK ⟨hd, .scr, .e2m1, .e2m1, 0, 0, true, 0, 2, 8, 9⟩ ((s.warp g.warp).rg 8 0).toNat ((s.warp g.warp).rg 9 0).toNat 128 256 = .ok () ∧ s.mmaBad g ⟨hd, .scr, .e2m1, .e2m1, 0, 0, true, 0, 2, 8, 9⟩ ((s.warp g.warp).rg 8 0).toNat ((s.warp g.warp).rg 9 0).toNat 128 256 false = true := met_of (by decide) (by decide) (by decide)
/-- A launch of two paired crews. -/
def pairProbe : State := probe.modLaunch 0 0 (fun l => { l with packet := { l.packet with crewCount := 2, flags := 0x0C } })
theorem wit_mma2 : Met (.mma2 ⟨hd, .scr, .e2m1, .e2m1, 0, 0, true, 0, 2, 8, 9⟩) pairProbe (fun s g => s.pairOk g.crewK = true ∧
      s.mmaCheck g.crewK ⟨hd, .scr, .e2m1, .e2m1, 0, 0, true, 0, 2, 8, 9⟩ ((s.warp g.warp).rg 8 0).toNat ((s.warp g.warp).rg 9 0).toNat 256 256 = .ok () ∧ s.mmaBad g ⟨hd, .scr, .e2m1, .e2m1, 0, 0, true, 0, 2, 8, 9⟩ ((s.warp g.warp).rg 8 0).toNat ((s.warp g.warp).rg 9 0).toNat 256 256 true = false) ∧
    Met (.mma2 ⟨hd, .scr, .e2m1, .e2m1, 0, 0, true, 0, 2, 8, 9⟩) probe (fun s g => s.pairOk g.crewK = false) :=
  ⟨⟨free_of (by decide), by decide⟩, ⟨free_of (by decide), by decide⟩⟩
theorem wit_mmab : Met (.mmab ⟨hd, .scr, .e2m1, .e2m1, 0, 0, true, 0, 23, 8, 9⟩) probe fun s g =>
    s.mmaCheck g.crewK ⟨hd, .scr, .e2m1, .e2m1, 0, 0, true, 0, 23, 8, 9⟩ ((s.warp g.warp).rg 8 0).toNat ((s.warp g.warp).rg 9 0).toNat 512 1024 = .ok () ∧ s.mmaBad g ⟨hd, .scr, .e2m1, .e2m1, 0, 0, true, 0, 23, 8, 9⟩ ((s.warp g.warp).rg 8 0).toNat ((s.warp g.warp).rg 9 0).toNat 512 1024 false = false := ⟨free_of (by decide), by decide⟩
theorem wit_tiles : Met (.accz ⟨hd, 23⟩) probe (fun s g => s.taking g hd ≠ [] ∧ 23 < (s.packetOf g.crewK).tiles) ∧
    Met (.accz ⟨hd, 24⟩) probe (fun s g => s.taking g hd ≠ [] ∧ (s.packetOf g.crewK).tiles ≤ 24) ∧
    Met (.accmov ⟨hd, .tr, 2, 6, 3⟩) memProbe (fun s g => 3 < (s.packetOf g.crewK).tiles ∧ ∀ l ∈ s.taking g hd, accKey ((s.warp g.warp).rg 6 l) = some 16384 ∧
      s.tileBad g.crewK 3 16384 1 = false) ∧
    Met (.accmov ⟨hd, .tt, 2, 3, 0⟩) probe (fun s g => s.taking g hd ≠ [] ∧ 3 < (s.packetOf g.crewK).tiles ∧ s.tileBad g.crewK 3 0 32768 = false) ∧
    Met (.accscl ⟨hd, 2, 3, 252⟩) probe (fun s g => s.taking g hd ≠ [] ∧ 3 < (s.packetOf g.crewK).tiles ∧ s.tileBad g.crewK 2 0 32768 = false ∧
      ∀ i, i < 128 → s.tileBad g.crewK 3 (256 * i + 252) 1 = false) :=
  ⟨⟨free_of (by decide), by decide⟩, ⟨free_of (by decide), by decide⟩, ⟨free_of (by decide), by decide⟩, ⟨free_of (by decide), by decide⟩, ⟨free_of (by decide), by decide⟩⟩
/-- One 1 in row 0 of A and one 1 in column 0 of B (16.2): the product is 1 at the origin. -/
theorem test_mma_word : mmaWord .bf16 0x40000000 (fun k => if k = 5 then f32 0x3F800000 else zeroX) (fun k => if k = 5 then f32 0x40400000 else zeroX) = 0x40A00000 := by decide

/-- A KV record at 0x1400: entries at 0x1800, two pages of dimension 64, 64 tokens; page 0 is valid BF16 in tier 0, frame 0x410. -/
def ksrBytes (tent : Nat) : List Byte := nbytes 8 0x1800 ++ nbytes 8 0x1A00 ++ nbytes 4 2 ++ nbytes 4 64 ++ nbytes 4 tent ++ nbytes 2 64 ++ [0, 0] ++ nbytes 32 0
def pteBytes : List Byte := nbytes 8 (2 ^ 46 + 0x410) ++ nbytes 56 0
/-- v10:v11 names the record; the scratchpad holds a page list of page 0 at 0x80; v12 = 0x80, v13 = 1.0, v8 = 0x100. -/
def kvProbe : State :=
  (withRegs (withData (withData probe 0x400 (ksrBytes 64)) 0x800 pteBytes) [(10, 0x1400), (12, 0x80), (13, 0x3F800000), (8, 0x100)]).modCrew me.crewK
    (fun c => { c with scratch := ssetList (n := 8) [] 0x80 (nbytes 4 0 ++ List.replicate 60 0xFF) })
def attn0 : Attn := ⟨hd, 1, 2, 0, false, true, 0, 8, 10, 12, 13⟩
/-- The pages that ATTN captures, what they hold, and the state in which their readers are counted. -/
def capturesOf (s : State) (g : Cur) : Except Bad (Ksr × List (Nat × Pte) × List Captured × State) :=
  s.attnPages g attn0 ((s.warp g.warp).pair 10 0).toNat ((s.warp g.warp).rg 12 0).toNat ((s.warp g.warp).rg 8 0).toNat >>= fun x =>
    s.loadPages (s.kvMaster g.warp) x.1 x.2 >>= fun cs =>
      (s.sawPages (s.kvMaster g.warp) x.1 cs).storeCaptures (s.kvMaster g.warp) (s.coreOf g.warp) cs >>= fun u => .ok (x.1, x.2, cs, u)
/-- Page 0 of the record is in tier 2: a tier miss. -/
theorem wit_attn : Met (.attn attn0) (withData kvProbe 0x805 [0x42]) fun s g => s.taking g hd = 0 :: (List.range 32).tail ∧ s.unapplied g.warp = false ∧ s.loadsOut g.warp = false ∧
    okAnd (capturesOf s g) (fun x => x.2.1.all (fun p => p.2.readers ≠ 0xFFFF) && decide (x.2.2.1.map (·.data.isSome) = [false]) &&
      decide (s.missFull (s.kvMaster g.warp) x.1 (x.2.2.1.filter (·.data.isNone)) = none)) = true := ⟨free_of (by decide), by decide⟩
/-- A page in tier 0 that ATTN can read, and whose count of readers it can store. -/
theorem wit_attn_captures : okAnd (kvProbe.attnPages me attn0 0x1400 0x80 0x100) (fun x => x.2.all (fun p => !skips p.2 && p.2.readers ≠ 0xFFFF &&
    okAnd (kvProbe.storePte (kvProbe.kvMaster me.warp) (some 0) (x.1.pteVa p.1) { p.2 with readers := 1 }) (fun _ => true))) = true := by decide
/-- The page has as many readers as its entry can count. -/
theorem wit_attn_waits : Met (.attn attn0) (withData kvProbe 0x81C [0xFF, 0xFF]) fun s g => s.unapplied g.warp = false ∧ s.loadsOut g.warp = false ∧
    okAnd (s.attnPages g attn0 ((s.warp g.warp).pair 10 0).toNat ((s.warp g.warp).rg 12 0).toNat ((s.warp g.warp).rg 8 0).toNat)
      (fun x => (x.2.find? (fun p => p.2.readers = 0xFFFF)).isSome) = true := ⟨free_of (by decide), by decide⟩
theorem wit_attn_bad : Met (.attn { attn0 with s := 1 }) kvProbe fun s g =>
    okAnd (s.attnCheck g.crewK { attn0 with s := 1 } ((s.warp g.warp).rg 8 0).toNat ((s.warp g.warp).rg 12 0).toNat) (fun _ => true) = false ∧ s.peerSilent 0 = false ∧
    okAnd (s.attnPages g { attn0 with s := 1 } ((s.warp g.warp).pair 10 0).toNat ((s.warp g.warp).rg 12 0).toNat ((s.warp g.warp).rg 8 0).toNat) (fun _ => true) = false := ⟨free_of (by decide), by decide⟩
/-- A state in tile 2 that holds page 0 of the record, one row, and one in tile 4 that holds page 1. -/
def heldTile (t pg : Nat) (m : Sparse 32) : Sparse 32 :=
  [(252, 1), (508, 1), (764, 0x1400), (1276, 64), (253, pg), (255, 1)].foldl (fun m p => sset m (32768 * t + p.1) (BitVec.ofNat 32 p.2)) m
def finProbe : State := kvProbe.modCrew me.crewK (fun c => { c with tiles := heldTile 4 1 (heldTile 2 0 []) })
theorem wit_attnfin : Met (.attnfin ⟨hd, 1, 2, true⟩) finProbe fun s g => s.taking g hd = 0 :: (List.range 32).tail ∧ s.unapplied g.warp = false ∧ s.loadsOut g.warp = false ∧
    s.tileOk g.crewK 1 = true ∧ s.tileOk g.crewK 2 = true ∧ s.stateBad g.crewK 1 2 = false ∧ s.heldSlots g.crewK 2 = [(0, 0)] ∧ (s.attnHead g.crewK 2).ksr = 0x1400 ∧
    okAnd (s.readKsr (s.kvMaster g.warp) 0x1400) (fun r => okAnd ((s.sawKsr (s.kvMaster g.warp) r [0]).finSlots (s.kvMaster g.warp) (s.coreOf g.warp) r (fun _ => 0) [(0, 0)]) (fun _ => true)) = true :=
  ⟨free_of (by decide), by decide⟩
/-- A state that holds no page. -/
theorem wit_attnfin_none : Met (.attnfin ⟨hd, 1, 3, false⟩) finProbe fun s g => s.taking g hd = 0 :: (List.range 32).tail ∧ s.unapplied g.warp = false ∧ s.loadsOut g.warp = false ∧
    s.tileOk g.crewK 1 = true ∧ s.tileOk g.crewK 3 = true ∧ s.stateBad g.crewK 1 3 = false ∧ s.heldSlots g.crewK 3 = [] := ⟨free_of (by decide), by decide⟩
theorem wit_attnfin_bad : Met (.attnfin ⟨hd, 1, 24, false⟩) finProbe fun s g => s.taking g hd ≠ [] ∧ s.unapplied g.warp = false ∧ s.loadsOut g.warp = false ∧ s.tileOk g.crewK 24 = false := ⟨free_of (by decide), by decide⟩
theorem wit_smmerge : Met (.smmerge ⟨hd, 1, 2, 3, 4⟩) finProbe fun s g => (∀ x ∈ [1, 2, 3, 4], s.tileOk g.crewK x = true) ∧
    ([1, 2, 3, 4] : List (BitVec 5)).Nodup ∧ (s.attnHead g.crewK 2).ksr = (s.attnHead g.crewK 4).ksr ∧ (s.attnHead g.crewK 2).nr = (s.attnHead g.crewK 4).nr ∧
    (s.attnHead g.crewK 2).dim = (s.attnHead g.crewK 4).dim ∧ (s.attnHead g.crewK 2).ns + (s.attnHead g.crewK 4).ns ≤ 64 ∧
    (∀ i, i < 1 → ∀ j, j < 1 → s.slotPage g.crewK 2 i ≠ s.slotPage g.crewK 4 j) ∧ s.stateBad g.crewK 1 2 = false ∧ s.stateBad g.crewK 3 4 = false := ⟨free_of (by decide), by decide⟩
theorem wit_smmerge_bad : Met (.smmerge ⟨hd, 1, 2, 1, 4⟩) finProbe fun s g => s.taking g hd ≠ [] ∧ ¬ ([1, 2, 1, 4] : List (BitVec 5)).Nodup := ⟨free_of (by decide), by decide⟩
/-- SELECT with its query at 0x100, its list at 0x200, 16 entries. -/
def selProbe : State := withRegs kvProbe [(20, 0x200), (21, 16)]
theorem wit_select : Met (.select ⟨hd, 3, 10, 8, 13, 7, 20, 21⟩) selProbe fun s g => s.unapplied g.warp = false ∧ s.loadsOut g.warp = false ∧ ((s.warp g.warp).rg 8 0).toNat % 16 = 0 ∧
    ((s.warp g.warp).rg 20 0).toNat % 64 = 0 ∧ 0 < ((s.warp g.warp).rg 21 0).toNat ∧ ((s.warp g.warp).rg 21 0).toNat % 16 = 0 ∧
    okAnd (s.readKsr (s.kvMaster g.warp) ((s.warp g.warp).pair 10 0).toNat) (fun k => decide (0x100 + 2 * k.dim ≤ s.scratchSize g.crewK) && !s.scratchBad g.crewK 0x100 (2 * k.dim) &&
      okAnd (s.readSummaries (s.kvMaster g.warp) k ((List.range k.pages).filter k.isLive)) (fun _ => true)) = true := ⟨free_of (by decide), by decide⟩
theorem wit_kvinfo : Met (.kvinfo ⟨hd, true, 4, 0, 0⟩) probe (fun s g => s.unapplied g.warp = false ∧ s.loadsOut g.warp = false ∧ (s.ctx g.ctx).tierMiss = []) ∧
    Met (.kvinfo ⟨hd, true, 4, 0, 0⟩) (probe.modCtx 0 (fun c => { c with tierMiss := [(0x1400, 1)] })) (fun s g => s.unapplied g.warp = false ∧ s.loadsOut g.warp = false ∧ (s.ctx g.ctx).tierMiss = [(0x1400, 1)]) ∧
    Met (.kvinfo ⟨hd, false, 4, 10, 0⟩) kvProbe (fun s g => okAnd (s.readKsr (s.kvMaster g.warp) ((s.warp g.warp).pair 10 0).toNat)
      (fun k => okAnd (s.kvPage (s.kvMaster g.warp) k ((s.warp g.warp).rg 0 0).toNat) (fun _ => true)) = true) :=
  ⟨⟨free_of (by decide), by decide⟩, ⟨free_of (by decide), by decide⟩, ⟨free_of (by decide), by decide⟩⟩
/-- A record instruction that succeeds, one that meets its fault, one that waits, and one behind a store of its warp. -/
def endsKv (r : Except Bad (Option Block × State)) (b : Option Block) : Bool := okAnd r (fun x => x.1 = b)
theorem wit_record_ok : Met (.kvpin ⟨hd, 10, 0⟩) kvProbe (fun s g => s.taking g hd = 0 :: (List.range 32).tail ∧ s.unapplied g.warp = false ∧ s.loadsOut g.warp = false ∧
      endsKv (s.setPin g true ((s.warp g.warp).pair 10 0).toNat ((s.warp g.warp).rg 0 0).toNat) none = true) ∧
    Met (.kvpin ⟨hd, 10, 0⟩) { kvProbe with msgs := [storeOut], nextId := 10 } (fun s g => s.unapplied g.warp = true) :=
  ⟨⟨free_of (by decide), by decide⟩, ⟨free_of (by decide), by decide⟩⟩
/-- The record with 8 tokens, all committed: none more is committed, what is tentative is rolled back, page 0 is asked for. -/
def appProbe : State := withData kvProbe 0x414 (nbytes 4 8 ++ nbytes 4 8)
theorem wit_records : Met (.kvcommit ⟨hd, 10, 0⟩) appProbe (fun s g => endsKv (s.kvcommit g ((s.warp g.warp).pair 10 0).toNat ((s.warp g.warp).rg 0 0).toNat) none = true) ∧
    Met (.kvroll ⟨hd, 10⟩) appProbe (fun s g => endsKv (s.kvroll g ((s.warp g.warp).pair 10 0).toNat) none = true) ∧
    Met (.kvunpin ⟨hd, 10, 0⟩) appProbe (fun s g => endsKv (s.setPin g false ((s.warp g.warp).pair 10 0).toNat ((s.warp g.warp).rg 0 0).toNat) none = true) ∧
    Met (.demreq ⟨hd, 10, 0⟩) appProbe (fun s g => endsKv (s.demreq g ((s.warp g.warp).pair 10 0).toNat ((s.warp g.warp).rg 0 0).toNat) none = true) ∧
    Met (.kvstep ⟨hd, 10, 0⟩) appProbe (fun s g => endsKv (s.kvstep g ((s.warp g.warp).pair 10 0).toNat ((s.warp g.warp).rg 0 0).toNat) none = true) :=
  ⟨⟨free_of (by decide), by decide⟩, ⟨free_of (by decide), by decide⟩, ⟨free_of (by decide), by decide⟩, ⟨free_of (by decide), by decide⟩, ⟨free_of (by decide), by decide⟩⟩
theorem wit_record_bad : Met (.kvcommit ⟨hd, 10, 8⟩) kvProbe fun s g => s.unapplied g.warp = false ∧ s.loadsOut g.warp = false ∧ s.peerSilent 0 = false ∧
    okAnd (s.kvcommit g ((s.warp g.warp).pair 10 0).toNat ((s.warp g.warp).rg 8 0).toNat) (fun _ => true) = false := ⟨free_of (by decide), by decide⟩
/-- A sidecar entry that stands in memory behind other cells. -/
theorem sgetList_seal (m m' : Sparse 8) (a : Nat) (d : List Byte) (hd : d.length = 16) (h : ∀ p ∈ m, p.1 < a ∨ a + 16 ≤ p.1) :
    sgetList (m ++ ((List.range 16).map (fun i => (a + i, d.getD i 0)) ++ m')) a 16 = d := by
  rw [sgetList_eq]
  refine List.ext_getElem (by simp [hd]) (fun i h1 h2 => ?_)
  have hi : i < 16 := by simpa using h1
  simp only [List.getElem_map, List.getElem_range]
  rw [sget_append _ _ _ (fun p hp => by have := h p hp; omega), sget_cells (fun i => d.getD i 0) m' a i _ (by simpa using hi)]
  simp [List.getD_eq_getElem?_getD, List.getElem?_eq_getElem h2]
/-- A right entry of a tier 0 block. -/
def entryOf (d : List Byte) : List Byte := nbytes 8 (crc64 d).toNat ++ nbytes 8 0
/-- One part written to a block whose entry is right, and the block sealed again. -/
def afterOne (s : State) (pa : Nat) (p : Nat × List Byte) : State := (s.homeWrite (blockOf pa + p.1 % 4096) p.2).2.sealBlock 0 pa
theorem protWrite_one (s : State) (pa : Nat) (p : Nat × List Byte) (h : s.checkBlock 0 pa = none) (hs : s.sideBad pa false true = none) :
    ∃ w, s.protWrite 0 pa [p] = .ok (w, afterOne s pa p) := by
  unfold State.protWrite
  rw [h, hs, ite_self]
  exact ⟨_, rfl⟩
theorem frameWrite_one (s : State) (x : Nat) (r : List (Nat × List Byte)) (l : List (Nat × List (Nat × List Byte))) (v : Nat × State)
    (h : s.physOk (4096 * x) 1 false true false = true) (e : s.protWrite 0 (4096 * x) r = .ok v) :
    s.frameWrite 0 ((x, r) :: l) = v.2.frameWrite 0 l := by
  simp only [State.frameWrite, h, e, Bool.not_true, Bool.false_eq_true, if_false]
theorem frameWrite_two (s : State) (a b : Nat) (p q : Nat × List Byte) (ha : s.physOk (4096 * a) 1 false true false = true)
    (hb : (afterOne s (4096 * a) p).physOk (4096 * b) 1 false true false = true)
    (ca : s.checkBlock 0 (4096 * a) = none) (cb : (afterOne s (4096 * a) p).checkBlock 0 (4096 * b) = none)
    (sa : s.sideBad (4096 * a) false true = none) (sb : (afterOne s (4096 * a) p).sideBad (4096 * b) false true = none) :
    s.frameWrite 0 [(a, [p]), (b, [q])] = .ok (afterOne (afterOne s (4096 * a) p) (4096 * b) q) := by
  obtain ⟨_, e1⟩ := protWrite_one _ _ p ca sa
  obtain ⟨_, e2⟩ := protWrite_one _ _ q cb sb
  rw [frameWrite_one _ _ _ _ _ ha e1, frameWrite_one _ _ _ _ _ hb e2, State.frameWrite]
theorem appendTo_of {s : State} {u : Master} {core : Nat} {c : CrewKey} {k : Ksr} {off n pg : Nat} {p : Pte} {l : List (Nat × List (Nat × List Byte))} {v : State}
    (hl : byPage (cutPages ((min (k.tent + n) (64 * pg + 64) - max k.tent (64 * pg)) * (2 * k.dim) / 4096 + 2)
          (framePa 0 (fwFrame p.cur) + (max k.tent (64 * pg) - 64 * pg) * (2 * k.dim))
          (s.scratchBytes c (off + (max k.tent (64 * pg) - k.tent) * (2 * k.dim)) ((min (k.tent + n) (64 * pg + 64) - max k.tent (64 * pg)) * (2 * k.dim))) ++
        cutPages ((min (k.tent + n) (64 * pg + 64) - max k.tent (64 * pg)) * (2 * k.dim) / 4096 + 2)
          (framePa 0 (fwFrame p.cur) + (max k.tent (64 * pg) - 64 * pg) * (2 * k.dim) + 64 * (2 * k.dim))
          (s.scratchBytes c (off + n * (2 * k.dim) + (max k.tent (64 * pg) - k.tent) * (2 * k.dim)) ((min (k.tent + n) (64 * pg + 64) - max k.tent (64 * pg)) * (2 * k.dim)))) = l)
    (hd : s.dir.on = false) (hw : s.frameWrite u.ctx l = .ok v) : s.appendTo u core c k off n ((pg, p), none) = .ok v := by
  have e : s.dedupForget (fwFrame p.cur) (frameUnits 0 k.dim) = s := by simp [State.dedupForget, hd]
  subst hl
  simp only [State.appendTo, State.appendFrame, e, bind, Except.bind]
  rw [hw]
  simp [State.savePte]
/-- The pool's requests of a warp are gone: what an append that needs no run leaves. -/
def noAllocs (s : State) (w : WarpKey) : State := s.dropAllocs (fun a => a.who.ofWarp w)
theorem kvapp_of {s : State} {g : Cur} {a off n pg : Nat} {k : Ksr} {p : Pte} {s1 s2 : State}
    (hk : s.readKsr (s.kvMaster g.warp) a = .ok k) (h0 : n ≠ 0) (h1 : n ≤ 1024) (h2 : off % 16 = 0)
    (h3 : off + 4 * k.dim * n ≤ s.scratchSize g.crewK) (h4 : s.scratchBad g.crewK off (4 * k.dim * n) = false) (h5 : k.tent + n ≤ 64 * k.pages)
    (hp : s.appendPages (s.kvMaster g.warp) k ((List.range ((k.tent + n - 1) / 64 + 1 - k.tent / 64)).map (k.tent / 64 + ·)) = .ok [(pg, p)])
    (hb : ([(pg, p)].findSome? fun p => if fwValid p.2.cur then s.refBad 0 (fwFrame p.2.cur) else none) = none)
    (he : s.engineFull (engineOf (s.coreOf g.warp)) 1 = false) (hu : s.engineBusy (engineOf (s.coreOf g.warp)) = false)
    (hr : s.needsRun p = false) (hw : k.window = 0)
    (ha : ((noAllocs s g.warp).sawKsr (s.kvMaster g.warp) k [pg]).appendTo (s.kvMaster g.warp) (s.coreOf g.warp) g.crewK k off n ((pg, p), none) = .ok s1)
    (hf : s1.putField (s.kvMaster g.warp) (some (s.coreOf g.warp)) (k.addr + 0x18) (k.tent + n) = .ok s2) :
    s.kvapp g a off n = .ok (none, s2.addTokens g.crewK n) := by
  have e : s.allocAll g.warp g.ctx 0 (frameUnits 0 k.dim) [] = .ok (some [], noAllocs s g.warp) := rfl
  unfold State.kvapp
  simp only [hk, bind, Except.bind, hp, h0, h2, h4, hw, Nat.not_lt.mpr h1, Nat.not_lt.mpr h3, Nat.not_lt.mpr h5, hb, he, hu]
  simp [hr]
  rw [e]
  simp [ha, hf, aget]
  rfl
theorem State.sawRead_mem {s : State} {u : Master} {va : Nat} (hp : pieces (64 / 4096 + 2) va 64 = [(va, 64)])
    (h : okAnd (s.unitAt u va .read) (fun t => !t.isRange) = true) : (s.sawRead u va 64).mem = s.mem := by
  obtain ⟨t, e, ht⟩ := ok_of h
  simp only [State.sawRead, hp, List.foldl_cons, List.foldl_nil, State.sawPiece, e]
  rw [if_neg (by simpa using ht), State.touchLines_mem]
theorem dropAllocs_mem {s : State} (p : Alloc → Bool) (h : s.poolQ = []) : (s.dropAllocs p).mem = s.mem := by simp [State.dropAllocs, h]
def sealAddr (b : Nat) : Nat := 4096 * appProbe.sideFrame 0 + 16 * (b / 4096)
def sealCells (b : Nat) : List Host.Cell := (List.range 16).map (fun i => (sealAddr b + i, (entryOf (List.replicate 4096 0)).getD i 0))
/-- The record of appProbe, whose ninth token has room in page 0, beside the entries of the two blocks that it is written
to, and the TLB of core 0 filled for the probe's page; v20 = 1. -/
def fullProbe : State :=
  withRegs { appProbe with
    mem := appProbe.mem ++ (sealCells 0x410000 ++ sealCells 0x412000)
    tlb := ((List.range 4).foldl (fun s l => s.tlbFill 0 0 l 0x1000) appProbe).tlb } [(20, 1)]
def kvappI : Instr := .kvapp ⟨hd, 10, 8, 20⟩
def appState : State := issued kvappI fullProbe me
def appKsr : Ksr := ksrOf 0x1400 (appProbe.rdN (placeCode + 0x400) 64)
def appU : Master := appState.kvMaster me.warp
def appSaw : State := (noAllocs appState me.warp).sawKsr appU appKsr [0]
theorem withRegs_mem (s : State) (l : List (Nat × Word)) : (withRegs s l).mem = s.mem := rfl
theorem issued_mem (i : Instr) (s : State) (g : Cur) : (issued i s g).mem = s.mem := rfl
theorem app_mem : appState.mem = appProbe.mem ++ (sealCells 0x410000 ++ sealCells 0x412000) := by
  rw [appState, issued_mem, fullProbe, withRegs_mem]
theorem appSaw_mem : appSaw.mem = appState.mem := by
  have h1 : (noAllocs appState me.warp).mem = appState.mem := dropAllocs_mem _ (by decide +kernel)
  have h2 : ((noAllocs appState me.warp).sawRead appU 0x1400 64).mem = (noAllocs appState me.warp).mem :=
    State.sawRead_mem (by decide) (by decide +kernel)
  have h3 : (((noAllocs appState me.warp).sawRead appU 0x1400 64).sawRead appU 0x1800 64).mem = _ := (State.sawRead_mem (by decide) (by decide +kernel)).trans (h2.trans h1)
  have k1 : appKsr.addr = 0x1400 := by decide +kernel
  have k2 : appKsr.pteVa 0 = 0x1800 := by decide +kernel
  rw [← h3, appSaw, State.sawKsr, k1, List.foldl_cons, List.foldl_nil, k2]
theorem app_low : ∀ p ∈ appProbe.mem, p.1 < 0x410000 := by
  have h : appProbe.mem.all (fun p => decide (p.1 < 0x410000)) = true := by decide +kernel
  exact fun p hp => by simpa using List.all_eq_true.mp h p hp
theorem entryOf_length (d : List Byte) : (entryOf d).length = 16 := by simp [entryOf, nbytes_length]
theorem sealCells_key {b : Nat} {p : Host.Cell} (h : p ∈ sealCells b) : sealAddr b ≤ p.1 ∧ p.1 < sealAddr b + 16 := by
  obtain ⟨i, hi, rfl⟩ := List.mem_map.mp h
  exact ⟨Nat.le_add_right _ _, Nat.add_lt_add_left (List.mem_range.mp hi) _⟩
theorem seal_places : 0x413000 ≤ sealAddr 0x410000 ∧ sealAddr 0x410000 + 16 ≤ sealAddr 0x412000 := by decide +kernel
/-- What memory holds below the sidecar: a block of page 0's frame is all zeros. -/
theorem saw_zero {b : Nat} (h : 0x410000 ≤ b) (h' : b + 4096 ≤ 0x413000) : sgetList appSaw.mem b 4096 = List.replicate 4096 0 := by
  rw [appSaw_mem, app_mem]
  refine sgetList_zero _ _ _ (fun p hp => ?_)
  have := seal_places
  rcases List.mem_append.mp hp with hp | hp
  · exact .inl (Nat.lt_of_lt_of_le (app_low p hp) h)
  · rcases List.mem_append.mp hp with hp | hp <;> have := sealCells_key hp <;> omega
theorem saw_first : sgetList appSaw.mem (sealAddr 0x410000) 16 = entryOf (List.replicate 4096 0) := by
  rw [appSaw_mem, app_mem]
  exact sgetList_seal _ _ _ _ (entryOf_length _) (fun p hp => by have := app_low p hp; have := seal_places; omega)
theorem saw_second : sgetList appSaw.mem (sealAddr 0x412000) 16 = entryOf (List.replicate 4096 0) := by
  rw [appSaw_mem, app_mem, ← List.append_assoc, ← List.append_nil (sealCells 0x412000)]
  refine sgetList_seal _ _ _ _ (entryOf_length _) (fun p hp => ?_)
  have := seal_places
  rcases List.mem_append.mp hp with hp | hp
  · have := app_low p hp; omega
  · have := sealCells_key hp; omega
def rowOf (o : Nat) : List Byte := appSaw.scratchBytes me.crewK o 128
def partK : Nat × List Byte := (0x410400, rowOf 0x100)
def partV : Nat × List Byte := (0x412400, rowOf 0x180)
theorem part_length : partK.2.length = 128 := sgetList_length _ _ _
theorem check_first : appSaw.checkBlock 0 (4096 * 0x410) = none :=
  State.checkBlock_of (b := 0x410000) (d := List.replicate 4096 0) (by decide) (by decide +kernel) (by decide +kernel)
    ((by decide +kernel : sideAddr appSaw 0x410000 = sealAddr 0x410000) ▸ saw_first) (saw_zero (by decide) (by decide)) _ (by decide)
theorem after_mem : (afterOne appSaw (4096 * 0x410) partK).mem =
    ssetList (ssetList appSaw.mem 0x410400 partK.2) (sealAddr 0x410000) (entryOf ((appSaw.homeWrite 0x410400 partK.2).2.rdN 0x410000 4096)) := by
  have e : blockOf (4096 * 0x410) + partK.1 % 4096 = 0x410400 := by decide
  have e1 : blockOf (4096 * 0x410) = 0x410000 := by decide
  have e2 : sideAddr (appSaw.homeWrite 0x410400 partK.2).2 0x410000 = sealAddr 0x410000 := by decide +kernel
  have e3 : region 0x410000 = .tier 0 := by decide
  unfold afterOne State.sealBlock State.put State.sideBytes
  rw [e, State.homeWrite_mem, e1, State.homeWrite_mem, e2, e3]
  rfl
theorem check_second : (afterOne appSaw (4096 * 0x410) partK).checkBlock 0 (4096 * 0x412) = none := by
  have p := seal_places
  refine State.checkBlock_of (b := 0x412000) (d := List.replicate 4096 0) (by decide) (by decide +kernel) (by decide +kernel) ?_ ?_ _ (by decide)
  · rw [(by decide +kernel : sideAddr (afterOne appSaw (4096 * 0x410) partK) 0x412000 = sealAddr 0x412000)]
    refine Eq.trans ?_ saw_second
    unfold State.rdN
    rw [after_mem, sgetList_ssetList_ne _ _ _ _ _ (.inr (by rw [entryOf_length]; omega)), sgetList_ssetList_ne _ _ _ _ _ (.inr (by rw [part_length]; omega))]
  · unfold State.rdN
    rw [after_mem, sgetList_ssetList_ne _ _ _ _ _ (.inl (by omega)), sgetList_ssetList_ne _ _ _ _ _ (.inr (by rw [part_length]; omega)), saw_zero (by decide) (by decide)]
theorem ok_eq {α : Type} [DecidableEq α] {r : Except Bad α} {x : α} (h : okAnd r (fun y => decide (y = x)) = true) : r = .ok x := by
  obtain ⟨y, e, p⟩ := ok_of h
  rw [e, of_decide_eq_true p]
def appPte : Pte := match appState.readPte appU 0x1800 with | .ok p => p | .error _ => default
theorem app_written : appSaw.appendTo appU (appState.coreOf me.warp) me.crewK appKsr 0x100 1 ((0, appPte), none) =
    .ok (afterOne (afterOne appSaw (4096 * 0x410) partK) (4096 * 0x412) partV) :=
  appendTo_of (l := [(0x410, [partK]), (0x412, [partV])]) (by decide +kernel) (by decide +kernel)
    (frameWrite_two appSaw 0x410 0x412 partK partV (by decide +kernel) (by decide +kernel) check_first check_second (by decide +kernel) (by decide +kernel))
/-- KVAPP of one token: its page has its frame, both blocks that it writes are checked, written and sealed again. -/
theorem wit_kvapp : Met kvappI fullProbe fun s g => s.taking g hd = 0 :: (List.range 32).tail ∧ s.unapplied g.warp = false ∧ s.loadsOut g.warp = false ∧
    endsKv (s.kvapp g ((s.warp g.warp).pair 10 0).toNat ((s.warp g.warp).rg 8 0).toNat ((s.warp g.warp).rg 20 0).toNat) none = true := by
  refine ⟨free_of (by decide +kernel), by decide +kernel, by decide +kernel, by decide +kernel, ?_⟩
  obtain ⟨v, hv, -⟩ := ok_of (r := (afterOne (afterOne appSaw (4096 * 0x410) partK) (4096 * 0x412) partV).putField appU (some 0) (0x1400 + 0x18) 9)
    (p := fun _ => true) (by decide +kernel)
  have a : (((issued kvappI fullProbe me).warp me.warp).pair 10 0).toNat = 0x1400 ∧ (((issued kvappI fullProbe me).warp me.warp).rg 8 0).toNat = 0x100 ∧
    (((issued kvappI fullProbe me).warp me.warp).rg 20 0).toNat = 1 := by decide +kernel
  have ka : appKsr.addr = 0x1400 := by decide +kernel
  have kt : appKsr.tent = 8 := by decide +kernel
  have kc : appState.coreOf me.warp = 0 := by decide +kernel
  have h : appState.kvapp me 0x1400 0x100 1 = _ := kvapp_of (s := appState) (g := me) (a := 0x1400) (off := 0x100) (n := 1) (k := appKsr) (pg := 0) (p := appPte) (ok_eq (by decide +kernel)) (by decide) (by decide) (by decide)
    (by decide +kernel) (by decide +kernel) (by decide +kernel) (ok_eq (by decide +kernel)) (by decide +kernel) (by decide +kernel) (by decide +kernel) (by decide +kernel) (by decide +kernel) (app_written) (by rw [ka, kt, kc]; exact hv)
  rw [a.1, a.2.1, a.2.2, ← appState, h]
  rfl
/-- The Clipper is busy in the second: KVSTEP waits. -/
theorem wit_kvstep : 0x1800 % 8 = 0 ∧ okAnd (kvProbe.unitRead (kvProbe.kvMaster me.warp) 0x1800 (8 * 1) false) (fun _ => true) = true ∧
    (kvProbe.ctx 0).steps.find? (fun r => r.warp = me.warp) = none ∧ okAnd (kvProbe.stepList me 0x1800 1) (fun _ => true) = true ∧ kvProbe.stepWaits me.warp = false ∧
    ({ kvProbe with demreqs := [⟨0, 0, 0x1400, 0, true, 0, 0⟩] } : State).stepWaits me.warp = true := by decide
theorem wit_kvstep_waits : Met (.kvstep ⟨hd, 10, 0⟩) { kvProbe with demreqs := [⟨0, 0, 0x1400, 0, true, 0, 0⟩] } fun s g =>
    s.unapplied g.warp = false ∧ s.loadsOut g.warp = false ∧ endsKv (s.kvstep g ((s.warp g.warp).pair 10 0).toNat ((s.warp g.warp).rg 0 0).toNat) (some .clipper) = true := ⟨free_of (by decide), by decide⟩
/-- A die's queue of 1,024 requests, and a request that is queued already. -/
def pageHome : Nat := kvProbe.pageDie (kvProbe.kvMaster me.warp) 0x1800
def demandProbe (n : Nat) : State := { kvProbe with demreqs := (List.range n).map (fun i => ⟨0, pageHome, 64 * i, 7, true, 0, 0⟩) }
theorem wit_demreq : okAnd (kvProbe.readKsr (kvProbe.kvMaster me.warp) 0x1400) (fun k => decide (0 < k.pages) && kvProbe.pageDie (kvProbe.kvMaster me.warp) (k.pteVa 0) == pageHome) = true ∧
    (demandProbe 1024).demandsFull pageHome = true ∧ (demandProbe 1024).demreqs.any (fun d => d.ctx = 0 && d.ksr = 0x1400 && d.page = 0) = false ∧
    ({ kvProbe with demreqs := [⟨0, 0, 0x1400, 0, true, 0, 0⟩] } : State).demreqs.any (fun d => d.ctx = 0 && d.ksr = 0x1400 && d.page = 0) = true := by decide
/-- Pinning sets bit 47 of the entry's first word in memory. -/
theorem test_kvpin : ∃ t, exec (.kvpin ⟨hd, 10, 0⟩) kvProbe = .next t ∧ t.rdNat (placeCode + 0x800) 8 = 2 ^ 47 + 2 ^ 46 + 0x410 := ⟨_, rfl, by decide⟩

/-! Witnesses: commutative ranges, barriers, events, tasks, the ballot, launches. -/

/-- The data page is a commutative range with scale 4. -/
def rangeProbe : State := { memProbe with mem := ssetList (n := 8) memProbe.mem (0x402000 + 8) (nbytes 8 (placeCode + 0x1D + 2 ^ 11 + 4 * 2 ^ 53)) }
theorem wit_redc : Met (.redc ⟨lane0, 4, 6⟩) rangeProbe fun s g => ∀ l ∈ s.taking g lane0,
    s.redcPlace g.warp (globalVa 4 0 s g.warp l) = .ok (place1 (s.redcPlace g.warp (globalVa 4 0 s g.warp l))) ∧
    (place1 (s.redcPlace g.warp (globalVa 4 0 s g.warp l))).tr.k = 4 ∧
    s.storing g.warp ((place1 (s.redcPlace g.warp (globalVa 4 0 s g.warp l))).pa / 64) = false := ⟨free_of (by decide), by decide⟩

theorem wit_cbar : Met (.cbar ⟨hd, 3⟩) probe (fun s g => s.taking g hd ≠ [] ∧ (s.warp g.warp).pending = false ∧ (s.crew g.crewK).bars.length = 8) ∧
    Met (.cbar ⟨hd, 3⟩) (probe.modWarp me.warp (fun w => { w with pending := true })) (fun s g => s.taking g hd ≠ [] ∧ (s.warp g.warp).pending = true) :=
  ⟨⟨free_of (by decide), by decide⟩, ⟨free_of (by decide), by decide⟩⟩
/-- A launch of one BARRIER group in slot 1. -/
def groupProbe (x : Group) : State := probe.modLaunch 0 0 (fun l => { l with groups := [{ x with members := [] }, x] })
theorem wit_gbar : Met (.gbar ⟨hd, 0⟩) (groupProbe { sibling := false, members := [0] }) (fun s g => s.taking g hd ≠ [] ∧ (s.warp g.warp).pending = false ∧
      s.groupOf g.crewK 0 false = some 1 ∧ ∃ y, (s.launch g.ctx g.crewK.launch).groups[1]? = some y ∧ y.members = [0]) ∧
    Met (.gbar ⟨hd, 1⟩) (groupProbe { sibling := false, members := [0] }) (fun s g => s.taking g hd ≠ [] ∧ (s.warp g.warp).pending = false ∧ s.groupOf g.crewK 1 false = none) :=
  ⟨⟨free_of (by decide), by decide, by decide, by decide, _, rfl, by decide⟩, ⟨free_of (by decide), by decide⟩⟩
def waitProbe (x : Wait) : State := probe.modWarp me.warp (fun w => w.modSlices 0xFF (fun y => { y with wait := x }))
theorem wit_barrier_go : ((waitProbe (.cbar 7 8)).crew placeCrew).bars.length = 8 ∧ (aget (waitProbe (.cbar 7 8)).warps me.warp).isSome = true ∧
    (⟨5, [me.warp]⟩ : Barrier).arrived.contains me.warp = true ∧ ∀ i, i < 8 → (((waitProbe (.cbar 7 8)).warp me.warp).slice i).gang = 0 ∧
      (((waitProbe (.cbar 7 8)).warp me.warp).slice i).exited = false ∧ (((waitProbe (.cbar 7 8)).warp me.warp).slice i).wait = .cbar 7 8 := by decide

/-- A context with an event area and a task area on the data page: event 0x20 and class 0's queue hold zeros. -/
def evProbe : State := memProbe.modCtx 0 (fun c => { c with desc := { c.desc with eventArea := 0x1000, taskArea := 0x1800 } })
theorem wit_events : Met (.evadd96i ⟨hd, .imm 0x20, 5⟩) evProbe (fun s g => s.taking g hd = 0 :: (List.range 32).tail ∧ s.noEvents g.ctx = false ∧
      ((s.warp g.warp).slice g.gang.slice).relDone = false ∧ s.relReady g.warp .device = true) ∧
    Met (.evset ⟨hd, .reg 6, 4⟩) (evProbe.modWarp me.warp (fun w => { w with whz := 9 })) (fun s g => s.taking g hd ≠ [] ∧ s.noEvents g.ctx = false ∧
      ((s.warp g.warp).slice g.gang.slice).relDone = false ∧ s.relReady g.warp .device = false) ∧
    Met (.evadd ⟨hd, .imm 0x20, 4⟩) memProbe (fun s g => s.taking g hd ≠ [] ∧ s.noEvents g.ctx = true) :=
  ⟨⟨free_of (by decide), by decide⟩, ⟨free_of (by decide), by decide⟩, ⟨free_of (by decide), by decide⟩⟩
theorem wit_evwait : Met (.evwait ⟨hd, true, .imm 0x20⟩) evProbe fun s g => s.taking g hd = 0 :: (List.range 32).tail ∧ (s.warp g.warp).pending = false ∧ s.noEvents g.ctx = false :=
  ⟨free_of (by decide), by decide⟩
theorem wit_evtest : Met (.evtest ⟨hd, true, .imm 0x20, 2⟩) evProbe fun s g => s.taking g hd = 0 :: (List.range 32).tail ∧ s.noEvents g.ctx = false ∧
    s.evSent g.warp 0x20 = false ∧ okAnd (s.evRead g.ctx 0x20) (fun v => v.count = 0) = true := ⟨free_of (by decide), by decide⟩
/-- An update by the warp of the event is on its way: EVTEST waits. -/
theorem wit_evtest_waits : Met (.evtest ⟨hd, true, .imm 0x20, 2⟩) { evProbe with msgs := [msgOf (.event 0x20 false 1)], nextId := 10 } fun s g =>
    s.taking g hd = 0 :: (List.range 32).tail ∧ s.noEvents g.ctx = false ∧ s.evSent g.warp 0x20 = true := ⟨free_of (by decide), by decide⟩
theorem wit_taskput : Met (.taskput ⟨hd, .imm 0x20, 3, 4⟩) evProbe fun s g => s.taking g hd = 0 :: (List.range 32).tail ∧ s.noEvents g.ctx = false ∧
    ((s.warp g.warp).slice g.gang.slice).relDone = false ∧ s.relReady g.warp .device = true ∧ (s.ctx g.ctx).desc.taskArea ≠ 0 ∧
    s.evSent g.warp 0x20 = false ∧ okAnd ((s.relDo g.warp .device).taskPut g.ctx 0x20 0 ((s.warp g.warp).pair 4 0)) (fun u => (u.taskQ 0 0).count = 1) = true :=
  ⟨free_of (by decide), by decide⟩
theorem wit_taskpop : Met (.taskpop ⟨hd, 3, 2⟩) evProbe (fun s g => s.taking g hd ≠ [] ∧ s.noEvents g.ctx = false ∧ (s.ctx g.ctx).desc.taskArea ≠ 0 ∧
      okAnd (s.taskTakes g.ctx 3 2 (s.taking g hd)) (fun r => r.1.length = 64) = true) ∧
    Met (.taskpop ⟨hd, 3, 2⟩) (evProbe.modCtx 0 (fun c => { c with desc := { c.desc with taskArea := 0 } })) (fun s g => s.taking g hd ≠ [] ∧ s.noEvents g.ctx = false ∧ (s.ctx g.ctx).desc.taskArea = 0) :=
  ⟨⟨free_of (by decide), by decide⟩, ⟨free_of (by decide), by decide⟩⟩
theorem wit_task_empty : (evProbe.taskQ 0 3).count = 0 := by decide
theorem wit_task_there : okAnd (State.evRead { evProbe with evEntries := [⟨0, 0x20, 1, 0, 0, BitVec.ofNat 64 (2 ^ 63), []⟩] } 0 0x20) (fun v => v.task.getLsbD 63) = true := by decide

/-- An event of count 2 in its hardware entry, with a waiter; the update comes alone. -/
def entryProbe (k : MsgKind) : State :=
  { waitProbe (.event true 0x20 8) with ctxs := evProbe.ctxs, msgs := [msgOf k], nextId := 10, evEntries := [⟨0, 0x20, 2, 5, 6, 0, [⟨3, ⟨me.warp, 0⟩, true, 5, 6⟩]⟩] }
theorem wit_event_update : (entryProbe (.event 0x20 false 0xFFFFFFFF)).msg? 9 = some (msgOf (.event 0x20 false 0xFFFFFFFF)) ∧
    (entryProbe (.event 0x20 false 0xFFFFFFFF)).evBefore me.warp 0x20 9 = false ∧ (entryProbe (.event 0x20 false 0xFFFFFFFF)).noEvents 0 = false ∧
    okAnd (((entryProbe (.event 0x20 false 0xFFFFFFFF)).dropMsg 9).evUpdate 0 0x20 false 0xFFFFFFFF) (fun _ => true) = true ∧
    EvVal.holds (EvVal.update ⟨2, 5, 6, 0⟩ false 0xFFFFFFFF) true = false ∧ EvVal.holds (EvVal.update ⟨2, 5, 6, 0⟩ false 0xFFFFFFFE) true = true := by decide
theorem test_event_releases : ∃ t, exec (.eventUpdate 9) (entryProbe (.event 0x20 false 0xFFFFFFFE)) = .next t ∧
    ((t.warp me.warp).slice 7).wait = .none ∧ ((t.warp me.warp).slice 7).pc = 0x1008 ∧ t.evEntries = [] ∧ t.rdN (placeCode + 0x200) 8 = [0, 0, 0, 0, 6, 0, 7, 0] := ⟨_, rfl, by decide⟩
theorem wit_event_wait : (entryProbe (.evwait 0x20 true 0 none)).msg? 9 = some (msgOf (.evwait 0x20 true 0 none)) ∧
    okAnd (((entryProbe (.evwait 0x20 true 0 none)).dropMsg 9).evRead 0 0x20) (fun v => !v.holds true) = true ∧
    okAnd (((entryProbe (.evwait 0x21 true 0 none)).dropMsg 9).evRead 0 0x21) (fun v => v.holds true) = true ∧
    (entryProbe (.evwait 0x20 true 0 none)).evBefore me.warp 0x20 9 = false ∧
    (State.evEntry { entryProbe (.evwait 0x20 true 0 none) with evEntries := [] } 0 0x20).isNone = true ∧
    (((waitProbe (.event true 0x20 8)).warp me.warp).gangOf 0).getLsbD 0 = true := by decide
theorem wit_event_place : okAnd (State.evRead { withData (entryProbe (.evwait 0x20 true 0 none)) 0x200 [1] with evEntries := [] } 0 0x20) (fun v => v.count = 1) = true := by decide
theorem wit_event_reread : State.evOver { entryProbe (.ack 0) with evOver := [⟨0, 0x20, ⟨3, ⟨me.warp, 0⟩, true, 4, 6⟩⟩] } =
    [⟨0, 0x20, ⟨3, ⟨me.warp, 0⟩, true, 4, 6⟩⟩] ∧ okAnd ((entryProbe (.ack 0)).evRead 0 0x20) (fun v => !v.holds true && v.zseq.toNat ≠ 4) = true := by decide

/-- A SIBLING group of two members, of which crew 0 is one, at Teller entry 4. -/
def aTeller : Teller := { ctx := 0, launch := 0, group := 0, q := 2, members := [{ crew := 0 }, { crew := 1 }] }
def sibProbe : State := { (groupProbe { sibling := true, members := [0, 1], quorum := 2, teller := some 4 }) with teller := [(4, aTeller)] }
theorem wit_sibpost : Met (.sibpost ⟨hd, 0, 2, 4⟩) sibProbe (fun s g => s.taking g hd = 0 :: (List.range 32).tail ∧ s.ballot g.crewK 0 = some (4, aTeller, 0) ∧
      (s.warp g.warp).pending = false ∧ (aTeller.members.getD 0 { crew := 0 }).st = .running ∧ s.posting 4 0 = false ∧
      (aTeller.members.getD 0 { crew := 0 }).holds.length + 0 ≤ 256 ∧ aTeller.members.foldl (fun c y => c + y.holds.length) (s.holdsOut 4) + 0 ≤ 4096) ∧
    Met (.sibpost96c ⟨hd, 0, 2, 4, 6, 3⟩) sibProbe (fun s g => s.taking g hd = 0 :: (List.range 32).tail ∧ s.ballot g.crewK 0 = some (4, aTeller, 0) ∧
      (s.warp g.warp).pending = false ∧ (aTeller.members.getD 0 { crew := 0 }).st = .running ∧ s.posting 4 0 = false ∧
      ((s.warp g.warp).rg 6 0).toNat % 8 = 0 ∧ ((s.warp g.warp).rg 6 0).toNat + 8 * 3 ≤ s.scratchSize g.crewK ∧ s.scratchBad g.crewK ((s.warp g.warp).rg 6 0).toNat (8 * 3) = false ∧
      (aTeller.members.getD 0 { crew := 0 }).holds.length + 3 ≤ 256 ∧ aTeller.members.foldl (fun c y => c + y.holds.length) (s.holdsOut 4) + 3 ≤ 4096 ∧
      ∀ v ∈ (List.range 3).map (fun j => le64 (s.scratchBytes g.crewK ((s.warp g.warp).rg 6 0).toNat (8 * 3)) (8 * j)), v % 64 = 0) :=
  ⟨⟨free_of (by decide), by decide⟩, ⟨free_of (by decide), by decide⟩⟩
theorem wit_sibqry : Met (.sibqry ⟨hd, true, 0, 2, 8⟩) sibProbe (fun s g => s.ballot g.crewK 0 = some (4, aTeller, 0) ∧ s.posting 4 0 = false ∧
      ((s.warp g.warp).rg 8 0).toNat < aTeller.members.length) ∧
    Met (.sibcancel ⟨hd, true, 0, 8⟩) sibProbe (fun s g => s.taking g hd ≠ [] ∧ s.ballot g.crewK 0 = some (4, aTeller, 0) ∧ s.posting 4 0 = false ∧ 0 < aTeller.members.length) ∧
    Met (.sibcancel ⟨hd, false, 0, 8⟩) sibProbe (fun s g => s.taking g hd ≠ [] ∧ s.ballot g.crewK 0 = some (4, aTeller, 0) ∧ s.posting 4 0 = false ∧
      ∀ l ∈ s.taking g hd, ((s.warp g.warp).rg 8 l).toNat < aTeller.members.length) ∧
    Met (.sibcancel ⟨hd, false, 1, 8⟩) sibProbe (fun s g => s.taking g hd ≠ [] ∧ s.ballot g.crewK 1 = none) :=
  ⟨⟨free_of (by decide), by decide⟩, ⟨free_of (by decide), by decide⟩, ⟨free_of (by decide), by decide⟩, ⟨free_of (by decide), by decide⟩⟩
/-- The member's own post is on its way: SIBQRY and SIBCANCEL wait. -/
def postingProbe : State := { sibProbe with msgs := [msgOf (.post 4 0 7 [] 7 [0] 2)], nextId := 10 }
theorem wit_posting : Met (.sibqry ⟨hd, true, 0, 2, 8⟩) postingProbe (fun s g => s.taking g hd ≠ [] ∧ s.ballot g.crewK 0 = some (4, aTeller, 0) ∧ s.posting 4 0 = true) ∧
    Met (.sibcancel ⟨hd, false, 0, 8⟩) postingProbe (fun s g => s.taking g hd ≠ [] ∧ s.ballot g.crewK 0 = some (4, aTeller, 0) ∧ s.posting 4 0 = true) ∧
    postingProbe.msg? 9 = some (msgOf (.post 4 0 7 [] 7 [0] 2)) := ⟨⟨free_of (by decide), by decide⟩, ⟨free_of (by decide), by decide⟩, by decide⟩
/-- Eight hashes with slots: a ninth counts with the others. -/
def fullTeller : Teller := { aTeller with slots := (List.range 8).map (fun i => (BitVec.ofNat 64 (i + 1), 1)) }
theorem wit_post : fullTeller.decided = false ∧ fullTeller.slots.findIdx? (fun x => x.1 = 8) = some 7 ∧ fullTeller.slots[7]? = some (8, 1) ∧
    fullTeller.slots.findIdx? (fun x => x.1 = 9) = none ∧ 8 ≤ fullTeller.slots.length ∧ aTeller.slots.length < 8 := by decide
/-- A loser's holding: the KVPTE at 0x1800, whose page has two owners. -/
def lostTeller : Teller :=
  { aTeller with decided := true, outcome := .quorum, winner := some 1,
                 members := [{ crew := 0, st := .cancelled, wasCancelled := true, holds := [0x1800] }, { crew := 1, st := .posted }] }
def lostProbe : State := { sibProbe with teller := [(4, lostTeller)], warps := [] }
theorem wit_holding : aget lostProbe.teller 4 = some lostTeller ∧ lostProbe.drained ⟨0, 0, 0⟩ = true ∧ (lostTeller.members.getD 0 { crew := 0 }).over = true ∧
    lostTeller.winner ≠ some 0 ∧ (∃ y ∈ lostTeller.members, y.st ≠ .retired) ∧
    okAnd (lostProbe.releasePage (unitOf 0 true 0x1800) none false 64 0x1800) (·.1.isNone) = true := by decide

/-- A launch packet at 0x1400: entry 0x1000, one crew of one warp, 16 registers, dies 1. -/
def packetBytes : List Byte := nbytes 8 0x1000 ++ nbytes 8 0 ++ nbytes 4 1 ++ [1, 2, 0, 0] ++ nbytes 8 0 ++ nbytes 2 0 ++ [3, 0] ++ nbytes 4 0 ++ nbytes 4 0 ++ nbytes 4 1 ++ nbytes 16 0
def launchProbe : State := withRegs (withData probe 0x400 packetBytes) [(8, 0x1400), (10, 0x1500)]
theorem wit_launch : Met (.launch ⟨lane0, 2, 8, 10⟩) (launchProbe.modWarp me.warp (fun w => w.wr 1 0 1)) fun s g => s.taking g lane0 = [0] ∧
    ((s.warp g.warp).pair 8 0).toNat % 64 = 0 ∧ ((s.warp g.warp).pair 10 0).toNat % 4 = 0 ∧ ((s.warp g.warp).slice g.gang.slice).relDone = false ∧
    s.relReady g.warp .device = true ∧ s.unapplied g.warp = false ∧ s.loadsOut g.warp = false ∧
    okAnd ((s.relDo g.warp .device).recordRead g.warp ((s.warp g.warp).pair 8 0).toNat 64)
      (fun b => (packetOf b).refusal true false = none && b == packetBytes) = true := ⟨free_of (by decide), by decide⟩
/-- A full queue 7 of 64 launches, and a packet refused for its misaligned entry (Table 07.2). -/
def fullQueue : State := { launchProbe with launches := (List.range 64).map (fun i => ((0, i + 1), { packet := packetOf packetBytes, queue := 7 })) }
theorem wit_enqueue : 64 ≤ (fullQueue.queueOf 0 7).length ∧ (launchProbe.queueOf 0 7).length < 64 ∧
    ({ packetOf packetBytes with entry := 2 } : Packet).refusal true false = some 1 := by decide
theorem wit_sleep : Met (.sleep ⟨hd, 4⟩) memProbe (fun s g => s.taking g hd = 0 :: (List.range 32).tail ∧ (s.warp g.warp).rg 4 0 ≠ 0) ∧
    ((waitProbe (.sleep 7 8)).warp me.warp).slice 0 = { ((waitProbe (.sleep 7 8)).warp me.warp).slice 0 with wait := .sleep 7 8 } := ⟨⟨free_of (by decide), by decide⟩, by decide⟩

/-! Witnesses: system instructions, contexts, Uaten-2, warps and launches. -/

def relNow (s : State) (g : Cur) : Bool := !((s.warp g.warp).slice g.gang.slice).relDone && s.relReady g.warp .device
/-- A second warp of the crew, held on the report of sequence number 0. -/
def other : WarpKey := ⟨placeCrew, 1⟩
def aReport : Report := { id := 6, code := .bkpt, kind := .p, ctx := 0, warp := some other }
def aHeld : Held := ⟨6, .bkpt, .p, 0x0F, 8⟩
def heldProbe : State :=
  (memProbe.modCtx 0 (fun c => { c with delivered := [(0, aReport)] })).setWarp other
    { slices := List.replicate 8 { pc := 0x1000 }, held := some aHeld }
theorem wit_rte : Met (.rte ⟨hd, .next, 2⟩) heldProbe (fun s g => s.taking g hd = 0 :: (List.range 32).tail ∧ relNow s g = true ∧
      (s.relDo g.warp .device).heldOn g.ctx ((s.warp g.warp).pair 2 0).toNat = some (other, aHeld, aReport) ∧ aReport.kind = .p) ∧
    Met (.rte ⟨hd, .retry, 2⟩) memProbe (fun s g => relNow s g = true ∧ (s.relDo g.warp .device).heldOn g.ctx ((s.warp g.warp).pair 2 0).toNat = none) ∧
    Met (.rte ⟨hd, .end_, 2⟩) (heldProbe.modWarp me.warp (fun w => { w with whz := 9 })) (fun s g => s.taking g hd ≠ [] ∧
      ((s.warp g.warp).slice g.gang.slice).relDone = false ∧ s.relReady g.warp .device = false) :=
  ⟨⟨free_of (by decide), by decide⟩, ⟨free_of (by decide), by decide⟩, ⟨free_of (by decide), by decide⟩⟩
theorem wit_rte_next : aHeld.code ≠ .regangCycle ∧ aHeld.len ≠ 0 ∧ ∀ i, i < 9 → ((heldProbe.warp other).slice i).atRegang = false := by decide
/-- RTE.NEXT (R216): the held gang goes on behind its instruction. -/
theorem test_rte_next : ∃ t, exec (.rte ⟨hd, .next, 2⟩) heldProbe = .next t ∧ (t.warp other).held = none ∧
    ((t.warp other).slices.map (·.pc)) = [0x1008, 0x1008, 0x1008, 0x1008, 0x1000, 0x1000, 0x1000, 0x1000] := ⟨_, rfl, by decide⟩
theorem wit_cacheop : Met (.cacheop ⟨hd, .l1, 4, 0⟩) memProbe (fun s g => s.taking g hd = 0 :: (List.range 32).tail ∧ s.unapplied g.warp = false ∧ s.loadsOut g.warp = false ∧ (s.warp g.warp).rg 0 0 = 0) ∧
    Met (.cacheop ⟨hd, .l1, 4, 0⟩) sentProbe (fun s g => s.taking g hd ≠ [] ∧ s.unapplied g.warp = true) ∧
    Met (.cacheop ⟨hd, .l2flush, 4, 6⟩) memProbe (fun s g => s.taking g hd = 0 :: (List.range 32).tail ∧ s.unapplied g.warp = false ∧ s.loadsOut g.warp = false ∧ (s.warp g.warp).rg 6 0 ≠ 0 ∧
      okAnd (s.cacheLines g.warp (cachePages ((s.warp g.warp).pair 4 0).toNat ((s.warp g.warp).rg 6 0).toNat)) (fun l => l = [(placeCode + 0x100) / 64]) = true) :=
  ⟨⟨free_of (by decide), by decide⟩, ⟨free_of (by decide), by decide⟩, ⟨free_of (by decide), by decide⟩⟩
theorem wit_tlbop : Met (.tlbop ⟨hd, .va, 4, 0⟩) memProbe (fun s g => s.taking g hd = 0 :: (List.range 32).tail ∧ ((s.warp g.warp).rg 0 0).toNat < 64 ∧
      s.accessOut false ((s.warp g.warp).rg 0 0).toNat = false) ∧
    Met (.tlbop ⟨hd, .va, 4, 0⟩) sentProbe (fun s g => s.taking g hd = 0 :: (List.range 32).tail ∧ ((s.warp g.warp).rg 0 0).toNat < 64 ∧
      s.accessOut false ((s.warp g.warp).rg 0 0).toNat = true) ∧
    Met (.tlbop ⟨hd, .ctx, 4, 6⟩) memProbe (fun s g => s.taking g hd = 0 :: (List.range 32).tail ∧ 64 ≤ ((s.warp g.warp).rg 6 0).toNat) ∧
    Met (.tlbop ⟨hd, .resolve, 4, 0⟩) memProbe (fun s g => s.taking g hd = 0 :: (List.range 32).tail ∧ ((s.warp g.warp).rg 0 0).toNat < 64) :=
  ⟨⟨free_of (by decide), by decide⟩, ⟨free_of (by decide), by decide⟩, ⟨free_of (by decide), by decide⟩, ⟨free_of (by decide), by decide⟩⟩

/-- A descriptor at 0x1400 that keeps Table 17.7; v12 = 5, a context that is not there; v14 = 0x1400. -/
def descBytes : List Byte := nbytes 8 0x200000 ++ nbytes 8 0 ++ nbytes 8 0 ++ nbytes 8 0 ++ nbytes 8 0 ++ nbytes 4 0 ++ nbytes 4 1 ++ nbytes 8 0x10000 ++ nbytes 8 0
def ctxProbe : State := withRegs (withData probe 0x400 descBytes) [(12, 5), (14, 0x1400)]
theorem wit_create : Met (.ctxop ⟨hd, .create, 2, 14, 12⟩) ctxProbe (fun s g => s.taking g hd = 0 :: (List.range 32).tail ∧ (aget s.warps g.warp).isSome = true ∧
      ((s.warp g.warp).rg 12 0).toNat < 64 ∧ s.hasCtx ((s.warp g.warp).rg 12 0).toNat = false ∧ ((s.warp g.warp).pair 14 0).toNat % 64 = 0 ∧
      s.unapplied g.warp = false ∧ s.loadsOut g.warp = false ∧ okAnd (s.recordRead g.warp ((s.warp g.warp).pair 14 0).toNat 64) (fun b => (descOf b).isSome) = true) ∧
    Met (.ctxop ⟨hd, .create, 2, 14, 0⟩) ctxProbe (fun s g => s.hasCtx ((s.warp g.warp).rg 0 0).toNat = true) ∧
    Met (.ctxop ⟨hd, .abort, 2, 14, 12⟩) ctxProbe (fun s g => s.hasCtx ((s.warp g.warp).rg 12 0).toNat = false) :=
  ⟨⟨free_of (by decide), by decide⟩, ⟨free_of (by decide), by decide⟩, ⟨free_of (by decide), by decide⟩⟩
theorem wit_kill_op : Met (.ctxop ⟨hd, .kill, 2, 14, 0⟩) ctxProbe fun s g => s.taking g hd = 0 :: (List.range 32).tail ∧ ((s.warp g.warp).rg 0 0).toNat < 63 ∧
    s.hasCtx ((s.warp g.warp).rg 0 0).toNat = true := ⟨free_of (by decide), by decide⟩
/-- Context 5 with a fired launch 2 whose one crew runs on core 1. -/
def firedProbe : State :=
  { (ctxProbe.createCtx 5 ((descOf descBytes).getD {})) with
    launches := ctxProbe.launches ++ [((5, 2), { packet := { placePacket with warps := 1 }, stage := .admitted, fired := true, placed := 1 })],
    crews := ctxProbe.crews ++ [(⟨5, 2, 0⟩, { seat := .on 1 })] }
def firedIn (r : Nat) : State := withRegs firedProbe [(16, r)]
/-- The same launch, not fired, with its crew stopped in place. -/
def parkedProbe : State := ((firedIn 2).modLaunch 5 2 (fun l => { l with fired := false })).modCrew ⟨5, 2, 0⟩ (fun c => { c with seat := .stopped 1 })
theorem wit_parked : Met (.ctxop ⟨hd, .resume, 2, 16, 12⟩) parkedProbe fun s g => ((s.warp g.warp).rg 12 0).toNat = 5 ∧ s.hasCtx 5 = true ∧ s.killing 5 = false ∧
    ((s.warp g.warp).pair 16 0).toNat % 2 ^ 32 = 2 ∧ s.admitted 5 2 = true ∧ (s.launch 5 2).fired = false ∧ (s.crewsOf 5 2).any (fun p => p.2.parked) = true :=
  ⟨free_of (by decide), by decide⟩
theorem wit_preempt : Met (.ctxop ⟨hd, .preempt, 2, 16, 12⟩) (firedIn 2) (fun s g => ((s.warp g.warp).rg 12 0).toNat < 64 ∧ s.hasCtx ((s.warp g.warp).rg 12 0).toNat = true ∧
      s.killing ((s.warp g.warp).rg 12 0).toNat = false ∧ s.admitted ((s.warp g.warp).rg 12 0).toNat (((s.warp g.warp).pair 16 0).toNat % 2 ^ 32) = true ∧
      s.runningCrews ((s.warp g.warp).rg 12 0).toNat (((s.warp g.warp).pair 16 0).toNat % 2 ^ 32) = [⟨5, 2, 0⟩] ∧ ((⟨5, 2, 0⟩ : CrewKey).ctx ≠ g.ctx)) ∧
    Met (.ctxop ⟨hd, .resume, 2, 16, 12⟩) (firedIn 3) (fun s g => s.killing ((s.warp g.warp).rg 12 0).toNat = false ∧
      s.admitted ((s.warp g.warp).rg 12 0).toNat (((s.warp g.warp).pair 16 0).toNat % 2 ^ 32) = false) ∧
    Met (.ctxop ⟨hd, .resume, 2, 16, 12⟩) (firedIn 2) (fun s g => (s.launch ((s.warp g.warp).rg 12 0).toNat (((s.warp g.warp).pair 16 0).toNat % 2 ^ 32)).fired = true) ∧
    Met (.ctxop ⟨hd, .abort, 2, 16, 12⟩) (firedIn 2) (fun s g => ((s.warp g.warp).rg 12 0).toNat ≠ g.ctx ∧
      (aget (s.abortLaunch ((s.warp g.warp).rg 12 0).toNat (((s.warp g.warp).pair 16 0).toNat % 2 ^ 32)).warps g.warp).isSome = true) :=
  ⟨⟨free_of (by decide), by decide⟩, ⟨free_of (by decide), by decide⟩, ⟨free_of (by decide), by decide⟩, ⟨free_of (by decide), by decide⟩⟩
/-- The aborted launch is not over at once, and the warp that resumes a launch stays. -/
def heldLaunch : State := { firedIn 2 with teller := [(4, { lostTeller with ctx := 5, launch := 2 })] }
theorem wit_abort_waits : Met (.ctxop ⟨hd, .abort, 2, 16, 12⟩) heldLaunch fun s g => s.killing 5 = false ∧ s.admitted 5 2 = true ∧ (s.launch 5 2).fired = true ∧
    (aget (s.abortLaunch 5 2).launches (5, 2)).isSome = true ∧ (aget (s.resumeLaunch 5 2).warps g.warp).isSome = true := ⟨free_of (by decide), by decide⟩
theorem wit_uaten2 : probe.cur ≠ none ∧ probe.cur = some me ∧ ((decodeU2 0x0803020A038D0080#64).toOption).isSome = true ∧
    ((decodeU2 0x00000000000000FF#64).toOption).isSome = false := by decide

/-- Two ready warps of a quarter: one in the loom, one in the creel; and eight in the loom that are ready. -/
def creelWarp : Warp := { slices := List.replicate 8 { pc := 0x1000 }, age := (1, 0, 1), readyAt := some 0 }
def swapProbe : State := probe.setWarp other creelWarp
theorem wit_swap : (swapProbe.loom 0 0).length < 8 ∧ swapProbe.swapPick 0 0 = some other ∧ probe.swapPick 0 0 = none ∧ swapProbe.issuePick 0 0 = some me.warp := by decide
def fullLoom : State :=
  (List.range 7).foldl (fun s i => s.setWarp ⟨placeCrew, i + 2⟩ { creelWarp with place := .loom (i + 5) }) { swapProbe with time := 256000 }
theorem wit_rotation : 8 ≤ (fullLoom.loom 0 0).length ∧ (∃ k ∈ fullLoom.creelReady 0 0, fullLoom.longReady k = true) ∧ (∀ k ∈ swapProbe.creelReady 0 0, swapProbe.longReady k = false) ∧
    me.warp ∈ fullLoom.loom 0 0 ∧ fullLoom.ready me.warp = true ∧ fullLoom.swapPick 0 0 = some other ∧ (fullLoom.warp me.warp).place = .loom 0 ∧
    ∀ x ∈ fullLoom.loom 0 0, fullLoom.ready x = true → x ≠ me.warp → (fullLoom.warp x).place ≠ .loom 0 ∧ (fullLoom.warp x).place.inLoom = true := by decide

/-- A queued launch, one whose crew waits for a core, and one whose crew has been saved. -/
def launchOf (p : Packet) (st : Stage) (n : Nat) : Launch := { packet := p, stage := st, placed := n }
def queueProbe (x : Launch) : State := { probe with launches := [((0, 0), x)], crews := [], warps := [] }
def okLaunch (a : Admit) : Bool := match a with | .ok _ => true | _ => false
def failLaunch (a : Admit) : Option Nat := match a with | .fail e _ => some e | _ => none
def waitLaunch (a : Admit) : Bool := match a with | .wait _ => true | _ => false
/-- A SIBLING group that must wait for a Teller entry: a checked launch. -/
def fullTellers : State :=
  { queueProbe { (launchOf placePacket .checked 0) with groups := [{ sibling := true, members := [0] }] } with teller := (List.range 1024).map (fun i => (i, aTeller)) }
theorem wit_admission_waits : waitLaunch (fullTellers.tryAdmit 0 0) = true ∧ (fullTellers.launch 0 0).stage = .checked ∧
    fullTellers.launchEligible ((0, 0), fullTellers.launch 0 0) = true := by decide
theorem wit_admission : (queueProbe (launchOf placePacket .queued 0)).launchEligible ((0, 0), launchOf placePacket .queued 0) = true ∧
    okLaunch ((queueProbe (launchOf placePacket .queued 0)).tryAdmit 0 0) = true ∧
    failLaunch ((queueProbe (launchOf { placePacket with localBytes := 16 } .queued 0)).tryAdmit 0 0) = some 5 ∧
    (queueProbe (launchOf placePacket .admitted 1)).launchEligible ((0, 0), launchOf placePacket .admitted 1) = false := by decide
theorem wit_placement : (queueProbe (launchOf placePacket .admitted 0)).ranked.filter (queueProbe (launchOf placePacket .admitted 0)).placing =
      [((0, 0), launchOf placePacket .admitted 0)] ∧ (queueProbe (launchOf placePacket .admitted 0)).returnsFirst 0 = false ∧
    ((queueProbe (launchOf placePacket .admitted 0)).placeUnit 0 0).isSome = true ∧ aget (queueProbe (launchOf placePacket .admitted 0)).crews placeCrew = none ∧
    (queueProbe (launchOf placePacket .admitted 0)).crewCancelled placeCrew = false ∧ 0 < ((queueProbe (launchOf placePacket .admitted 0)).packetOf placeCrew).warps := by decide
def savedProbe : State := { queueProbe { (launchOf placePacket .admitted 1) with resume := [0] } with crews := [(placeCrew, { seat := .saved 0 0x20000 })] }
theorem wit_return : (savedProbe.returnUnit 0 0).isSome = true ∧ (savedProbe.ranked.filter savedProbe.placing).length = 1 ∧ savedProbe.higherUnit 0 = false ∧
    aget savedProbe.crews placeCrew = some { seat := .saved 0 0x20000 } ∧ 0 < (savedProbe.packetOf placeCrew).warps := by decide

/-! Witnesses: pre-emption, the watchdog, reports, kills, the Shuttle, the Clipper, reset, registers, the host. -/

/-- The crew's core is full, and a launch of priority 5 waits. -/
def fullPacket : Packet := { placePacket with warps := 8, tiles := 24 }
def priorProbe : State :=
  { (probe.modLaunch 0 0 (fun l => { l with packet := { fullPacket with dieMask := 1 } })) with
    launches := [((0, 0), { packet := fullPacket, stage := .admitted, placed := 1 }), ((0, 1), { packet := { fullPacket with priority := 5, crewCount := 128 }, stage := .admitted, placed := 127 })],
    crews := (List.range 32).map (fun i => (⟨0, 0, i⟩, { seat := .on i })) }
def withWindow (s : State) : State := s.modCtx 0 (fun c => { c with desc := { c.desc with saveSize := 256, saveBase := 0x10000000 } })
theorem wit_victims : (((withWindow priorProbe).without []).nextFits 0 1) = false ∧ ((withWindow priorProbe).without []).victims 0 1 = some [⟨0, 0, 1⟩] := by decide

/-- The crew's warp has stopped for a request; the save window has room for its record, or has none. -/
def stopProbe (n : Nat) (byPrio : Bool) : State :=
  (((probe.modWarp me.warp (fun w => w.modSlices 0xFF (fun x => { x with stop := some 0x3 }))).modCrew placeCrew (fun c =>
    { c with preempt := some ⟨0, 20000, false, true, byPrio⟩ }))).modCtx 0 (fun c => { c with desc := { c.desc with saveSize := n } })
theorem wit_save : (stopProbe 256 false).unitOfCrew placeCrew = [placeCrew] ∧ (stopProbe 256 false).killing 0 = false ∧ (stopProbe 256 false).crewIdle placeCrew = true ∧
    (stopProbe 256 false).saveSpots [] [placeCrew] = some [(placeCrew, 0)] ∧ (stopProbe 0 false).saveSpots [] [placeCrew] = none ∧
    ((stopProbe 0 true).crew placeCrew).preempt = some ⟨0, 20000, false, true, true⟩ ∧ probe.crewIdle placeCrew = false := by decide
theorem wit_forced : (0 : Nat) + 20000 ≤ ({ stopProbe 0 false with time := 20000 } : State).time ∧ ((stopProbe 0 false).crew placeCrew).running = true ∧ (stopProbe 0 false).time < 0 + 20000 := by decide

def firingProbe : State := probe.modLaunch 0 0 (fun l => { l with timer := 100000000, due := some 7 })
theorem wit_watchdog : (aget firingProbe.launches (0, 0)).isSome = true ∧ (firingProbe.launch 0 0).stage = .admitted ∧ (firingProbe.launch 0 0).fired = false ∧
    (aget firingProbe.launches (0, 0)).bind (·.due) = some 7 ∧ firingProbe.killing 0 = false ∧ (probe.launch 0 0).due = none ∧
    firingProbe.undelivered 0 false = true ∧ (probe.launch 0 0).timer < (probe.launch 0 0).limit := by decide
/-- A report that waits; the ring is on the data page, or at an unmapped address. -/
def ringProbe (a : Nat) : State :=
  { (probe.modCtx 0 (fun c => { c with desc := { c.desc with eventArea := 0x1000, faultRing := a, faultEvent := 0x20 } })) with faultQ := [{ id := 6, code := .watchdog, kind := .l, ctx := 0, entered := true }] }
def ringAt (s : State) : Except Bad (Nat × State) := s.unitStore (unitOf 0 false (((s.ctx 0).desc.faultRing + 128 * ((s.ctx 0).nextSeq % 256)) % 2 ^ 64)) none
  (((s.ctx 0).desc.faultRing + 128 * ((s.ctx 0).nextSeq % 256)) % 2 ^ 64) (reportBytes { id := 6, code := .watchdog, kind := .l, ctx := 0, entered := true } (s.ctx 0).nextSeq)
theorem wit_report : (ringProbe 0x1800).firstReport 0 = some { id := 6, code := .watchdog, kind := .l, ctx := 0, entered := true } ∧ (ringProbe 0x1800).hasCtx 0 = true ∧
    (ringProbe 0x1800).killing 0 = false ∧ (ringProbe 0x1800).reportRoom 0 = true ∧
    okAnd (ringAt (ringProbe 0x1800)) (fun _ => true) = true ∧ okAnd (ringAt (ringProbe 0x8000)) (fun _ => true) = false := by decide
/-- A report that has not entered its die's queue, and a queue of 4,096. -/
theorem wit_report_waits : ({ ringProbe 0x1800 with faultQ := [{ id := 6, code := .watchdog, kind := .l, ctx := 0 }] } : State).firstReport 0 =
      some { id := 6, code := .watchdog, kind := .l, ctx := 0 } ∧
    4096 ≤ (List.filter (fun x : Report => x.die = 0 && x.entered) (List.replicate 4096 { id := 6, code := .watchdog, kind := .l, ctx := 0, entered := true })).length := by
  rw [List.filter_replicate]
  refine ⟨by decide, ?_⟩
  simp
def dyingProbe : State := probe.modCtx 0 (fun c => { c with kill := some ⟨none, []⟩ })
theorem wit_kill_done : (dyingProbe.ctx 0).kill = some ⟨none, []⟩ ∧ dyingProbe.hasCtx 0 = true ∧ dyingProbe.drainedCtx 0 = true ∧ ({ probe with msgs := [msgOf (.ack 5)] } : State).drainedCtx 0 = false := by decide

/-- A request of each kind on its way; the copies read the data page. -/
def reqOf (op : ReqOp) (sink : Sink) : Req := { id := 5, ctx := 0, warp := some me.warp, user := false, core := 0, engine := 0, op := op, sink := sink }
def reqProbe (op : ReqOp) (sink : Sink) : State := { spoolProbe 0 with reqs := [reqOf op sink] }
def endOk (r : ReqEnd) : Bool := match r with | .ok (.ends _, _) => true | _ => false
def waitOk (r : ReqEnd) : Bool := match r with | .ok (.waits, _) => true | _ => false
theorem wit_cpa_step : (reqProbe (.cpa 0x40 16 12 0x1100) (.batch 0)).req? 5 = some (reqOf (.cpa 0x40 16 12 0x1100) (.batch 0)) ∧
    (reqProbe (.cpa 0x40 16 12 0x1100) (.batch 0)).inFlight (reqOf (.cpa 0x40 16 12 0x1100) (.batch 0)) = true ∧
    endOk ((reqProbe (.dcopyPage 0x2000 0x1000 (0, 0)) .none).cpa (reqOf (.cpa 0x40 16 12 0x1100) (.batch 0)) 0x40 16 12 0x1100) = true ∧
    okAnd ((reqProbe (.dcopyPage 0x2000 0x1000 (0, 0)) .none).takeRead (reqOf (.dcopyPage 0x2000 0x1000 (0, 0)) .none).master 0x1100 12 true) (fun b => b.1.length = 12 && (aget b.2.crews me.warp.crew).isSome) = true ∧ (aget (reqProbe (.dcopyPage 0x2000 0x1000 (0, 0)) .none).crews me.warp.crew).isSome = true ∧
    okAnd ((reqProbe (.dcopyPage 0x2000 0x1000 (0, 0)) .none).cpa (reqOf (.dcopyPage 0x2000 0x1000 (0, 0)) .none) 0x40 16 12 0x8000) (fun _ => true) = false := by decide

/-- A tensor of 4 by 2 words at 0x1100 with row stride 64, its image in the scratchpad. -/
def aTensor : Tensor := { base := 0x1100, dim := [4, 2], box := [4, 2], rank := 2, esize := 2, swz := 1, stride := [64] }
theorem wit_tcopy_step : endOk ((reqProbe (.dcopyPage 0 0 (0, 0)) .none).tcopy (reqOf (.tcopy aTensor .scr false 0x80 [0, 0]) .none) aTensor .scr false 0x80 [0, 0]) = true ∧
    endOk ((reqProbe (.dcopyPage 0 0 (0, 0)) .none).tcopy (reqOf (.tcopy aTensor .scr true 0x80 [0, 0]) .none) aTensor .scr true 0x80 [0, 0]) = true := by decide
theorem wit_engine_faults : okAnd ((reqProbe (.dcopyPage 0 0 (0, 0)) .none).dcopyPage (reqOf (.dcopyPage 0x1000 0x1000 (0, 0)) .none) 0x1000 0x1000 (0, 0)) (fun _ => true) = false ∧
    okAnd ((reqProbe (.dcopyPage 0 0 (0, 0)) .none).pgmove (reqOf (.pgmove 0x8000 0 1) .none) 0x8000 0 1) (fun _ => true) = false ∧
    okAnd ((reqProbe (.dcopyPage 0 0 (0, 0)) .none).dcopyKv (reqOf (.dcopyKv 0 0x8000 0 0x1000 (0, 0)) .none) 0 0x8000 0 0x1000 (0, 0)) (fun _ => true) = false := by decide
/-- A page moves to the tier that it is in, and waits where a word is staged. -/
theorem wit_pgmove_step : endOk (kvProbe.pgmove (reqOf (.pgmove 0x1400 0 0) .none) 0x1400 0 0) = true ∧
    okAnd ((withData kvProbe 0x808 (nbytes 8 (2 ^ 46 + 0x420))).pgmove (reqOf (.pgmove 0x1400 0 1) .none) 0x1400 0 1) (fun x => decide (x.1 = .waits)) = true := by decide
def redProbe : State := reqProbe (.tcred aTensor .scr .u32 .add 0x80 [0, 0]) .none
def redElems : List (Nat × List Byte) := (List.range aTensor.elems).filterMap (fun e => (aTensor.addr [0, 0] e).map (fun a => (a, redProbe.imageElem placeCrew aTensor .scr 0x80 e)))
theorem wit_tcred_step : redElems.map (·.1) = [0x1100, 0x1104, 0x1108, 0x110C, 0x1140, 0x1144, 0x1148, 0x114C] ∧
    redElems.map (·.1) = (List.range aTensor.elems).filterMap (fun e => aTensor.addr [0, 0] e) ∧
    okAnd (redProbe.redPlaces (reqOf (.dcopyPage 0 0 (0, 0)) .none).master .u32 .add (redElems.map (·.1))) (fun _ => true) = true ∧
    okAnd (redProbe.unshareP (reqOf (.dcopyPage 0 0 (0, 0)) .none).master (.req 5) (redElems.map (·.1))) (fun x => x.1 && (x.2.redApply (reqOf (.dcopyPage 0 0 (0, 0)) .none).master .u32 .add 4 redElems).2.isNone) = true ∧
    okAnd (redProbe.redPlaces (reqOf (.dcopyPage 0 0 (0, 0)) .none).master .u32 .add [0x1100, 0x8000]) (fun _ => true) = false := by decide
def doneReq : Req := { reqOf (.cpa 0 4 4 0x1100) (.slot 2 0) with st := .done 4 { wct := 9 } }
/-- A peer that does not answer: a request is tried again until 10,000,000 ticks have passed. -/
def deafProbe (t : Nat) : State := { reqProbe (.cpa 0x40 16 12 0x1100) .none with peers := [(0, .silent)], time := t }
theorem wit_unheard : region 0x10000000000000 = .peer 0 ∧ (deafProbe 5).peerSilent 0x10000000000000 = true ∧ (deafProbe 5).time < (some 0 : Option Nat).getD 5 + 10000000 ∧
    (some 0 : Option Nat).getD 10000000 + 10000000 ≤ (deafProbe 10000000).time ∧ (badAt .uncorrectable 0x10000000000000).code = .uncorrectable := by decide
theorem wit_delivery : State.req? { reqProbe (.dcopyPage 0 0 (0, 0)) .none with reqs := [doneReq] } 5 = some doneReq ∧
    (reqProbe (.dcopyPage 0 0 (0, 0)) .none).spool? me.warp.crew 2 = some (aSpool 0) ∧ 0 < (aSpool 0).arrived.length := by decide
theorem test_delivery : ∃ t, exec (.spoolDelivery 5) { reqProbe (.dcopyPage 0 0 (0, 0)) .none with reqs := [doneReq] } = .next t ∧
    (t.spool? placeCrew 2).map (·.arrived) = some [4, 0] ∧ t.reqs = [] := ⟨_, rfl, by decide⟩
theorem test_batch_ends : ∃ t, exec (.copyBatchComplete me.warp 0) (probe.modWarp me.warp (fun w => { w with batches := [⟨0, true, 0, none, false, false⟩, ⟨1, true, 2, none, false, false⟩] })) = .next t ∧
    (t.warp me.warp).batches.map (·.n) = [1] := ⟨_, rfl, by decide⟩
/-- Tier 0's pool with units 5 and up free, or off. -/
def poolProbe (on : Bool) : State :=
  { (probe.modScr (fun r => { r with poolBmp := [0x400000, 0, 0], poolEn := [on, false, false] })) with poolQ := [⟨.req 5, 0, 0, 2, none⟩], mem := ssetList (n := 8) probe.mem 0x400000 [0xE0] }
theorem wit_pool : (poolProbe true).poolQ.find? (fun a => a.tier = 0 && a.got.isNone) = some ⟨.req 5, 0, 0, 2, none⟩ ∧ ((poolProbe true).poolRun 0 2).isSome = true ∧
    (poolProbe false).poolRun 0 2 = none := by decide

/-! The Clipper. -/

/-- The record of kvProbe has one full page, which a sweep with THRESH_BF16 above its mass stages, or passes. -/
def sweepOf (th : Nat) (l : List Nat) : Sweep := { list := l, decay := 4, thBf16 := th, thE4m3 := 0, thE2m3 := 0, cold := 0, ms := [(0x1400, 0, 3)], user := false, launch := 0, crew := 0 }
def sweepProbe (th : Nat) (l : List Nat) : State := kvProbe.modCtx 0 (fun c => { c with sweep := some (sweepOf th l) })
theorem wit_eligible : okAnd ((sweepProbe 9 [0x1400]).readKsr (unitOf 0 false 0x1400) 0x1400) (fun k =>
    okAnd ((sweepProbe 9 [0x1400]).readPte (unitOf 0 false 0x1400) (k.pteVa 0)) (fun p => (sweepProbe 9 [0x1400]).eligible 0 k 0 p && fwFormat p.cur = 0)) = true := by decide
theorem wit_sweep_passes : ((sweepProbe 0 [0x1400]).ctx 0).sweep = some (sweepOf 0 [0x1400]) ∧ (sweepProbe 0 [0x1400]).staging = [] ∧
    okAnd ((sweepProbe 0 [0x1400]).readKsr (unitOf 0 false 0x1400) 0x1400) (fun k =>
      okAnd ((sweepProbe 0 [0x1400]).sweepNext (unitOf 0 false 0x1400) (sweepOf 0 [0x1400]) k (k.pages - 0) 0) (fun x => x.2.isNone)) = true := by decide
theorem wit_stage : okAnd ((sweepProbe 9 [0x1400]).readKsr (unitOf 0 false 0x1400) 0x1400) (fun k =>
      okAnd ((sweepProbe 9 [0x1400]).sweepNext (unitOf 0 false 0x1400) (sweepOf 9 [0x1400]) k (k.pages - 0) 0) (fun x => match x with
        | (n, some (p, cold)) => n = 0 && !cold && !p.retained
        | _ => false)) = true := by decide
/-- The engine that stages the page has a full queue of 256. -/
theorem wit_stage_waits : let s : State := sweepProbe 9 [0x1400]
    okAnd (s.readKsr (unitOf 0 false 0x1400) 0x1400) (fun k => okAnd (s.sweepNext (unitOf 0 false 0x1400) (sweepOf 9 [0x1400]) k (k.pages - 0) 0) (fun x => match x with
      | (n, some (p, _)) => !s.engineFull (s.stageEngine (unitOf 0 false 0x1400) k n p) 1 &&
          State.engineFull { s with reqs := (List.range 256).map (fun i => { reqOf (.dcopyPage 0 0 (0, 0)) .none with id := i, engine := s.stageEngine (unitOf 0 false 0x1400) k n p }) }
            (s.stageEngine (unitOf 0 false 0x1400) k n p) 1
      | _ => false)) = true := by decide
theorem wit_clipper_idle : (kvProbe.ctx 0).sweep = none ∧ (sweepOf 9 []).list = [] ∧ kvProbe.demreqs = [] ∧ 0x1400 ∉ (kvProbe.ctx 0).sweepList ∧
    State.demreqs { kvProbe with demreqs := [⟨0, 2, 0x1400, 0, false, 0, 0⟩] } = [⟨0, 2, 0x1400, 0, false, 0, 0⟩] ∧
    okAnd (State.demServe { kvProbe with demreqs := [⟨0, 2, 0x1400, 0, false, 0, 0⟩] } (clipMaster 2 0 false) ⟨0, 2, 0x1400, 0, false, 0, 0⟩) (fun t => t.demreqs = []) = true := by decide

/-! Reset, power, control registers. -/

def aBoot (f : Option Nat) : BootImage :=
  { (default : BootImage) with failStage := f, fabricId := 7, descriptor := descBytes, packet := packetBytes }
/-- An image that the key of the fused hash has signed, and one whose signature has a byte more. -/
def signedBoot : BootImage :=
  { aBoot none with fuses := { keyHash := Config.shake256 (Config.falconPublic 0) }, signer := 0, fwHash := 0, fwSig := Config.falconSign 0 (nbytes 64 0) }
def unsignedBoot : BootImage := { signedBoot with fwSig := 0 :: signedBoot.fwSig }
theorem wit_signed : fwSigned signedBoot = true ∧ signedBoot.failStage = none ∧ fwSigned unsignedBoot = false ∧ unsignedBoot.failStage = none ∧
    fwSigned { signedBoot with failStage := some 6 } = true := by
  simp [fwSigned, unsignedBoot, signedBoot, aBoot]
theorem wit_boot : (aBoot (some 4)).failStage = some 4 ∧ (descOf signedBoot.descriptor).isSome = true ∧
    (bootPacket signedBoot.packet).refusal true true = none ∧ descOf [] = none := by decide
theorem wit_power : probe.scr.limitW < 2401 ∧ 100 * 2000 < 95 * probe.scr.limitW ∧ 95 * probe.scr.limitW ≤ 100 * 2400 ∧ 2400 ≤ probe.scr.limitW ∧ 1000 < probe.clockMHz ∧
    probe.scr.duty = 0 ∧ ¬ ({ probe with clockMHz := 1000 } : State).clockMHz > 1000 := by decide
/-- A store to a control register that arrives: LEASE_DEFAULT with a value below its range. -/
def scrProbe (o : Nat) : State := { msgProbe (.scr o 4 5) with subject := 9 }
theorem wit_scr_write : (scrProbe 0x60000).scrMsg = some (0x60000, 5) ∧ ownRow 0x60000 = false ∧ inAcctab 0x81008 = true ∧ aget probe.acchalf (14, 0) = none ∧
    probe.poolAddOk 7 0 0 = false := by decide
/-- A second write of the warp to the register waits for the first. -/
theorem wit_scr_behind : let s : State := { probe with msgs := [⟨8, 0, 0, 0, some me.warp, 0, .scr 0x60000 4 5⟩, ⟨9, 0, 0, 0, some me.warp, 0, .scr 0x60000 4 7⟩], nextId := 10 }
    ({ s with subject := 9 } : State).scrMsg = some (0x60000, 7) ∧ ({ s with subject := 9 } : State).scrBehind 0x60000 = true ∧
    ({ s with subject := 8 } : State).scrBehind 0x60000 = false ∧ probe.scr.poolEn.length = 3 ∧ 0 < probe.scr.prfCnt.length := by decide
theorem test_scr_held : ∃ t, exec .scrWrite (scrProbe 0x60000) = .next t ∧ t.scrRead 0x60000 = 128 ∧ t.msgs.map (·.k) = [.ack 0] := ⟨_, rfl, by decide⟩

/-! The host. -/

/-- An open session, with a command at the head of lane 3. -/
def aCmd (op ctx arg dev host len : Nat) : Cmd := { op := op, ctx := ctx, tag := 5, arg := BitVec.ofNat 32 arg, dev := BitVec.ofNat 64 dev, host := BitVec.ofNat 64 host, len := len, rsv0 := 0, ivc := 0, gtag := 0, rsv1 := 0, ide := some 1 }
/-- An access-table entry that lets every master read and write everything. -/
def allOpen : BitVec 128 := BitVec.ofNat 128 (2 ^ 117 - 2 ^ 76 + 2 ^ 63 + 0xFF)
def hostProbe (c : Cmd) : State := { evProbe with acctab := aset evProbe.acctab (13, 0) allOpen, session := some { spdm := 1, ring := 0x10000, size := 128, sealed_ := false }, lanes := [[], [], [], [c], [], [], [], []], subject := 3 }
theorem serves_of {row : Instr} {s : State} {c : Cmd} (h : (decide (cmdRow c = row) && decide (s.servedLane = some s.subject) &&
    decide (s.laneCmds s.subject = [c]) && s.session.isSome && !c.isOpen && decide (s.cmdRefused c = none)) = true) :
    cmdRow c = row ∧ s.servedLane = some s.subject ∧ (∃ cs, s.laneCmds s.subject = c :: cs) ∧ s.session.isSome = true ∧ c.isOpen = false ∧ s.cmdRefused c = none := by
  simp only [Bool.and_eq_true, Bool.not_eq_true', decide_eq_true_eq] at h
  exact ⟨h.1.1.1.1.1, h.1.1.1.1.2, ⟨_, h.1.1.1.2⟩, h.1.1.2, h.1.2, h.2⟩
theorem wit_mailbox : Serves .mbxLaunch (hostProbe (aCmd 1 0 0 0 0x40 64)) (aCmd 1 0 0 0 0x40 64) ∧ Serves .mbxWrite (hostProbe (aCmd 2 0 0 0x1500 0x40 12)) (aCmd 2 0 0 0x1500 0x40 12) ∧
    Serves .mbxRead (hostProbe (aCmd 3 0 0 0x1500 0x40 12)) (aCmd 3 0 0 0x1500 0x40 12) ∧ Serves .mbxEvsigAdd (hostProbe (aCmd 4 0 0x20 1 0 0)) (aCmd 4 0 0x20 1 0 0) ∧
    Serves .mbxEvsigSet (hostProbe (aCmd 4 0 0x10020 1 0 0)) (aCmd 4 0 0x10020 1 0 0) ∧ Serves .mbxKill (hostProbe (aCmd 5 0 0 0 0 0)) (aCmd 5 0 0 0 0 0) ∧
    Serves .mbxQueryRegister (hostProbe (aCmd 6 0 0 0x70008 0 0)) (aCmd 6 0 0 0x70008 0 0) ∧ Serves .mbxQueryContext (hostProbe (aCmd 6 9 1 0 0 0)) (aCmd 6 9 1 0 0 0) :=
  ⟨serves_of (by decide), serves_of (by decide), serves_of (by decide), serves_of (by decide), serves_of (by decide), serves_of (by decide), serves_of (by decide), serves_of (by decide)⟩
def openOf (s : State) (c : Cmd) : Bool := match s.openData 3 c [] with | some (d, _) => d = [] | none => false
theorem wit_mailbox_data : openOf (hostProbe (aCmd 2 0 0 0x1500 0x40 12)) (aCmd 2 0 0 0x1500 0x40 12) = true ∧
    okAnd ((hostProbe (aCmd 2 0 0 0x1500 0x40 12)).engineWrite (mbxUnit 0) (.mbx 3) 0x1500 (List.replicate 12 1)) (fun x => x.1.isSome) = true ∧
    okAnd ((hostProbe (aCmd 3 0 0 0x1500 0x40 12)).unitRead (mbxUnit 0) 0x1500 12 false) (fun _ => true) = true ∧
    okAnd ((hostProbe (aCmd 3 0 0 0x8000 0x40 12)).unitRead (mbxUnit 0) 0x8000 12 false) (fun _ => true) = false ∧
    (hostProbe (aCmd 4 0 0x20 1 0 0)).laneWct.getD 3 0 ≤ (hostProbe (aCmd 4 0 0x20 1 0 0)).time ∧
    okAnd ((hostProbe (aCmd 4 0 0x20 1 0 0)).evUpdate 0 0x20 false 1) (fun _ => true) = true := by decide
/-- The access table of the host lets the mailbox read and write 64 bytes at host address 0x40, or does not. -/
theorem wit_host_allows : (hostProbe (aCmd 3 0 0 0x1500 0x40 12)).hostAllows 0x40 64 true false = true ∧ (hostProbe (aCmd 3 0 0 0x1500 0x40 12)).hostAllows 0x40 12 false true = true ∧
    ({ hostProbe (aCmd 2 0 0 0x1500 0x40 12) with acctab := [] } : State).hostAllows 0x40 12 true false = false ∧
    okAnd ((hostProbe (aCmd 3 0 0 0x1500 0x40 12)).takeRead (mbxUnit 0) 0x1500 12 false) (fun x => match x.2.session with | some y => !y.sealed_ | none => false) = true ∧
    okAnd ((hostProbe (aCmd 7 0 2 0x1500 0 64)).takeRead (mbxUnit 0) 0x1500 64 false) (fun _ => true) = true ∧
    (hostProbe (aCmd 4 0 0x20 1 0 0)).noEvents 0 = false := by decide
theorem wit_mailbox_refused : (hostProbe (aCmd 2 9 0 0x1500 0x40 12)).cmdRefused (aCmd 2 9 0 0x1500 0x40 12) = some 2 ∧ (aCmd 2 9 0 0x1500 0x40 12).isOpen = false ∧
    (hostProbe (aCmd 2 9 0 0x1500 0x40 12)).servedLane = some 3 := by decide
/-- A 64-byte write to lane 2's doorbell, in a state with a session. -/
def laneProbe (o : Nat) : State := { hostProbe (aCmd 2 0 0 0x1500 0x40 12) with subject := o, input := List.replicate 64 1 }
theorem wit_lane_write : (laneProbe 0x2000).phase = .running ∧ (laneProbe 0x2000).input.length = 64 ∧ (laneProbe 0x2000).subject % 2 ^ 40 = 0x1000 * 2 ∧
    (laneProbe 0x2000).scr.mbxCtl.getLsbD 2 = true ∧ ((laneProbe 0x2000).laneCmds 2).length < 32 ∧ (laneProbe 0x2000).lanes.length = 8 ∧ (laneProbe 0x2008).subject % 2 ^ 40 % 0x1000 ≠ 0 := by decide
/-- OPEN over IDE from the SPDM session, with no session; and one whose ring is not 4 KiB aligned. -/
def openProbe (c : Cmd) : State := { hostProbe c with session := none, spdm := { session := some 1, ide := some 1 } }
theorem wit_open : (openProbe (aCmd 7 0 0 1 0x1000 128)).laneCmds 3 = [aCmd 7 0 0 1 0x1000 128] ∧ cmdRow (aCmd 7 0 0 1 0x1000 128) = .sessionOpen ∧ (aCmd 7 0 0 1 0x1000 128).isOpen = true ∧
    (openProbe (aCmd 7 0 0 1 0x1000 128)).servedLane = some 3 ∧ (aCmd 7 0 0 1 0x1000 128).malformed false = false ∧ (openProbe (aCmd 7 0 0 1 0x1000 128)).spdm.session = some ((aCmd 7 0 0 1 0x1000 128).dev.setWidth 32) ∧
    (aCmd 7 0 0 1 0x1040 128).malformed false = true ∧ ({ aCmd 7 0 0 1 0x1000 128 with ide := none } : Cmd).malformed false = false := by decide
theorem wit_session : Serves .sessionClose (hostProbe (aCmd 7 0 1 0 0 0)) (aCmd 7 0 1 0 0 0) ∧ Serves .sessionMeasure (hostProbe (aCmd 7 0 2 0x1500 0 64)) (aCmd 7 0 2 0x1500 0 64) ∧
    okAnd ((hostProbe (aCmd 7 0 2 0x1500 0 64)).unitRead (mbxUnit 0) 0x1500 64 false) (fun _ => true) = true ∧ (hostProbe (aCmd 7 0 1 0 0 0)).otherCtxs ≠ [] ∧
    (hostProbe (aCmd 7 0 1 0 0 0)).pump.compQ = [] ∧ (openProbe (aCmd 7 0 0 1 0x1000 128)).spdm.session.isSome = true :=
  ⟨serves_of (by decide), serves_of (by decide), by decide⟩
/-- A ring of 128 records that the host has not read: a record waits. -/
def fullRing : State := { hostProbe (aCmd 7 0 1 0 0 0) with session := some { spdm := 1, ring := 0x10000, size := 128, sealed_ := false, next := 128 }, compQ := [⟨1, 2, 0, 0, 0, 0, 0⟩] }
theorem wit_ring_full : 128 ≤ (128 : Nat) ∧ fullRing.rdNat (hostBase + 0x10000 + 32 * 128) 8 + 128 ≤ 128 ∧ fullRing.pump.compQ ≠ [] := by decide

/-! The machine as a whole. -/

theorem wit_encode : Instr.wf (.iadd ⟨hd, .s32, true, 1, 2, 3⟩) = true ∧ 24 % 32 + 4 * (encode (.iadd ⟨hd, .s32, true, 1, 2, 3⟩)).length ≤ 32 := by decide
theorem wit_decoded : decode 8 (nbytes 4 0x00000F80 ++ nbytes 4 0x28020105) = .ok (.icmp ⟨hd, 2, true, 5, 1, 2⟩, 8) := by decide
/-- The state in which ICMP v5, v1, v2 stands where the next step fetches meets all that a step's statement asks. -/
def fetchProbe : State := State.reset.withFetchWord 64 (wordsNat [0x00000F80, 0x28020105])
def fetched : State := (State.elapse { fetchProbe with agenda := [] } 0).passOver 0 0 me.warp
def fetchOk (r : Except FetchBad (Instr × Nat × Bool)) (p : Instr × Nat × Bool → Bool) : Bool := match r with | .ok x => p x | .error _ => false
theorem wit_step : fetchProbe.phase = .running ∧ fetchProbe.agenda = .issue 0 0 0 :: [] ∧
    (State.elapse { fetchProbe with agenda := [] } 0).issuePick 0 0 = some me.warp ∧ (State.elapse { fetchProbe with agenda := [] } 0).gangPick me.warp = some 0 ∧
    fetchOk (fetched.fetch me.warp ((fetched.warp me.warp).slice 0).pc.toNat) (fun x => x.1 = .icmp ⟨hd, 2, true, 5, 1, 2⟩ && x.2.1 = 8 &&
      (fetched.blockers me.warp (plainOf x.1)).isEmpty) = true ∧ (fetched.crew placeCrew).preempt = none ∧ (fetched.warp me.warp).acq = false ∧
    (fetched.warp me.warp).flushWait = false ∧ ((fetched.warp me.warp).slice 0).tried = false := by decide
theorem wit_fetch_faults : 0x1002 % 4 ≠ 0 ∧ fetchOk (fetched.fetch me.warp 0x8000) (fun _ => true) = false ∧
    fetched.icache = [] ∧
    okAnd (fetched.codeAt 0 0 0x1000 false) (fun t => !fetched.isBad t.pa 1 && !fetched.peerSilent t.pa) = true ∧ okAnd (fetched.codeAt 0 0 0x8000 false) (fun _ => true) = false ∧
    okAnd (fetched.walk 0 0 0x1000) (fun t => decide (region t.pa = .tier 0)) = true := by decide
theorem wit_memory : Memory.wf State.reset.mem = true ∧ Memory.wf fetchProbe.mem = true ∧ Memory.wf kvProbe.mem = true := by decide
/-- After reset, and with a program placed, there is a next step. -/
theorem wit_step_next : (∃ t, step fetchProbe = .next t) ∧ ∃ t, step State.reset = .next t :=
  ⟨⟨_, rfl⟩, ⟨_, rfl⟩⟩
theorem wit_no_power : ({ State.reset with phase := .off } : State).phase = .off ∧ ({ State.reset with phase := .off } : State).agenda = [] := by decide

/-! Witnesses of clauses beside those above. -/

/-- Checks before the instruction's own: an operand in error of a gang that is not held; LDS beyond the scratchpad in lane 0. -/
def rangeOffs : State := one (withRegs probe [(6, 0xFFFFFF00)])
theorem wit_operand_first : (errProbe.warp me.warp).held = none ∧ ((errProbe.warp me.warp).slice me.gang.slice).wait = .none ∧
    Instr.regTop (.iadd ⟨hd, .u32, false, 9, 8, 8⟩) ≤ 8 * (errProbe.packetOf me.crewK).vregsDiv8 ∧
    errProbe.badLanes me (.iadd ⟨hd, .u32, false, 9, 8, 8⟩) = 3 :: [] ∧ 0 ∈ rangeOffs.taking me lane0 ∧
    okAnd (rangeOffs.scratchLane me.crewK false (offsetOf 6 0 rangeOffs me.warp 0) 8) (fun _ => true) = false := by decide
/-- Slices that wait for each other at different pcs (02.5 R34): none is released. -/
def cycleProbe : State :=
  probe.modWarp me.warp (fun w => w.modSlices 0xFF (fun x => { x with wait := .regang 0xFF 8 }) |>.modSlices 1 (fun x => { x with pc := 0x2000 }))
theorem wit_regang_cycle : (cycleProbe.warp me.warp).held = none ∧ cycleProbe.writesOut me.warp = false ∧ cycleProbe.loadsOut me.warp = false ∧
    ((cycleProbe.warp me.warp).slice 0).exited = false ∧ (∀ x ∈ (cycleProbe.warp me.warp).slices, x.exited = false → x.atRegang = true) ∧
    (cycleProbe.warp me.warp).regangFree = [] ∧ cycleProbe.undelivered 0 (cycleProbe.privOf me.warp) = true ∧
    (cycleProbe.modCtx 0 (fun c => { c with desc := { c.desc with faultRing := 0x1000 } })).undelivered 0 false = false := by decide
/-- An early load of an expired line, with room for an entry, with an entry, and with 16 of the warp's. -/
def staleProbe (es : List ClrEntry) : State := { memProbe with l1 := [lineOf 100], time := 200, clearing := es }
def early : Mem := ⟨lane0, .b32, none, 2, 4⟩
def staleAt (s : State) (g : Cur) : Bool :=
  let pl := the (accessOf (globalAddr 4 0 4) .read 4 s g.warp 0)
  decide (s.taking g lane0 = [0]) && decide (accessOf (globalAddr 4 0 4) .read 4 s g.warp 0 = .ok [pl]) && readyFor s g .lde pl &&
    decide (pl.sp = .device) && decide (pl.tr.lease ≠ 2) && decide (pl.p.byte = 0) && decide (pl.p.size = 4) &&
    decide (s.l1Line (s.coreOf g.warp) (pl.pa / 64) = some (lineOf 100)) && !s.serves g.warp (lineOf 100) && decide (pl.pa / 64 = (placeCode + 0x100) / 64)
theorem wit_early_stale : Met (.lde early) (staleProbe []) (fun s g => staleAt s g = true ∧ s.clearing = [] ∧ s.tableFull (s.coreOf g.warp) = false) ∧
    Met (.lde early) (staleProbe [⟨1, me.warp, (placeCode + 0x100) / 64, 1, .pending⟩]) (fun s g => staleAt s g = true ∧
      ∃ e ∈ s.clearing, e.warp = g.warp ∧ e.line = (placeCode + 0x100) / 64) ∧
    Met (.lde early) (staleProbe ((List.range 16).map (fun i => ⟨i, me.warp, i, 1, .pending⟩))) (fun s g => staleAt s g = true ∧
      (s.clearing.all (fun e => e.line ≠ (placeCode + 0x100) / 64)) = true ∧ (s.clearing.filter (fun e => e.warp = g.warp)).length = 16) :=
  ⟨⟨free_of (by decide), by decide⟩, ⟨free_of (by decide), by decide⟩, ⟨free_of (by decide), by decide⟩⟩
/-- 09.4: the Stale bytes are there at once, with an entry. -/
theorem test_early_stale : ∃ t, exec (.lde early) (staleProbe []) = .next t ∧ t.clearing.map (fun e => (e.line, e.ver)) = [((placeCode + 0x100) / 64, 1)] ∧
    (t.pends.getD 0 default).writes.getD 0 (0, 0, 0) = (2, 0, 0x77665544) := ⟨_, rfl, by decide⟩
/-- A window register asked for at another width, and an element of a range at 2 bytes. -/
theorem wit_odd_size : canonical 0x1100 = true ∧ okAnd (winProbe.walk (winProbe.coreOf me.warp) 0 0x1100) (fun t => spaceOf t == .window &&
      decide (t.pa - winBase = 0x100)) = true ∧ scrAt 0x100 = none ∧ scrAt 0x60002 = some (0x60000, 4) ∧
    okAnd (rangeProbe.walk 0 0 0x1100) (fun t => match spaceOf t with | .range _ => true | _ => false) = true ∧
    rangeProbe.oddAt me.warp .read 2 ⟨0x1100, 2, 0⟩ = true ∧ rangeProbe.oddAt me.warp .read 4 ⟨0x1100, 4, 0⟩ = false := by decide
/-- REDC behind a store of its warp to the line. -/
theorem wit_redc_waits : Met (.redc ⟨lane0, 4, 6⟩) { rangeProbe with msgs := [storeOut], nextId := 10 } fun s g =>
    s.lineBusy g.warp ((place1 (s.redcPlace g.warp (globalVa 4 0 s g.warp 0))).pa / 64) = true ∧ 0 ∈ s.taking g lane0 := ⟨free_of (by decide), by decide⟩
theorem wit_peer_ports : ({ portProbe with acctab := aset portProbe.acctab (16, 0) (BitVec.ofNat 128 (2 ^ 117 - 2 ^ 76 + 2 ^ 63 + 0xFF)) } : State).tableAllows (14 + 2) 0x403100 3 false true = true ∧
    portProbe.tableAllows (14 + 2) 0x403100 3 false true = false ∧ region (2 ^ 40 + 0x1000) ≠ .tier 0 := by decide
/-- What reads memory at issue behind a load of its warp that has not answered. -/
def loadOut (s : State) : State := { s with pends := [{ id := 7, warp := me.warp, regs := [3], left := 1, load := true }] }
theorem wit_ordered_waits : Met (.tcopy ⟨lane0, .scr, false, 0, 2, 1, 2, 4, 0, 0, 0, 0, 0⟩) (loadOut tensorProbe) (fun s g =>
      s.taking g lane0 ≠ [] ∧ s.slotOk g.crewK 2 1 = true ∧ s.unapplied g.warp = false ∧ s.loadsOut g.warp = true) ∧
    Met (.tcred ⟨lane0, .u32, .add, .scr, 0, 2, 1, 2, 4, 0, 0, 0, 0, 0⟩) (loadOut tensorProbe) (fun s g =>
      s.taking g lane0 ≠ [] ∧ s.slotOk g.crewK 2 1 = true ∧ s.unapplied g.warp = false ∧ s.loadsOut g.warp = true) ∧
    Met (.accld ⟨hd, 3, true, 127, 0, 6⟩) (loadOut memProbe) (fun s g => s.taking g hd ≠ [] ∧ s.unapplied g.warp = false ∧ s.loadsOut g.warp = true) ∧
    Met (.accld ⟨hd, 3, true, 127, 0, 6⟩) sentProbe (fun s g => s.taking g hd ≠ [] ∧ s.unapplied g.warp = true) ∧
    Met (.kvpin ⟨hd, 10, 0⟩) (loadOut kvProbe) (fun s g => s.taking g hd = 0 :: (List.range 32).tail ∧ s.unapplied g.warp = false ∧ s.loadsOut g.warp = true) :=
  ⟨⟨free_of (by decide), by decide⟩, ⟨free_of (by decide), by decide⟩, ⟨free_of (by decide), by decide⟩, ⟨free_of (by decide), by decide⟩,
    ⟨free_of (by decide), by decide⟩⟩
/-- A slot's bytes that its requests wrote where L1 holds a line: it serves the crew no more. -/
theorem wit_acquire : ∃ l ∈ (hitProbe.acquire me.warp { puts := [(placeCode + 0x110, 4)] }).l1, l.core = hitProbe.coreOf me.warp ∧
    placeCode + 0x110 < 64 * l.line + 64 ∧ 64 * l.line < placeCode + 0x114 ∧ hitProbe.serves me.warp (lineOf 100) = true := by decide
/-- ACCST of a protected page while 16 requests stand before it at its engine. -/
theorem wit_accst_turn : Met (.accst ⟨hd, 3, false, 0, 0, 4⟩)
    { sealedProbe with reqs := (List.range 16).map (fun i => { reqOf (.dcopyPage 0 0 (0, 0)) .none with id := i }) } fun s g =>
    s.imageCheck g.warp ⟨hd, 3, false, 0, 0, 4⟩ true (accAddr (s.warp g.warp) ⟨hd, 3, false, 0, 0, 4⟩ 0) = .ok () ∧
    (accstPages s g ⟨hd, 3, false, 0, 0, 4⟩ 0).map (·.1) = [0x1100] ∧ (accstPages s g ⟨hd, 3, false, 0, 0, 4⟩ 0).all (fun p => p.2.1.prot) = true ∧
    s.msgs = [] ∧ s.poolQ = [] ∧ s.engineFull (engineOf (s.coreOf g.warp)) 1 = false ∧ s.engineBusy (engineOf (s.coreOf g.warp)) = true ∧
    sealedProbe.engineBusy (engineOf (s.coreOf g.warp)) = false := ⟨free_of (by decide), by decide⟩
/-- Tiles that the launch does not have, an image that is out of its bounds, and words in error. -/
theorem wit_product_faults : Met (.mma ⟨hd, .acc, .e2m1, .e2m1, 0, 0, true, 24, 2, 8, 9⟩) probe (fun s g => (s.packetOf g.crewK).tiles ≤ 24 ∧ s.taking g hd = 0 :: (List.range 32).tail) ∧
    Met (.mmab ⟨hd, .scr, .e2m1, .e2m1, 0, 0, true, 0, 24, 8, 9⟩) probe (fun s g => (s.packetOf g.crewK).tiles ≤ 24 ∧ s.taking g hd = 0 :: (List.range 32).tail) ∧
    Met (.mma ⟨hd, .scr, .e2m1, .e2m1, 0, 0, true, 0, 2, 8, 9⟩) (withRegs probe [(8, 8)]) (fun s g =>
      okAnd (s.mmaCheck g.crewK ⟨hd, .scr, .e2m1, .e2m1, 0, 0, true, 0, 2, 8, 9⟩ ((s.warp g.warp).rg 8 0).toNat ((s.warp g.warp).rg 9 0).toNat 128 256) (fun _ => true) = false) ∧
    Met (.accmov ⟨hd, .tt, 2, 24, 0⟩) probe (fun s g => s.taking g hd ≠ [] ∧ (s.packetOf g.crewK).tiles ≤ 24) ∧
    Met (.accscl ⟨hd, 24, 3, 252⟩) probe (fun s g => s.taking g hd ≠ [] ∧ (s.packetOf g.crewK).tiles ≤ 24) ∧
    badTile.tileBad placeCrew 2 0 32768 = true :=
  ⟨⟨free_of (by decide), by decide⟩, ⟨free_of (by decide), by decide⟩, ⟨free_of (by decide), by decide⟩, ⟨free_of (by decide), by decide⟩,
    ⟨free_of (by decide), by decide⟩, by decide⟩
/-- Two states of different records; and two that fit, row 0 of the second holding m = -infinity. -/
theorem wit_smmerge_states : Met (.smmerge ⟨hd, 1, 2, 3, 5⟩) finProbe (fun s g => (∀ x ∈ [1, 2, 3, 5], s.tileOk g.crewK x = true) ∧
      ([1, 2, 3, 5] : List (BitVec 5)).Nodup ∧ (s.attnHead g.crewK 2).ksr ≠ (s.attnHead g.crewK 5).ksr) ∧
    Met (.smmerge ⟨hd, 1, 2, 3, 4⟩) (finProbe.modCrew me.crewK (fun c => { c with tiles := sset c.tiles (32768 * 4) 0xFF800000 })) (fun s g =>
      f32 (s.st g.crewK 4 0 0) = negInf ∧ 0 < (s.attnHead g.crewK 2).nr ∧ 0 < (s.attnHead g.crewK 4).ns ∧ s.stateBad g.crewK 3 4 = false) :=
  ⟨⟨free_of (by decide), by decide⟩, ⟨free_of (by decide), by decide⟩⟩
/-- Three pages that compete for two places: 0 and 2 score alike, 1 more (R154). -/
def rankList : List (Nat × Summary) := [(0, ⟨[], zeroX, true⟩), (1, ⟨[zeroX], zeroX, true⟩), (2, ⟨[], zeroX, true⟩)]
theorem test_chosen : chosen { (default : Ksr) with pages := 3 } 2 (fun y => if y.c.isEmpty then zeroX else f32 0x3F800000) rankList = [0, 1] ∧
    (rankList.map (·.1)).Nodup := by decide

/-! Barriers. -/

/-- The probe's crew of one warp that has arrived at barrier 3, or at group barrier 0. -/
def crewDone : State := (waitProbe (.cbar 3 8)).modCrew placeCrew (fun c => { c with bars := c.bars.set 3 ⟨5, [me.warp]⟩ })
def groupDone : State := (waitProbe (.gbar 0 8)).modLaunch 0 0 (fun l => { l with groups := [{ sibling := false, members := [0], bar := ⟨5, [me.warp]⟩ }] })
theorem wit_crew_done : (crewDone.crew placeCrew).bars.length = 8 ∧ (crewDone.crew placeCrew).bars.getD 3 ⟨0, []⟩ = ⟨5, [me.warp]⟩ ∧
    crewDone.warpsOf placeCrew = [me.warp] ∧ crewDone.writesOut me.warp = false ∧ crewDone.loadsOut me.warp = false ∧
    (∀ m, m < 8 → m ≠ 3 → ((crewDone.crew placeCrew).bars.getD m ⟨0, []⟩).arrived = []) ∧ (aget crewDone.warps me.warp).isSome = true ∧
    ∀ i, i < 8 → ((crewDone.warp me.warp).slice i).gang = 0 ∧ ((crewDone.warp me.warp).slice i).exited = false ∧
      ((crewDone.warp me.warp).slice i).wait = .cbar 3 8 := by decide
theorem test_crew_bars : ((crewDone.crewBars placeCrew).crew placeCrew).bars.getD 3 ⟨0, []⟩ = ⟨6, []⟩ ∧
    (((crewDone.crewBars placeCrew).warp me.warp).slice 7).pc = 0x1008 ∧ (waitProbe (.cbar 3 8)).crewBars placeCrew = waitProbe (.cbar 3 8) := by decide
theorem wit_group_done : (aget groupDone.launches (0, 0)).isSome = true ∧
    (groupDone.launch 0 0).groups[0]? = some { sibling := false, members := [0], bar := ⟨5, [me.warp]⟩ } ∧ (groupDone.launch 0 0).groups.length = 1 ∧
    groupDone.warpsOf ⟨0, 0, 0⟩ = [me.warp] ∧ groupDone.relReady me.warp .device = true ∧ groupDone.loadsOut me.warp = false ∧
    (aget groupDone.warps me.warp).isSome = true ∧ ∀ i, i < 8 → ((groupDone.warp me.warp).slice i).gang = 0 ∧
      ((groupDone.warp me.warp).slice i).exited = false ∧ ((groupDone.warp me.warp).slice i).wait = .gbar 0 8 := by decide
theorem test_group_bars : ((groupDone.groupBars 0 0).launch 0 0).groups.map (·.bar) = [⟨6, []⟩] ∧
    (((groupDone.groupBars 0 0).warp me.warp).slice 0).pc = 0x1008 ∧ (waitProbe (.gbar 0 8)).groupBars 0 0 = waitProbe (.gbar 0 8) := by decide
theorem wit_gbar_pending : Met (.gbar ⟨hd, 0⟩) (probe.modWarp me.warp (fun w => { w with pending := true })) (fun s g => s.taking g hd ≠ [] ∧
    (s.warp g.warp).pending = true) := ⟨free_of (by decide), by decide⟩

/-! Events. -/

/-- TASKPUT on an event that holds a task. -/
theorem wit_taskput_held : Met (.taskput ⟨hd, .imm 0x20, 3, 4⟩) (withData evProbe 0x20F [0x80]) fun s g => s.taking g hd = 0 :: (List.range 32).tail ∧
    s.noEvents g.ctx = false ∧ ((s.warp g.warp).slice g.gang.slice).relDone = false ∧ s.relReady g.warp .device = true ∧ (s.ctx g.ctx).desc.taskArea ≠ 0 ∧
    s.evSent g.warp 0x20 = false ∧ okAnd ((s.relDo g.warp .device).evRead g.ctx 0x20) (fun v => v.task.getLsbD 63) = true := ⟨free_of (by decide), by decide⟩
/-- An event without an entry, held in memory: an update stores it. -/
theorem wit_event_memory : evProbe.evEntry 0 0x20 = none ∧ evProbe.evOver = [] ∧ okAnd (evProbe.evRead 0 0x20) (fun v => !v.task.getLsbD 63 &&
    okAnd (evProbe.unitStore (evUnit 0 0x20) none (evProbe.evVa 0 0x20) (v.update false 1).bytes) (fun _ => true)) = true := by decide
/-- A ready task whose class has room, or a full queue. -/
def taskVal : EvVal := ⟨0, 1, 1, BitVec.ofNat 64 (2 ^ 63 + 0x55)⟩
def fullTasks : State := evProbe.setTaskQ 0 0 { evProbe.taskQ 0 0 with count := 4096 }
theorem wit_task_ready : taskVal.task.getLsbD 63 = true ∧ taskVal.count.toInt ≤ 0 ∧ taskVal.taskClass = 0 ∧ (evProbe.taskQ 0 0).count < 4096 ∧
    okAnd (evProbe.unitStore ⟨128, 0, false, 1⟩ none (evProbe.taskVa 0 0 0) (nbytes 8 0x55)) (fun _ => true) = true ∧
    4096 ≤ (fullTasks.taskQ 0 0).count ∧ (fullTasks.ctx 0).tasks.length = 16 := by decide
/-- An EVWAIT with recorded numbers that still stand, and one whose event has moved on. -/
theorem wit_evwait_seq : let s := entryProbe (.evwait 0x20 true 0 (some (5, 6)))
    s.msg? 9 = some (msgOf (.evwait 0x20 true 0 (some (5, 6)))) ∧ okAnd ((s.dropMsg 9).evRead 0 0x20) (fun v => !v.holds true && v.zseq.toNat = 5 && v.zseq.toNat ≠ 4) = true := by decide
theorem wit_event_room : (((entryProbe (.evwait 0x20 true 0 none)).evEntries).filter (fun e => e.name % 4 = 0x20 % 4)).length < 1024 := by decide

/-! Launches, system. -/

/-- LAUNCH by two lanes: two packets, two ids. -/
theorem wit_launch_two : Met (.launch ⟨hd, 2, 8, 10⟩) launchProbe fun s g =>
    ((s.taking g hd).map (fun l => (l, packetBytes))).map (·.1) = s.taking g hd ∧ s.unapplied g.warp = false ∧ s.loadsOut g.warp = false ∧
    (s.taking g hd).all (fun l => ((s.warp g.warp).pair 8 l).toNat % 64 = 0 && ((s.warp g.warp).pair 10 l).toNat % 4 = 0 &&
      decide (((s.warp g.warp).pair 8 l).toNat = 0x1400)) = true ∧ okAnd ((s.relDo g.warp .device).recordRead g.warp 0x1400 64) (fun b => b = packetBytes) = true :=
  ⟨free_of (by decide), by decide⟩
theorem test_launch_two : (launchAll 0 true (fun _ => 0x1500) [(0, packetBytes), (1, packetBytes)] launchProbe).1 = [(0, 0, 0), (1, 0, 1)] := by decide

/-! Records, field by field. -/

/-- A record with a window of one page and a sink: the commit of its 65th token moves first_live_page past the sink. -/
def sinkProbe : State := withData (withData (withData kvProbe 0x418 (nbytes 4 65)) 0x41E [1]) 0x420 (nbytes 4 1)
theorem wit_commit_fields : okAnd (appProbe.readKsr (appProbe.kvMaster me.warp) 0x1400) (fun k => k.flags / 2 % 2 = 0 && k.firstAt (k.length + 0) = k.first) = true ∧
    endsKv (appProbe.kvcommit me 0x1400 0) none = true ∧ okAnd (appProbe.unitAt (appProbe.kvMaster me.warp) 0x1414 .write) (fun _ => true) = true ∧
    okAnd (sinkProbe.readKsr (sinkProbe.kvMaster me.warp) 0x1400) (fun k => k.flags / 2 % 2 = 0 && k.firstAt (k.length + 1) = 1 && k.first = 0 && k.isSink 0 &&
      okAnd ((sinkProbe.sawKsr (sinkProbe.kvMaster me.warp) k []).putField (sinkProbe.kvMaster me.warp) (some (sinkProbe.coreOf me.warp)) 0x1414 (k.length + 1))
        (fun v => okAnd (v.unitAt (sinkProbe.kvMaster me.warp) 0x1424 .write) (fun _ => true))) = true ∧
    endsKv (sinkProbe.kvcommit me 0x1400 1) none = true := by decide
theorem wit_roll_fields : okAnd (appProbe.readKsr (appProbe.kvMaster me.warp) 0x1400) (fun k => (k.tent - 1) / 64 ≤ (k.length - 1) / 64 && k.length = 8 && k.pages = 2 &&
      okAnd ((appProbe.sawKsr (appProbe.kvMaster me.warp) k (List.range 2)).putField (appProbe.kvMaster me.warp) (some (appProbe.coreOf me.warp)) 0x1418 8)
        (fun v => (List.range 2).all (fun pg => okAnd (v.readPte (appProbe.kvMaster me.warp) (k.pteVa pg)) (fun p => !p.evicted)))) = true ∧
    endsKv (appProbe.kvroll me 0x1400) none = true := by decide
/-- What KVAPP's witness stores: the frame's two blocks and the count. -/
theorem wit_append_fields : (8 + 1 - 1) / 64 = 8 / 64 ∧ fwValid appPte.cur = true ∧ appState.needsRun appPte = false ∧ appState.dir.on = false ∧ appState.poolQ = [] ∧
    appKsr.tent = 8 ∧ appKsr.window = 0 ∧ okAnd ((afterOne (afterOne appSaw (4096 * 0x410) partK) (4096 * 0x412) partV).unitAt appU 0x1418 .write) (fun _ => true) = true := by
  decide +kernel
theorem test_append_fields : okAnd (appProbe.appendFrame 0 64 default (some 0x420)) (fun x => fwFrame x.2.cur = 0x420 && fwValid x.2.cur && x.2.flags = 0) = true := by decide
/-- The list of a KVSTEP, read as its lane's loads of 8 bytes. -/
theorem wit_step_list : okAnd (kvProbe.ldby8 me.warp (0x1800 + 8 * 0)) (fun _ => true) = true ∧ kvProbe.stepPeer (kvProbe.kvMaster me.warp) [0x1400] = none ∧
    (kvProbe.ctx 0).sweepList = [] := by decide

/-! Saves, reports, pools, the Clipper, registers, the host, fetching. -/

/-- The record of a stopped crew, 80 lines of it, can be written, and where its window is no memory it cannot. -/
def smallStop : State := (stopProbe 256 false).modLaunch 0 0 (fun l => { l with packet := { l.packet with vregsDiv8 := 1, carve := 0, tiles := 0 } })
theorem wit_record_place : smallStop.recordBad placeCrew 0 false true = none ∧ smallStop.saveSpots [] [placeCrew] = some [(placeCrew, 0)] ∧
    ((smallStop.modCtx 0 (fun c => { c with desc := { c.desc with saveBase := 2 ^ 46 } })).recordBad placeCrew 0 false true).isSome = true := by decide +kernel
/-- An access of the fault writer to a silent peer, tried for the first time, and after 10,000,000 ticks. -/
theorem wit_later : let b := badAt .uncorrectable 0x10000000000000
    b.busy = false ∧ (deafProbe 5).peerSilent b.addr = true ∧ ((deafProbe 5).later (.ring 0) b).isSome = true ∧
    (State.later { deafProbe 10000005 with unheard := [(.ring 0, 5)] } (.ring 0) b).isNone = true ∧ (bad .kvFormat).code ≠ .uncorrectable := by decide
theorem wit_watchdog_pass : (probe.launch 0 0).due = none ∧ (probe.launch 0 0).timer < (probe.launch 0 0).limit ∧
    ({ probe.launch 0 0 with timer := (probe.launch 0 0).limit } : Launch).due = none := by decide
/-- The pool's arrays: readable, and with an error in the bitmap. -/
theorem wit_pool_arrays : (poolProbe true).bmpBad 0 = none ∧ (poolProbe true).poolRun 0 2 = some 5 ∧ (poolProbe true).takeBad 0 5 2 = none ∧
    (State.bmpBad { poolProbe true with badLines := [0x400000 / 64] } 0).isSome = true ∧ ((poolProbe true).scr.poolEn.getD 0 false) = true ∧
    (poolProbe true).poolAddOk 0 0 0 = false ∧ (poolProbe true).rawBad ((poolProbe true).refAddr 0 0) 0 true true = none := by decide +kernel
/-- The engine that stages the page has 16 requests before it. -/
theorem wit_stage_turn : let s : State := sweepProbe 9 [0x1400]
    okAnd (s.readKsr (unitOf 0 false 0x1400) 0x1400) (fun k => okAnd (s.sweepNext (unitOf 0 false 0x1400) (sweepOf 9 [0x1400]) k (k.pages - 0) 0) (fun x => match x with
      | (n, some (p, _)) => !s.engineBusy (s.stageEngine (unitOf 0 false 0x1400) k n p) &&
          State.engineBusy { s with reqs := (List.range 16).map (fun i => { reqOf (.dcopyPage 0 0 (0, 0)) .none with id := i, engine := s.stageEngine (unitOf 0 false 0x1400) k n p }) }
            (s.stageEngine (unitOf 0 false 0x1400) k n p)
      | _ => false)) = true := by decide
/-- A READ in a sealed session. -/
theorem wit_read_sealed : let s : State := { hostProbe (aCmd 3 0 0 0x1500 0x40 12) with session := some { spdm := 1, ring := 0x10000, size := 128, sealed_ := true } }
    okAnd (s.takeRead (mbxUnit 0) 0x1500 12 false) (fun x => match x.2.session with | some y => y.sealed_ | none => false) = true ∧
    Serves .mbxRead s (aCmd 3 0 0 0x1500 0x40 12) ∧ s.hostAllows 0x40 12 false true = true :=
  ⟨by decide, serves_of (by decide), by decide⟩
/-- An instruction block that the cache holds for the place the pc translates to. -/
def cachedFetch : State := { fetched with icache := [⟨0, 0, 0x1000 / 32, placeCode / 32, 0, false, false⟩] }
theorem wit_fetch_hit : okAnd (cachedFetch.codeAt 0 0 0x1000 false) (fun t =>
    (cachedFetch.icache.find? (fun b => b.core = cachedFetch.coreOf me.warp && b.ctx = me.warp.crew.ctx && b.block = 0x1000 / 32 && b.pa = t.pa / 32)).isSome) = true := by decide
/-- A leaf of a 64 KiB page covers each address of it (R192, R360). -/
theorem test_tlb_covers : (⟨0, 0, 3, lvlTag 3 0x12345000, 1 <<< 6 ||| 1⟩ : TlbEntry).covers 0x12340000 = true ∧
    (⟨0, 0, 3, lvlTag 3 0x12345000, 1⟩ : TlbEntry).covers 0x12340000 = false := by decide

/-- The record with page 0 as E2M1 in tier 0, one block of zeros beside its entry, and its scale pair at 0x1C00. -/
def closeBase : State := withData (withData kvProbe 0x428 (nbytes 8 0x1C00)) 0x800 (nbytes 8 (fwMake 0 false false 3 0 0x410).toNat)
def closeProbe : State := { closeBase with mem := closeBase.mem ++ sealCells 0x410000 }
def closeU : Master := closeProbe.kvMaster me.warp
def got {α : Type} [Inhabited α] (r : Except Bad α) : α := match r with | .ok x => x | .error _ => default
theorem got_of {α : Type} [Inhabited α] {r : Except Bad α} (h : okAnd r (fun _ => true) = true) : r = .ok (got r) := by
  cases r with
  | ok x => rfl
  | error b => cases h
def closeKsr : Ksr := got (closeProbe.readKsr closeU 0x1400)
def closePte : Pte := got (closeProbe.kvPage closeU closeKsr 0)
def closeScales : List Byte := got (closeProbe.unitRead closeU 0x1C00 256 true)
theorem close_reads : closeProbe.readKsr closeU 0x1400 = .ok closeKsr ∧ closeKsr.addr = 0x1400 ∧ closeKsr.dim = 64 ∧ closeKsr.scale = 0x1C00 ∧
    closeProbe.kvPage closeU closeKsr 0 = .ok closePte ∧ closePte.curScale = 0 ∧
    fwValid closePte.cur = true ∧ fwTier closePte.cur = 0 ∧ fwFormat closePte.cur = 3 ∧ fwFrame closePte.cur = 0x410 ∧ closePte.readers ≠ 0xFFFF := by decide +kernel
/-- The block of zeros. -/
def zeros : List Byte := List.replicate 4096 0
theorem close_low : ∀ p ∈ closeBase.mem, p.1 < 0x410000 := by
  have h : closeBase.mem.all (fun p => decide (p.1 < 0x410000)) = true := by decide +kernel
  exact fun p hp => by simpa using List.all_eq_true.mp h p hp
theorem close_zero : closeProbe.rdN 0x410000 4096 = zeros := by
  refine sgetList_zero _ _ _ (fun p hp => ?_)
  have := seal_places
  rcases List.mem_append.mp hp with hp | hp
  · exact .inl (close_low p hp)
  · have := sealCells_key hp; omega
theorem close_entry : closeProbe.rdN (sealAddr 0x410000) 16 = entryOf (zeros) := by
  have e : closeProbe.mem = closeBase.mem ++ (sealCells 0x410000 ++ []) := by simp [closeProbe]
  unfold State.rdN
  rw [e]
  exact sgetList_seal _ _ _ _ (entryOf_length _) (fun p hp => by have := close_low p hp; have := seal_places; omega)
theorem close_block : closeProbe.checkBlock 0 0x410000 = none :=
  State.checkBlock_of (b := 0x410000) (d := zeros) (by decide) (by decide +kernel) (by decide +kernel)
    ((by decide +kernel : sideAddr closeProbe 0x410000 = sealAddr 0x410000) ▸ close_entry) close_zero _ (by decide)
theorem readRun_one {s : State} {ctx tier frame pa : Nat} {z : List Byte} (hp : framePa tier frame = pa) (b : s.physOk pa 1 true false false = true)
    (c : (s.isBad pa 4096 || s.peerSilent pa) = false) (d : s.peerBusy pa = false) (e : s.checkBlock ctx pa = none) (h : s.rdN pa 4096 = z) :
    s.readRun ctx tier frame 1 = .ok z := by
  simp [State.readRun, hp, b, c, d, e, h, bind, Except.bind, pure, Except.pure]
theorem close_run : closeProbe.readRun closeU.ctx (fwTier closePte.cur) (fwFrame closePte.cur) (frameUnits (fwFormat closePte.cur) closeKsr.dim) = .ok zeros := by
  obtain ⟨-, -, h1, -, -, -, -, h4, h5, h6, -⟩ := close_reads
  have f : closeU.ctx = 0 := by decide +kernel
  have g : frameUnits 3 64 = 1 := by decide
  rw [h1, h4, h5, h6, f, g]
  exact readRun_one (by decide) (by decide +kernel) (by decide +kernel) (by decide +kernel) close_block close_zero
theorem loadPage_of {s : State} {u : Master} {k : Ksr} {p : Pte} {sc z : List Byte} (f : 2 ≤ fwFormat p.cur) (i : scaleBad k.dim p.curScale = false)
    (a : s.unitRead u (k.scale + p.curScale) (4 * k.dim) true = .ok sc)
    (r : s.readRun u.ctx (fwTier p.cur) (fwFrame p.cur) (frameUnits (fwFormat p.cur) k.dim) = .ok z) :
    s.loadPage u k p = .ok ⟨fwFormat p.cur, k.dim, z, sc⟩ := by
  simp [State.loadPage, f, i, a, r, bind, Except.bind, pure, Except.pure]
theorem close_page : closeProbe.loadPage closeU closeKsr closePte = .ok ⟨fwFormat closePte.cur, closeKsr.dim, zeros, closeScales⟩ := by
  obtain ⟨-, -, h1, h2, -, h3, -, -, h5, -, -⟩ := close_reads
  have a : closeProbe.unitRead closeU 0x1C00 256 true = .ok closeScales := got_of (by decide +kernel)
  refine loadPage_of (by rw [h5]; decide) (by rw [h1, h3]; decide) (by rw [h1, h2, h3]; exact a) close_run
theorem leNat_zero (l : List Byte) (h : ∀ x ∈ l, x = 0) : leNat l = 0 := by
  induction l with
  | nil => rfl
  | cons b l ih =>
    have hb : b = 0 := h b (by simp)
    have hl : leNat l = 0 := ih (fun x hx => h x (by simp [hx]))
    simp [leNat, hl, hb]
theorem close_dec (t j : Nat) : (Page.dec ⟨3, 64, zeros, closeScales⟩ false t j).isFin = true := by
  have z (n : Nat) : leNat ((zeros).drop n |>.take 3) = 0 :=
    leNat_zero _ (fun x hx => List.eq_of_mem_replicate (List.mem_of_mem_drop (List.mem_of_mem_take hx)))
  have s : closeScales.all (fun x => x = 0) = true := by decide +kernel
  have s' (n : Nat) : le8 closeScales n = 0 := by
    exact leNat_zero _ (fun x hx => by simpa using List.all_eq_true.mp s x (List.mem_of_mem_drop (List.mem_of_mem_take hx)))
  simp only [Page.dec, z, s', Nat.zero_div, Nat.zero_mod]
  simp
  decide +kernel
theorem close_sum : (summaryOf ⟨3, 64, zeros, closeScales⟩).2.2 = false := by
  have k (t : Nat) : ((List.range 64).map (Page.dec ⟨3, 64, zeros, closeScales⟩ false t)).all X.isFin = true := by
    simp [close_dec]
  unfold summaryOf
  simp only [k]
  simp
  split <;> rfl
theorem cut_one (va : Nat) (d : List Byte) (hd : d.length = 192) (hv : va % 4096 + 192 ≤ 4096) (hw : va < 2 ^ 64) :
    cutPages (d.length / 4096 + 2) va d = [(va, d)] := by
  have e : d.isEmpty = false := by cases d <;> simp_all
  have m : min 192 (4096 - va % 4096) = 192 := by omega
  simp [cutPages, hd, e, m, List.take_of_length_le (Nat.le_of_eq hd), List.drop_eq_nil_of_le (Nat.le_of_eq hd)]
  exact hw
theorem store_one (s : State) (u : Master) (va : Nat) (d : List Byte) (hd : d.length = 192) (hv : va % 4096 + 192 ≤ 4096) (hw : va < 2 ^ 64)
    (h : okAnd (s.unitAt u va .write) (fun t => !t.prot && !t.isRange && !s.isBad t.pa 192) = true) : ∃ v, s.unitStore u (some 0) va d = .ok v := by
  obtain ⟨t, e, ht⟩ := ok_of h
  simp only [Bool.and_eq_true, Bool.not_eq_true'] at ht
  unfold State.unitStore
  rw [cut_one va d hd hv hw]
  simp [badsOf, e, firstBad, State.unitStoreP, State.storePiece, ht, hd, bind, Except.bind, pure, Except.pure, asStore]
theorem summarise_of {s : State} {u : Master} {core : Nat} {k : Ksr} {pg : Nat} {p : Pte} {d : Page} {v : Nat × State} (h1 : s.kvPage u k pg = .ok p)
    (h2 : fwValid p.cur = true) (h3 : fwTier p.cur ≠ 7) (h4 : p.readers ≠ 0xFFFF) (h5 : s.loadPage u k p = .ok d) (h6 : (summaryOf d).2.2 = false)
    (h7 : ((s.sawKsr u k [pg]).touchLines (framePa (fwTier p.cur) (fwFrame p.cur)) (frameBytes (fwFormat p.cur) k.dim)).unitStore u (some core)
      (k.summVa pg) (summaryBytes (summaryOf d)) = .ok v) : s.summarise u core k pg = .ok (none, v.2) := by
  simp [State.summarise, h1, h2, h3, h4, h5, h6, h7, State.savePte, bind, Except.bind, pure, Except.pure]
theorem summary_length {d : Page} (h : d.dim = 64) : (summaryBytes (summaryOf d)).length = 192 := by
  have x : (summaryOf d).1.length = 64 := by
    unfold summaryOf
    simp only
    split
    · simp [h]
    · split <;> simp [h]
  simp [summaryBytes, nbytes_length, List.length_flatMap, x]
/-- KVCLOSE of a page of zeros: its summary is stored. -/
theorem wit_close_fields : closeProbe.kvPage closeU closeKsr 0 = .ok closePte ∧ (∃ d, closeProbe.loadPage closeU closeKsr closePte = .ok d ∧ (summaryOf d).2.2 = false) ∧
    (∃ u, closeProbe.summarise closeU 0 closeKsr 0 = .ok (none, u)) ∧ closeProbe.readKsr closeU closeKsr.addr = .ok closeKsr ∧
    okAnd (closeProbe.unitAt closeU (closeKsr.summVa 0) .write) (fun t => t.pa % 4096 + 2 * closeKsr.dim + 64 ≤ 4096) = true := by
  obtain ⟨k1, k2, n1, -, k3, -, k4, k5, n2, -, k6⟩ := close_reads
  have page : closeProbe.loadPage closeU closeKsr closePte = .ok ⟨3, 64, zeros, closeScales⟩ := by rw [close_page, n1, n2]
  refine ⟨k3, ⟨_, page, close_sum⟩, ?_, k2 ▸ k1, by decide +kernel⟩
  obtain ⟨v, hv⟩ := store_one ((closeProbe.sawKsr closeU closeKsr [0]).touchLines (framePa (fwTier closePte.cur) (fwFrame closePte.cur))
    (frameBytes (fwFormat closePte.cur) closeKsr.dim)) closeU (closeKsr.summVa 0) (summaryBytes (summaryOf ⟨3, 64, zeros, closeScales⟩)) (summary_length rfl)
    (by decide +kernel) (by decide +kernel) (by decide +kernel)
  exact ⟨v.2, summarise_of k3 k4 (by rw [k5]; decide) k6 page close_sum hv⟩

end Sys2Proof
end

section
/-! Going on: an instruction that only retires and moves past itself changes nothing that GoesOn names. -/

namespace Sys2Proof.Machine

theorem aset_of_aget {α β : Type} [DecidableEq α] (l : List (α × β)) (k : α) (v : β) (h : aget l k = some v) : aset l k v = l := by
  induction l with
  | nil => simp [aget] at h
  | cons p l ih =>
    simp only [aget] at h
    simp only [aset]
    split
    · rename_i e
      rw [if_pos e] at h
      cases p
      simp_all
    · rename_i e
      rw [if_neg e] at h
      rw [ih h]

theorem State.modWarp_id (s : State) (k : WarpKey) (h : (aget s.warps k).isSome = true) : s.modWarp k (fun w => w) = s := by
  obtain ⟨w, hw⟩ := Option.isSome_iff_exists.mp h
  have same : aset s.warps k (s.warp k) = s.warps := aset_of_aget _ _ _ (by simp [State.warp, hw])
  rw [State.modWarp, State.setWarp, same]
theorem State.heal_of_none (s : State) (p : Spot → Bool) (h : ∀ x, p x = false) : s.heal p = s := by
  have same : s.badSpots.filter (fun x => !p x) = s.badSpots := List.filter_eq_self.mpr fun x _ => by rw [h x]; rfl
  rw [State.heal, same]
/-- To write no register of a warp that is there changes nothing. -/
theorem wrLanes_nil (s : State) (k : WarpKey) (h : (aget s.warps k).isSome = true) : s.wrLanes k [] = s := by
  rw [State.wrLanes, State.heal_of_none]
  · exact s.modWarp_id k h
  · intro x
    cases x <;> simp

theorem issued_warp_isSome (i : Instr) (s : State) (g : Cur) : (aget (issued i s g).warps g.warp).isSome = true := by
  simp [issued]

/-- Retiring and moving past the instruction is all that going on names. -/
theorem retire_advance_goesOn (s : State) (g : Cur) (h : (aget s.warps g.warp).isSome = true) :
    GoesOn s ((s.retire g).advance g) g := by
  have e : wroteMoved s g [] (onward g) = (s.retire g).advance g := by
    rw [wroteMoved, wrLanes_nil s g.warp h]
    rfl
  rw [← e]
  exact ⟨wroteMoved_quiet .., fun r l => wroteMoved_regs ..⟩

/-- An instruction whose meaning, under pre, is to finish only goes on. -/
theorem goesOn_of_finish (i : Instr) (pre : State → Cur → Prop) (k : Cur → State → Out) (he : ∀ s, exec i s = issue i s k)
    (hk : ∀ s g, pre s g → k g s = finish s g) : Completes i pre GoesOn := by
  intro s g hf hp
  refine ⟨_, ?_, retire_advance_goesOn _ g (issued_warp_isSome i s g)⟩
  rw [he, issue_free _ _ _ _ hf, hk _ _ hp]
  rfl

end Sys2Proof.Machine
end

section
/-! Work of the pools: what dropping allocations may change. -/

namespace Sys2Proof.Machine

/-- A state with the fields that a write of the pools' own arrays touches taken from s: memory, the records of the homes and of
L2, counts, the pools' requests and runs, and the faults met there. -/
def withPools (s t : State) : State :=
  { t with mem := s.mem, lines := s.lines, out := s.out, l2 := s.l2, scr := s.scr, runs := s.runs, met := s.met, poolQ := s.poolQ }
/-- From s to t nothing but those fields has changed. -/
def PoolWork (s t : State) : Prop := withPools s t = s

namespace PoolWork
variable {s t u : State}

theorem refl (s : State) : PoolWork s s := rfl
theorem trans (h : PoolWork s t) (h' : PoolWork t u) : PoolWork s u := (congrArg (withPools s) h').trans h
theorem warps (h : PoolWork s t) : t.warps = s.warps := show (withPools s t).warps = s.warps from congrArg _ h
theorem clearing (h : PoolWork s t) : t.clearing = s.clearing := show (withPools s t).clearing = s.clearing from congrArg _ h
theorem faultQ (h : PoolWork s t) : t.faultQ = s.faultQ := show (withPools s t).faultQ = s.faultQ from congrArg _ h
theorem ctxs (h : PoolWork s t) : t.ctxs = s.ctxs := show (withPools s t).ctxs = s.ctxs from congrArg _ h
theorem nextId (h : PoolWork s t) : t.nextId = s.nextId := show (withPools s t).nextId = s.nextId from congrArg _ h
theorem time (h : PoolWork s t) : t.time = s.time := show (withPools s t).time = s.time from congrArg _ h
theorem withRuns (h : PoolWork s t) (r : List ((Nat × Nat) × Nat × Nat)) : PoolWork s { t with runs := r } := h
theorem foldl {α : Type} (f : State → α → State) (hf : ∀ s a, PoolWork s (f s a)) (l : List α) : ∀ s, PoolWork s (l.foldl f s) := by
  induction l with
  | nil => exact refl
  | cons a l ih => exact fun s => (hf s a).trans (ih _)

end PoolWork

theorem State.l2Room_poolWork (s : State) (h : Nat) : PoolWork s (s.l2Room h) := by
  unfold State.l2Room
  split
  · rfl
  · split <;> rfl
theorem State.l2Touch_poolWork (s : State) (line : Nat) (mod : Bool) : PoolWork s (s.l2Touch line mod) := by
  unfold State.l2Touch
  split
  · rfl
  · exact (show PoolWork s (s.count none 0x0F 1) from rfl).trans (State.l2Room_poolWork _ _)
theorem State.l2Touches_poolWork (s : State) (cached : Bool) (ls : List Nat) :
    PoolWork s (if cached then ls.foldl (fun s l => s.l2Touch l true) s else s) := by
  split
  · exact PoolWork.foldl _ (fun s l => s.l2Touch_poolWork l true) _ _
  · rfl
theorem State.put_poolWork (s : State) (pa : Nat) (d : List Byte) : PoolWork s (s.put pa d) := by
  refine PoolWork.trans ?_ (State.l2Touches_poolWork _ _ _)
  rfl
theorem State.dedupForget_poolWork (s : State) (u n : Nat) : PoolWork s (s.dedupForget u n) := by
  unfold State.dedupForget
  split
  · rfl
  · dsimp only
    split
    · rfl
    · split
      · exact State.put_poolWork ..
      · rfl
theorem State.releaseRun_poolWork (s : State) (t u n : Nat) : PoolWork s (s.releaseRun t u n) := by
  unfold State.releaseRun
  dsimp only
  split
  · rfl
  split
  · rfl
  split
  · rfl
  split
  · exact State.put_poolWork ..
  · have forgotten : PoolWork s (if t = 0 then s.dedupForget u n else s) := by
      split
      · exact State.dedupForget_poolWork ..
      · rfl
    have freed := PoolWork.foldl (fun s i => s.setFree t (u + i) true) (fun s i => State.put_poolWork ..) (List.range (s.runUnits t u n))
    exact ((forgotten.trans (State.put_poolWork ..)).trans (freed _)).withRuns _
theorem State.dropAllocs_poolWork (s : State) (p : Alloc → Bool) : PoolWork s (s.dropAllocs p) := by
  refine (show PoolWork s { s with poolQ := s.poolQ.filter (fun a => !p a) } from rfl).trans (PoolWork.foldl _ (fun s a => ?_) _ _)
  split
  · exact State.releaseRun_poolWork ..
  · rfl

/-- Where no run has been granted to what is dropped, only the queue of the pools changes. -/
theorem State.dropAllocs_of_none_got (s : State) (p : Alloc → Bool) (h : ∀ a ∈ s.poolQ, p a = true → a.got = none) :
    s.dropAllocs p = { s with poolQ := s.poolQ.filter (fun a => !p a) } := by
  have idle : ∀ (l : List Alloc), (∀ a ∈ l, a.got = none) → ∀ t : State,
      l.foldl (fun s a => match a.got with | some u => s.releaseRun a.tier u a.units | none => s) t = t := by
    intro l
    induction l with
    | nil => exact fun _ _ => rfl
    | cons a l ih =>
      intro hl t
      rw [List.foldl_cons, hl a (List.mem_cons_self ..)]
      exact ih (fun b hb => hl b (List.mem_cons_of_mem _ hb)) t
  exact idle _ (fun a ha => h a (List.mem_filter.mp ha).1 (List.mem_filter.mp ha).2) _
theorem State.dropAllocs_mem (s : State) (p : Alloc → Bool) (h : ∀ a ∈ s.poolQ, p a = true → a.got = none) :
    (s.dropAllocs p).mem = s.mem := by
  rw [s.dropAllocs_of_none_got p h]

end Sys2Proof.Machine
end

section
/-! Taking an exception: what State.takeFault leaves (R207 to R213). -/

namespace Sys2Proof.Machine

/-! Kills (R208, R225). -/

theorem State.startKill_kill (s : State) (c : Nat) (code : Option Code) (lanes : List (Nat × Nat)) :
    ∃ k, ((s.startKill c code lanes).ctx c).kill = some k := by
  unfold State.startKill
  split
  · exact ⟨_, by rw [State.ctx_modCtx_same]⟩
  · dsimp only
    refine ⟨⟨code, lanes⟩, ?_⟩
    have dropped (u : State) : ((u.dropAllocs (fun a => a.ctx = c)).ctx c).kill = (u.ctx c).kill := by
      simp only [State.ctx, (State.dropAllocs_poolWork ..).ctxs]
    have killed : ((s.modCtx c (fun x => { x with kill := some ⟨code, lanes⟩, sweep := none })).ctx c).kill = some ⟨code, lanes⟩ := by
      rw [State.ctx_modCtx_same]
    exact (dropped _).trans killed
theorem State.startKill_mem (s : State) (c : Nat) (code : Option Code) (lanes : List (Nat × Nat))
    (h : ∀ a ∈ s.poolQ, a.ctx = c → a.got = none) : (s.startKill c code lanes).mem = s.mem := by
  unfold State.startKill
  split
  · rfl
  · dsimp only
    exact State.dropAllocs_mem _ _ (fun a ha hc => h a ha (of_decide_eq_true hc))
theorem State.killFor_mem (s : State) (c : Nat) (code : Code) (h : ∀ a ∈ s.poolQ, a.ctx = c → a.got = none) :
    (s.killFor c code).mem = s.mem := by
  unfold State.killFor
  split
  · rfl
  · exact State.startKill_mem _ _ _ _ h
theorem State.killFor_kills (s : State) (c : Nat) (code : Code) :
    if c = 63 then (s.killFor c code).phase = .recovery else ∃ k, ((s.killFor c code).ctx c).kill = some k := by
  unfold State.killFor
  split
  · rfl
  · exact State.startKill_kill ..

/-! The warp is held. -/

theorem State.strikeWarp_eq (s : State) (k : WarpKey) : ∃ c p q, s.strikeWarp k =
    { s with ctxs := c, scr := { s.scr with prfCnt := p, prfNow := q },
             clearing := s.clearing.map (fun e => if e.warp = k then { e with st := .struck } else e) } := by
  unfold State.strikeWarp
  dsimp only
  split
  · exact ⟨_, _, _, rfl⟩
  · obtain ⟨c, p, q, h⟩ := count_eq s (some k.crew.ctx) 0x0C (s.clearing.filter (fun e => e.warp = k && e.st != .struck)).length
    exact ⟨c, p, q, by rw [h]⟩

/-- The warp as a fault under report n holds it, at the faulting instruction and with its registers. -/
def heldWarp (n : Nat) (g : Cur) (f : Fx) (w : Warp) : Warp :=
  { (w.modSlices g.slices Slice.unblock) with
    held := some ⟨n, f.code, f.code.kind, g.slices, g.len⟩, latch := [none, none, none], place := .creel }
/-- The state of takeFault before its report is queued or its context killed: the warp is held under the report to come, its
early-load entries struck, its allocations dropped. -/
def faultHeld (s : State) (g : Cur) (f : Fx) : State :=
  ((s.modWarp g.warp (heldWarp s.nextId g f)).strikeWarp g.warp).dropAllocs (fun a => a.who.ofWarp g.warp)

/-- What holding the warp leaves, in the fields that the report and the frame read. -/
structure HeldBy (s t : State) (g : Cur) (f : Fx) : Prop where
  warp : t.warp g.warp = heldWarp s.nextId g f (s.warp g.warp)
  struck : ∀ e ∈ t.clearing, e.warp = g.warp → e.st = .struck
  faultQ : t.faultQ = s.faultQ
  nextId : t.nextId = s.nextId
  time : t.time = s.time

theorem faultHeld_heldBy (s : State) (g : Cur) (f : Fx) : HeldBy s (faultHeld s g f) g f := by
  obtain ⟨c, p, q, hs⟩ := State.strikeWarp_eq (s.modWarp g.warp (heldWarp s.nextId g f)) g.warp
  have hd := State.dropAllocs_poolWork ((s.modWarp g.warp (heldWarp s.nextId g f)).strikeWarp g.warp)
    (fun a => a.who.ofWarp g.warp)
  refine ⟨?_, ?_, ?_, ?_, ?_⟩
  · rw [faultHeld, State.warp, hd.warps, hs]
    exact State.warp_modWarp_same ..
  · intro e he hw
    rw [faultHeld, hd.clearing, hs] at he
    obtain ⟨e', -, rfl⟩ := List.mem_map.mp he
    split at hw
    · rename_i own
      rw [if_pos own]
    · contradiction
  · rw [faultHeld, hd.faultQ, hs]; rfl
  · rw [faultHeld, hd.nextId, hs]; rfl
  · rw [faultHeld, hd.time, hs]; rfl
/-- Where no frames are granted to the warp, holding it leaves memory and shortens the pools' queue only. -/
theorem faultHeld_mem (s : State) (g : Cur) (f : Fx) (h : ∀ a ∈ s.poolQ, a.who.ofWarp g.warp = true → a.got = none) :
    (faultHeld s g f).mem = s.mem ∧ ∀ a ∈ (faultHeld s g f).poolQ, a ∈ s.poolQ := by
  obtain ⟨c, p, q, hs⟩ := State.strikeWarp_eq (s.modWarp g.warp (heldWarp s.nextId g f)) g.warp
  rw [faultHeld, hs, State.dropAllocs_of_none_got]
  · exact ⟨rfl, fun a ha => (List.mem_filter.mp ha).1⟩
  · exact h

/-! Taking the exception. -/

/-- The state in which takeFault starts, the error counted where the instruction is the first to meet it. -/
def faultCounted (s : State) (g : Cur) (f : Fx) : State := if f.met then s else s.eccCount g.ctx f.code

theorem takeFault_eq (s : State) (g : Cur) (f : Fx) : s.takeFault g f =
    let c := faultCounted s g f
    if c.undelivered g.ctx (c.privOf g.warp) then (faultHeld c g f).killFor g.ctx f.code
    else (faultHeld c g f).queueReport (c.warpReport g f) := rfl

theorem faultCounted_eq (s : State) (g : Cur) (f : Fx) :
    ∃ c p q, faultCounted s g f = { s with ctxs := c, scr := { s.scr with prfCnt := p, prfNow := q } } := by
  unfold faultCounted State.eccCount
  split
  · exact ⟨_, _, _, rfl⟩
  · split
    · exact count_eq ..
    · exact ⟨_, _, _, rfl⟩
theorem faultCounted_undelivered (s : State) (g : Cur) (f : Fx) (c : Nat) (b : Bool) :
    (faultCounted s g f).undelivered c b = s.undelivered c b := by
  have desc : ((faultCounted s g f).ctx c).desc = (s.ctx c).desc := by
    unfold faultCounted State.eccCount
    split
    · rfl
    · split
      · exact (Ctx.mk.inj (ctx_count s (some g.ctx) 0x1A 1 c)).1
      · rfl
  rw [State.undelivered, State.undelivered, desc]

/-- A delivered exception: the warp is held and the report is the newest of the fault queue. -/
theorem queueReport_heldAt {s t : State} {g : Cur} {f : Fx} (h : HeldBy s t g f) : HeldAt s (t.queueReport (s.warpReport g f)) g f := by
  have warp : (t.queueReport (s.warpReport g f)).warp g.warp = t.warp g.warp := rfl
  refine ⟨?_, ?_, ?_, ?_, h.struck, ?_⟩
  · rw [warp, h.warp]; rfl
  · rw [warp, h.warp]; rfl
  · rw [warp, h.warp]; rfl
  · intro r l
    rw [warp, h.warp]
    rfl
  · rw [State.queueReport, h.faultQ, h.nextId, h.time]
    rfl

/-- Taking a fault is what Excepted says of it. -/
theorem takeFault_excepted (s : State) (g : Cur) (f : Fx) : Excepted s (s.takeFault g f) g f := by
  have same := faultCounted_undelivered s g f g.ctx
  obtain ⟨c, p, q, hc⟩ := faultCounted_eq s g f
  have priv : (faultCounted s g f).privOf g.warp = s.privOf g.warp := by rw [hc]; rfl
  rw [takeFault_eq]
  dsimp only
  rw [same, priv]
  refine ⟨fun hq => ?_, fun hd => ?_, fun hk => ?_⟩
  · have hq' : ∀ a ∈ (faultCounted s g f).poolQ, a.ctx = g.ctx ∨ a.who.ofWarp g.warp = true → a.got = none := by rw [hc]; exact hq
    have mem : (faultCounted s g f).mem = s.mem := by rw [hc]
    obtain ⟨held, sub⟩ := faultHeld_mem (faultCounted s g f) g f (fun a ha hw => hq' a ha (.inr hw))
    split
    · rw [State.killFor_mem _ _ _ (fun a ha hx => hq' a (sub a ha) (.inl hx)), held, mem]
    · exact held.trans mem
  · rw [hd, if_neg Bool.false_ne_true]
    have h := queueReport_heldAt (faultHeld_heldBy (faultCounted s g f) g f)
    rw [hc] at h ⊢
    exact ⟨h.held, h.slices, h.latch, h.regs, h.struck, h.queued⟩
  · rw [hk, if_pos rfl]
    exact State.killFor_kills ..

/-- A fault that is no access's is taken at once. -/
theorem raise_eq_takeFault (s : State) (g : Cur) (f : Fx) (hb : f.busy = false) (hr : f.refused = false) (hc : f.code ≠ .uncorrectable) :
    raise s g f = .next (s.takeFault g f) := by
  simp [raise, hb, hr, hc]

/-- An instruction that, under pre, raises a fault takes its exception. -/
theorem excepted_of_raise (i : Instr) (pre : State → Cur → Prop) (k : Cur → State → Out) (f : State → Cur → Fx)
    (he : ∀ s, exec i s = issue i s k) (hk : ∀ s g, pre s g → k g s = raise s g (f s g))
    (hf : ∀ s g, (f s g).busy = false ∧ (f s g).refused = false ∧ (f s g).code ≠ .uncorrectable) :
    Completes i pre (fun s t g => Excepted s t g (f s g)) := by
  intro s g hfree hp
  obtain ⟨hb, hr, hc⟩ := hf (issued i s g) g
  refine ⟨_, ?_, takeFault_excepted ..⟩
  rw [he, issue_free _ _ _ _ hfree, hk _ _ hp, raise_eq_takeFault _ _ _ hb hr hc]

end Sys2Proof.Machine
end

section
/-! TRAP and BKPT (R283). -/

namespace Sys2Proof.Machine

/-- The meaning that TRAP and BKPT share: the fault of the code where a lane takes part, else nothing. -/
def trapMeaning (c : Code) (h : Hdr) (g : Cur) (s : State) : Out :=
  if (s.taking g h).isEmpty then finish s g else raise s g { code := c, lanes := s.taking g h }

theorem exec_trap (f : Code8) (s : State) : exec (.trap f) s = issue (.trap f) s (trapMeaning .trap f.h) := rfl
theorem exec_bkpt (f : Bare) (s : State) : exec (.bkpt f) s = issue (.bkpt f) s (trapMeaning .bkpt f.h) := rfl

theorem trapMeaning_of_some (c : Code) {h : Hdr} {s : State} {g : Cur} (hs : Some1 h s g) :
    trapMeaning c h g s = raise s g { code := c, lanes := s.taking g h } :=
  if_neg (mt List.isEmpty_iff.mp hs)
theorem trapMeaning_of_none (c : Code) {h : Hdr} {s : State} {g : Cur} (hn : None1 h s g) : trapMeaning c h g s = finish s g :=
  if_pos (List.isEmpty_iff.mpr hn)

/-- An instruction of that meaning takes its exception with a lane, and only goes on with none. -/
theorem trapMeaning_completes (i : Instr) (c : Code) (h : Hdr) (hc : c ≠ .uncorrectable)
    (he : ∀ s, exec i s = issue i s (trapMeaning c h)) :
    Completes i (Some1 h) (fun s t g => Excepted s t g { code := c, lanes := s.taking g h }) ∧ Completes i (None1 h) GoesOn :=
  ⟨excepted_of_raise i _ _ (fun s g => { code := c, lanes := s.taking g h }) he (fun _ _ => trapMeaning_of_some c) fun _ _ => ⟨rfl, rfl, hc⟩,
    goesOn_of_finish i _ _ he fun _ _ => trapMeaning_of_none c⟩

/-- Settles O13: a fault with a lane is takeFault, and without one the instruction finishes. -/
theorem trapsTaken : Obligations.TrapsTaken :=
  ⟨fun f => ⟨rfl, trapMeaning_completes _ _ _ (by decide) (exec_trap f)⟩, fun f => trapMeaning_completes _ _ _ (by decide) (exec_bkpt f)⟩

end Sys2Proof.Machine
end

section
/-! YIELD, CANPT and HEART (R282). -/

namespace Sys2Proof.Machine

/-- What each of the three does in the issued state. -/
def yieldMeaning (h : Hdr) (g : Cur) (s : State) : Out :=
  let u := (s.retire g).advance g
  match (if !(s.taking g h).isEmpty then u.swapPick (u.coreOf g.warp) (quarterOf u g.warp) else none) with
  | some k => .next ((u.toCreel g.warp).enter k)
  | none => .next u
def canptMeaning (h : Hdr) (g : Cur) (s : State) : Out :=
  if (s.taking g h).isEmpty then finish s g else cancelPoint s g (finish s g)
def heartMeaning (h : Hdr) (g : Cur) (s : State) : Out :=
  if (s.taking g h).isEmpty then finish s g
  else finish (s.modLaunch g.ctx g.crewK.launch (fun x => { x with timer := 0 })) g

theorem exec_yield (f : Bare) (s : State) : exec (.yield f) s = issue (.yield f) s (yieldMeaning f.h) := rfl
theorem exec_canpt (f : Bare) (s : State) : exec (.canpt f) s = issue (.canpt f) s (canptMeaning f.h) := rfl
theorem exec_heart (f : Bare) (s : State) : exec (.heart f) s = issue (.heart f) s (heartMeaning f.h) := rfl

section
variable {h : Hdr} {s : State} {g : Cur}

theorem isEmpty_taking_of_some (hs : Some1 h s g) : (s.taking g h).isEmpty = false :=
  Bool.eq_false_iff.mpr (mt List.isEmpty_iff.mp hs)

theorem yieldMeaning_of_some (hs : Some1 h s g) : yieldMeaning h g s =
    let u := (s.retire g).advance g
    .next (match u.swapPick (u.coreOf g.warp) (quarterOf u g.warp) with
      | some k => (u.toCreel g.warp).enter k
      | none => u) := by
  simp only [yieldMeaning, isEmpty_taking_of_some hs, Bool.not_false, if_true]
  split <;> rfl
theorem yieldMeaning_of_none (hn : None1 h s g) : yieldMeaning h g s = finish s g := by
  simp only [yieldMeaning, List.isEmpty_iff.mpr hn, Bool.not_true]
  rfl
theorem canptMeaning_of_pending (hs : Some1 h s g) (hp : (s.warp g.warp).pending = true) :
    canptMeaning h g s = .next (s.cancelWarp g.warp) := by
  rw [canptMeaning, isEmpty_taking_of_some hs, if_neg Bool.false_ne_true, cancelPoint, if_pos hp]
theorem canptMeaning_of_not_pending (hs : Some1 h s g) (hp : (s.warp g.warp).pending = false) : canptMeaning h g s = finish s g := by
  rw [canptMeaning, isEmpty_taking_of_some hs, if_neg Bool.false_ne_true, cancelPoint, hp, if_neg Bool.false_ne_true]
theorem canptMeaning_of_none (hn : None1 h s g) : canptMeaning h g s = finish s g := if_pos (List.isEmpty_iff.mpr hn)
theorem heartMeaning_of_some (hs : Some1 h s g) : heartMeaning h g s =
    finish (s.modLaunch g.ctx g.crewK.launch (fun x => { x with timer := 0 })) g :=
  if_neg (mt List.isEmpty_iff.mp hs)
theorem heartMeaning_of_none (hn : None1 h s g) : heartMeaning h g s = finish s g := if_pos (List.isEmpty_iff.mpr hn)
end

/-- With a lane, YIELD goes on, and then the creel warp that swap-in picks, if any, takes the warp's place. -/
theorem yield_completes (f : Bare) : Completes (.yield f) (Some1 f.h) fun s t g => ∃ u, GoesOn s u g ∧
    match u.swapPick (u.coreOf g.warp) (quarterOf u g.warp) with
    | some k => t = (u.toCreel g.warp).enter k
    | none => t = u := by
  intro s g hf hs
  refine ⟨_, by rw [exec_yield, issue_free _ _ _ _ hf, yieldMeaning_of_some hs], _,
    retire_advance_goesOn _ g (issued_warp_isSome _ s g), ?_⟩
  split <;> rfl
/-- With a lane and PENDING set, CANPT cancels the warp. -/
theorem canpt_cancels (f : Bare) : Completes (.canpt f) (fun s g => Some1 f.h s g ∧ (s.warp g.warp).pending = true)
    fun s t g => t = s.cancelWarp g.warp := by
  intro s g hf ⟨hs, hp⟩
  exact ⟨_, by rw [exec_canpt, issue_free _ _ _ _ hf, canptMeaning_of_pending hs hp], rfl⟩
/-- Retiring leaves a timer of 0 at 0. -/
theorem timer_of_counted {s t : State} (h : Counted s t) (c l : Nat) (hz : (s.launch c l).timer = 0) : (t.launch c l).timer = 0 := by
  obtain e | e := h.launches c l
  · rw [e, hz]
  · rw [e]
/-- With a lane, HEART sets the launch's timer to 0 and goes on. -/
theorem heart_completes (f : Bare) : Completes (.heart f) (Some1 f.h) fun s t g =>
    (t.launch g.ctx g.crewK.launch).timer = 0 ∧
    GoesOn (s.modLaunch g.ctx g.crewK.launch (fun x => { x with timer := 0 })) t g := by
  intro s g hf hs
  have on := retire_advance_goesOn ((issued (.heart f) s g).modLaunch g.ctx g.crewK.launch (fun x => { x with timer := 0 })) g
    (issued_warp_isSome _ s g)
  exact ⟨_, by rw [exec_heart, issue_free _ _ _ _ hf, heartMeaning_of_some hs]; rfl,
    timer_of_counted on.1.counted _ _ (by rw [launch_modLaunch_same]), on⟩

/-- Settles O16: each is its meaning in the issued state, by whether a lane takes part. -/
theorem yieldCanptHeart : Obligations.YieldCanptHeart :=
  ⟨yield_completes, canpt_cancels,
    fun f => goesOn_of_finish _ _ _ (exec_canpt f) fun _ _ hp => canptMeaning_of_not_pending hp.1 hp.2,
    heart_completes, fun _ => ⟨rfl, rfl, rfl, rfl, rfl, rfl⟩,
    fun f => ⟨goesOn_of_finish _ _ _ (exec_yield f) fun _ _ => yieldMeaning_of_none,
      goesOn_of_finish _ _ _ (exec_canpt f) fun _ _ => canptMeaning_of_none,
      goesOn_of_finish _ _ _ (exec_heart f) fun _ _ => heartMeaning_of_none⟩⟩

end Sys2Proof.Machine
end

section
/-! ACCZ (R324). -/

namespace Sys2Proof.Machine

/-- Where some lane takes part, a gang-wise instruction runs its meaning in the issued state, for its lowest lane. -/
theorem gangOp_of_taking (i : Instr) (h : Hdr) (k : Cur → State → Nat → List Nat → Out) {s : State} {g : Cur} {l : Nat} {ls : List Nat}
    (hf : Free i s g) (hl : (issued i s g).taking g h = l :: ls) : gangOp i h k s = k g (issued i s g) l (l :: ls) := by
  rw [gangOp, issue_free _ _ _ _ hf, hl]

/-- Healing words changes nothing that going on names: words may lose their errors there. -/
theorem goesOn_of_heal {s t : State} {g : Cur} (p : Spot → Bool) (h : GoesOn (s.heal p) t g) : GoesOn s t g := by
  obtain ⟨⟨moved, counted, rest⟩, regs⟩ := h
  refine ⟨⟨⟨moved.slices, moved.gangs, moved.warp, moved.others⟩,
    ⟨counted.ctxs, counted.launches, counted.teller, counted.pends⟩, ?_, ?_⟩, regs⟩
  · exact congrArg (fun u : State => { u with badSpots := s.badSpots }) rest.same
  · exact fun x hx => List.mem_of_mem_filter (rest.healed x hx)

/-- A read of the entries whose keys pass a test: what it gave before where the key passes, else 0. -/
theorem sget_filter {n : Nat} (p : Nat → Bool) (m : Sparse n) (j : Nat) :
    sget (m.filter fun e => p e.1) j = if p j then sget m j else 0 := by
  induction m with
  | nil => simp [sget]
  | cons e m ih =>
    by_cases hj : e.1 = j
    · subst hj
      cases he : p e.1 <;> simp [he, ih, sget]
    · cases he : p e.1 <;> simp [he, ih, sget, hj]

/-- Key b is one of tile d. -/
def inTile (d b : Nat) : Bool := 32768 * d ≤ b && b < 32768 * (d + 1)
/-- The words of a crew's tiles without those of tile d. -/
def clearTile (m : Sparse 32) (d : Nat) : Sparse 32 := m.filter fun e => !inTile d e.1

theorem sget_clearTile_same (m : Sparse 32) {d i : Nat} (hi : i < 32768) : sget (clearTile m d) (32768 * d + i) = 0 := by
  have key : inTile d (32768 * d + i) = true := by simp [inTile]; omega
  simp [clearTile, sget_filter (fun b => !inTile d b), key]
theorem sget_clearTile_other (m : Sparse 32) {d b : Nat} (hb : b < 32768 * d ∨ 32768 * (d + 1) ≤ b) :
    sget (clearTile m d) b = sget m b := by
  have key : inTile d b = false := by simp [inTile]; omega
  simp [clearTile, sget_filter (fun b => !inTile d b), key]

/-- The place is a word of tile d of crew k. -/
def tileSpot (k : CrewKey) (d : Nat) : Spot → Bool
  | .tile k' n => k' = k && n / 32768 = d
  | _ => false
/-- Tile d of crew k cleared: its words read 0 and hold no error. -/
def zeroTile (s : State) (k : CrewKey) (d : Nat) : State :=
  (s.modCrew k fun c => { c with tiles := clearTile c.tiles d }).heal (tileSpot k d)
/-- What ACCZ does in the issued state, with a lane. -/
def acczMeaning (f : Tile1) (g : Cur) (s : State) (_ : Nat) (lanes : List Nat) : Out :=
  if !s.tileOk g.crewK f.k then raise s g { code := .accumRange, lanes := lanes }
  else finish (zeroTile s g.crewK f.k.toNat) g

theorem exec_accz (f : Tile1) (s : State) : exec (.accz f) s = gangOp (.accz f) f.h (acczMeaning f) s := rfl
theorem acczMeaning_of_tileOk (f : Tile1) {s : State} {g : Cur} (l : Nat) (ls : List Nat) (hk : f.k.toNat < (s.packetOf g.crewK).tiles) :
    acczMeaning f g s l ls = finish (zeroTile s g.crewK f.k.toNat) g := by
  simp [acczMeaning, State.tileOk, hk]

theorem zeroTile_goesOn (s : State) (g : Cur) (d : Nat) (h : (aget s.warps g.warp).isSome = true) :
    GoesOn (s.modCrew g.crewK fun c => { c with tiles := clearTile c.tiles d })
      (((zeroTile s g.crewK d).retire g).advance g) g :=
  goesOn_of_heal _ (retire_advance_goesOn (zeroTile s g.crewK d) g h)
/-- Going on from a cleared tile is to write 0 to each of its words and leave the other tiles. -/
theorem zeroTile_writesTile (s : State) (g : Cur) (d : Nat) (h : (aget s.warps g.warp).isSome = true) :
    WritesTile s (((zeroTile s g.crewK d).retire g).advance g) g d fun _ => 0 :=
  ⟨clearTile (s.crew g.crewK).tiles d, zeroTile_goesOn s g d h, fun _ => sget_clearTile_same _, fun _ => sget_clearTile_other _⟩

/-- ACCZ of a tile that the launch has clears it and goes on. -/
theorem accz_completes (f : Tile1) : Completes (.accz f) (fun s g => Some1 f.h s g ∧ f.k.toNat < (s.packetOf g.crewK).tiles)
    fun s t g => WritesTile s t g f.k.toNat fun _ => 0 := by
  intro s g hf ⟨hs, hk⟩
  obtain ⟨l, ls, hl⟩ := List.exists_cons_of_ne_nil hs
  have he : exec (.accz f) s = finish (zeroTile (issued (.accz f) s g) g.crewK f.k.toNat) g := by
    rw [exec_accz, gangOp_of_taking _ _ _ hf hl, acczMeaning_of_tileOk f _ _ hk]
  exact ⟨_, he, zeroTile_writesTile _ g _ (issued_warp_isSome _ s g)⟩

/-- D carries the tile's five bits, with three bits of 0 above them, and no other field is used. -/
theorem accz_fields (f : Tile1) : (Instr.accz f).fields = { d := f.k.setWidth 8 } := by
  have padded : (0#3 ++ f.k : BitVec 8) = f.k.setWidth 8 := (BitVec.setWidth_eq_append (by decide)).symm
  exact congrArg (fun d => ({ d := d } : Fields)) padded

/-- Settles O31: ACCZ drops the entries of its tile, and an entry that is not there reads as 0. -/
theorem acczClears : Obligations.AcczClears :=
  ⟨fun f => ⟨accz_fields f, accz_completes f⟩, by decide, by decide⟩

end Sys2Proof.Machine
end
